-- ==== Sys2Proof/Word.lean ====
section
/-! DEFINITION. The word types of the ZQ-4800 and their plainest arithmetic (00 R9, R10; 01 R13, R14). -/

namespace Sys2Proof

/-- A scalar register, a control register, an address being computed: 64 bits (01 R13). -/
abbrev Word := BitVec 64

/-- One byte of memory. -/
abbrev Byte := BitVec 8

/-- An instruction word of the scalar stream (03, head). -/
abbrev Word32 := BitVec 32

/-- The number of a scalar register, x0 to x31. -/
abbrev Reg := BitVec 5

/-- ACC80 element (06 R140). -/
abbrev Acc := BitVec 80

/-- `SignExtend(x, n)` of 00 R9 to 64 bits. -/
def sext (n : Nat) (x : BitVec n) : Word := x.signExtend 64

/-- `ZeroExtend(x, n)` of 00 R9 to 64 bits. -/
def zext (n : Nat) (x : BitVec n) : Word := x.setWidth 64

/-- A table by number: pairs in strictly rising order of their numbers, none of which holds what an unlisted number reads as, so
that equal tables are equal data. Its operations are in Machine/Tab.lean. -/
abbrev Tab (α : Type) := List (Nat × α)

/-- A Bool as a one-bit number. -/
def bit (b : Bool) : Nat := if b then 1 else 0

/-- A Bool as a word. -/
def boolWord (b : Bool) : Word := if b then 1 else 0

end Sys2Proof
end

