-- ==== Sys2Proof/Syntax.lean ====
section
/-! DEFINITION. The instructions, block words and events of the part: one constructor per row of the opcode table (03 R52 to R62,
07 R153, 95). -/

namespace Sys2Proof

/-- Integer operand width (03 R55). -/
inductive Width | w8 | w16 | w32 | w64
  deriving DecidableEq, Repr

/-- Scalar floating-point format (03 R58). -/
inductive SFmt | f16 | f32 | f64
  deriving DecidableEq, Repr

/-- The rm field (02 R40); values 5 and 6 are no instruction. -/
inductive RMode | rne | rtz | rdn | rup | rmm | dyn
  deriving DecidableEq, Repr

/-- FCVT types (03 R59). -/
inductive CvtType | i32 | n32 | i64 | n64 | f16 | f32 | f64
  deriving DecidableEq, Repr

/-- Scope codes 0 to 9 (15 R313). -/
inductive Scope | hart | core | cluster | quad | die | pair | device | system | pod | durable
  deriving DecidableEq, Repr

/-- The AMO ord field (03 R62). -/
inductive Ord | relaxed | acq | rel | acqrel
  deriving DecidableEq, Repr

/-- The fields of a block word below its vop (07 R146). -/
structure Fields where
  cv : Bool
  vd : BitVec 6
  vs1 : BitVec 6
  vs2 : BitVec 6
  vs3 : BitVec 6
  pm : BitVec 3
  pn : Bool
  rot : BitVec 3
  imm : BitVec 24
  deriving DecidableEq, Repr

/-- Agents of the consistency model (15 R313, R314). Clusters are numbered 24 x die + cluster. `engine` is an edge copy engine of a die, `die` its
translation unit, `unit` the launcher on C-die 0 or the root of trust on I-die 0 (log entry 8). -/
inductive AgentId
  | hart (n : Nat)
  | ctl (cluster : Nat)
  | engine (die n : Nat)
  | die (d : Nat)
  | unit (d : Nat)
  | host (port : Nat)
  | pod (pkg : Nat)
  deriving DecidableEq, Repr

/-- The points of the consistency model, one per scope instance (15 R315). For memory of a host that does not advertise multi-copy atomicity
`hostPt`, one per host agent, stands in place of `system` (15 R329); `durable` is the point of persistence (14 R294; 15 R313). -/
inductive Point
  | own (a : AgentId)
  | core (n : Nat)
  | cluster (n : Nat)
  | quad (n : Nat)
  | die (n : Nat)
  | pair (n : Nat)
  | device
  | system
  | hostPt (port : Nat)
  | pod
  | durable
  deriving DecidableEq, Repr

/-- The engines that run transfers (17 R345, R347). -/
inductive EngineId
  | ctl (cluster : Nat)
  | edge (die n : Nat)
  deriving DecidableEq, Repr

/-- SPDM messages over the link sideband (22 R408). -/
inductive SpdmMessage
  | getVersion | getCapabilities | negotiateAlgorithms | getDigests
  | getCertificate (slot : Nat)
  | challenge | getMeasurements | vendorDefinedRequest | other
  deriving DecidableEq, Repr

/-- An access that arrives from another package of the pod (23 R428): at byte `offset` of this package's HBM. -/
inductive PodAccess
  | read (offset : Nat) (size : Width)
  | write (offset : Nat) (size : Width) (value : Word)
  | amo (offset : Nat) (dbl : Bool) (op : BitVec 4) (operand compare : Word)
  deriving DecidableEq, Repr

/-- How the training of a die ended (22 R407, R417): bit k of `half` says that link k trained at half width, bit p of `noPair` that lending pair p cannot
train as one. -/
structure Training where
  trained : Bool
  half : Nat
  noPair : Nat
  deriving DecidableEq, Repr

/-- By which host port and IDE stream of it, 0 the link stream, a TLP arrives (23 R420). -/
structure HostLane where
  port : Nat
  stream : Nat
  deriving DecidableEq, Repr

/-- A read TLP as it arrives: does its integrity check succeed (23 R420)? -/
structure HostTlp where
  lane : HostLane
  integrityOk : Bool
  deriving DecidableEq, Repr

/-- One constructor per row of spec/opcode_table.json, in the table's order. Scalar words first, then the events that stand beside
them, the block words (07), and the events of the device. -/
inductive Instr
  /-- ADD (R73). -/
  | add (w : Width) (d a b : Reg)
  /-- SUB (R73). -/
  | sub (w : Width) (d a b : Reg)
  /-- AND (R73). -/
  | andR (w : Width) (d a b : Reg)
  /-- OR (R73). -/
  | orR (w : Width) (d a b : Reg)
  /-- XOR (R73). -/
  | xorR (w : Width) (d a b : Reg)
  /-- SLL (R73). -/
  | sll (w : Width) (d a b : Reg)
  /-- SRL (R73). -/
  | srl (w : Width) (d a b : Reg)
  /-- SRA (R73). -/
  | sra (w : Width) (d a b : Reg)
  /-- SLT (R73). -/
  | slt (w : Width) (d a b : Reg)
  /-- SLTU (R73). -/
  | sltu (w : Width) (d a b : Reg)
  /-- MIN (R73). -/
  | minR (w : Width) (d a b : Reg)
  /-- MAX (R73). -/
  | maxR (w : Width) (d a b : Reg)
  /-- MINU (R73). -/
  | minu (w : Width) (d a b : Reg)
  /-- MAXU (R73). -/
  | maxu (w : Width) (d a b : Reg)
  /-- CLZ (R73). -/
  | clz (w : Width) (d a : Reg)
  /-- CTZ (R73). -/
  | ctz (w : Width) (d a : Reg)
  /-- POPC (R73). -/
  | popc (w : Width) (d a : Reg)
  /-- MUL (R74). -/
  | mul (w : Width) (d a b : Reg)
  /-- MULH (R74). -/
  | mulh (w : Width) (d a b : Reg)
  /-- MULHU (R74). -/
  | mulhu (w : Width) (d a b : Reg)
  /-- DIV (R74). -/
  | div (w : Width) (d a b : Reg)
  /-- DIVU (R74). -/
  | divu (w : Width) (d a b : Reg)
  /-- REM (R74). -/
  | rem (w : Width) (d a b : Reg)
  /-- REMU (R74). -/
  | remu (w : Width) (d a b : Reg)
  /-- LIH (R77). -/
  | lih (d : Reg) (imm : BitVec 20)
  /-- ADDPC (R77). -/
  | addpc (d : Reg) (imm : BitVec 20)
  /-- ADDI (R75). -/
  | addi (d a : Reg) (imm : BitVec 15)
  /-- ANDI (R75). -/
  | andi (d a : Reg) (imm : BitVec 15)
  /-- ORI (R75). -/
  | ori (d a : Reg) (imm : BitVec 15)
  /-- XORI (R75). -/
  | xori (d a : Reg) (imm : BitVec 15)
  /-- SLTI (R75). -/
  | slti (d a : Reg) (imm : BitVec 15)
  /-- SLTIU (R75). -/
  | sltiu (d a : Reg) (imm : BitVec 15)
  /-- SLLI (R76). -/
  | slli (w : Width) (d a : Reg) (sh : BitVec 6)
  /-- SRLI (R76). -/
  | srli (w : Width) (d a : Reg) (sh : BitVec 6)
  /-- SRAI (R76). -/
  | srai (w : Width) (d a : Reg) (sh : BitVec 6)
  /-- LB (R78). -/
  | lb (d a : Reg) (imm : BitVec 15)
  /-- LBU (R78). -/
  | lbu (d a : Reg) (imm : BitVec 15)
  /-- LH (R78). -/
  | lh (d a : Reg) (imm : BitVec 15)
  /-- LHU (R78). -/
  | lhu (d a : Reg) (imm : BitVec 15)
  /-- LW (R78). -/
  | lw (d a : Reg) (imm : BitVec 15)
  /-- LWU (R78). -/
  | lwu (d a : Reg) (imm : BitVec 15)
  /-- LD (R78). -/
  | ld (d a : Reg) (imm : BitVec 15)
  /-- SB (R78). -/
  | sb (b a : Reg) (imm : BitVec 15)
  /-- SH (R78). -/
  | sh (b a : Reg) (imm : BitVec 15)
  /-- SW (R78). -/
  | sw (b a : Reg) (imm : BitVec 15)
  /-- SD (R78). -/
  | sd (b a : Reg) (imm : BitVec 15)
  /-- BEQ (R80). -/
  | beq (a b : Reg) (off : BitVec 15)
  /-- BNE (R80). -/
  | bne (a b : Reg) (off : BitVec 15)
  /-- BLT (R80). -/
  | blt (a b : Reg) (off : BitVec 15)
  /-- BGE (R80). -/
  | bge (a b : Reg) (off : BitVec 15)
  /-- BLTU (R80). -/
  | bltu (a b : Reg) (off : BitVec 15)
  /-- BGEU (R80). -/
  | bgeu (a b : Reg) (off : BitVec 15)
  /-- LOOP (R81). -/
  | loop (a : Reg) (off : BitVec 15)
  /-- JAL (R82). -/
  | jal (d : Reg) (off : BitVec 20)
  /-- JALR (R82). -/
  | jalr (d a : Reg) (imm : BitVec 15)
  /-- FADD (R83). -/
  | fadd (f : SFmt) (rm : RMode) (d a b : Reg)
  /-- FSUB (R83). -/
  | fsub (f : SFmt) (rm : RMode) (d a b : Reg)
  /-- FMUL (R83). -/
  | fmul (f : SFmt) (rm : RMode) (d a b : Reg)
  /-- FDIV (R83). -/
  | fdiv (f : SFmt) (rm : RMode) (d a b : Reg)
  /-- FSQRT (R83). -/
  | fsqrt (f : SFmt) (rm : RMode) (d a : Reg)
  /-- FMIN (R84). -/
  | fmin (f : SFmt) (d a b : Reg)
  /-- FMAX (R84). -/
  | fmax (f : SFmt) (d a b : Reg)
  /-- FSGNJ (R84). -/
  | fsgnj (f : SFmt) (d a b : Reg)
  /-- FSGNJN (R84). -/
  | fsgnjn (f : SFmt) (d a b : Reg)
  /-- FSGNJX (R84). -/
  | fsgnjx (f : SFmt) (d a b : Reg)
  /-- FCMP_EQ (R84). -/
  | fcmpEq (f : SFmt) (d a b : Reg)
  /-- FCMP_LT (R84). -/
  | fcmpLt (f : SFmt) (d a b : Reg)
  /-- FCMP_LE (R84). -/
  | fcmpLe (f : SFmt) (d a b : Reg)
  /-- FCLASS (R85). -/
  | fclass (f : SFmt) (d a : Reg)
  /-- FCVT (R86). -/
  | fcvt (dst src : CvtType) (rm : RMode) (d a : Reg)
  /-- FMA_F16 (R87). -/
  | fmaF16 (np na : Bool) (rm : RMode) (d a b c : Reg)
  /-- FMA_F32 (R87). -/
  | fmaF32 (np na : Bool) (rm : RMode) (d a b c : Reg)
  /-- FMA_F64 (R87). -/
  | fmaF64 (np na : Bool) (rm : RMode) (d a b c : Reg)
  /-- CRRW (R89). -/
  | crrw (d a : Reg) (crn : BitVec 12)
  /-- CRRS (R89). -/
  | crrs (d a : Reg) (crn : BitVec 12)
  /-- CRRC (R89). -/
  | crrc (d a : Reg) (crn : BitVec 12)
  /-- SYSC (R92). -/
  | sysc
  /-- BRK (R92). -/
  | brk
  /-- TRET (R32). -/
  | tret
  /-- WAITI (R94). -/
  | waiti
  /-- HALT (R95). -/
  | halt
  /-- RNGX (R96). -/
  | rngx (d a b : Reg) (stream : BitVec 10)
  /-- VFETCH (R119). -/
  | vfetch (xc : Reg) (stg : BitVec 3) (off : BitVec 17)
  /-- VFETCH_RETIRE (R122). -/
  | vfetchRetire
  /-- VCONFIG (R108). -/
  | vconfig (d a b : Reg)
  /-- VSETVL (R109). -/
  | vsetvl (d a : Reg)
  /-- VSETROWS (R110). -/
  | vsetrows (d a : Reg)
  /-- MATTACH (R191). -/
  | mattach (d a : Reg)
  /-- MDETACH (R217). -/
  | mdetach
  /-- WLOAD (R219). -/
  | wload (a b : Reg)
  /-- WLOAD_EMPTY_SLOT (R219). -/
  | wloadEmptySlot (a b : Reg)
  /-- WLOAD_EMPTY_ASID (R219). -/
  | wloadEmptyAsid (a b : Reg)
  /-- WLOAD_APPLY (R197). -/
  | wloadApply (cluster : Nat)
  /-- WLOAD_FETCH_COMPLETE (R197). -/
  | wloadFetchComplete (cluster : Nat)
  /-- ZZERO (R220). -/
  | zzero (a : Reg)
  /-- ZSAVE (R222). -/
  | zsave (a : Reg)
  /-- ZLOAD (R222). -/
  | zload (a : Reg)
  /-- ADCFG (R223). -/
  | adcfg (a b : Reg)
  /-- ADINV (R225). -/
  | adinv (a b : Reg) (sc : Scope)
  /-- ADINV_COMPLETE (R225). -/
  | adinvComplete
  /-- SPAWN (R253). -/
  | spawn (d a b : Reg)
  /-- SPAWN_CHILD_START (R253). -/
  | spawnChildStart (core : Nat)
  /-- SEND (R254). -/
  | send (d a b : Reg)
  /-- RECV (R254). -/
  | recv (d a : Reg)
  /-- RECV_WAKE (R254). -/
  | recvWake
  /-- RECV_TIMEOUT (R254). -/
  | recvTimeout
  /-- PGRAB (R250). -/
  | pgrab (d d2 : Reg)
  /-- PDONE (R251). -/
  | pdone (d a : Reg)
  /-- PNARRIVE (R259). -/
  | pnarrive (d a b : Reg)
  /-- PNWAIT (R259). -/
  | pnwait (d a b : Reg)
  /-- PNWAIT_WAKE (R259). -/
  | pnwaitWake
  /-- RPUT (R257). -/
  | rput (d a b : Reg) (sc : Scope)
  /-- RPUT_SLOT_FREE (R257). -/
  | rputSlotFree
  /-- RTAKE (R257). -/
  | rtake (d a b : Reg) (sc : Scope)
  /-- RTAKE_SLOT_FULL (R257). -/
  | rtakeSlotFull
  /-- END (R260). -/
  | endHart
  /-- LDS (R297). -/
  | lds (w : Width) (d a : Reg) (imm : BitVec 10) (sc : Scope) (acq : Bool)
  /-- STS (R297). -/
  | sts (w : Width) (b a : Reg) (imm : BitVec 10) (sc : Scope) (rel : Bool)
  /-- AMOADD (R300). -/
  | amoadd (dbl : Bool) (d a b : Reg) (sc : Scope) (ord : Ord)
  /-- AMOAND (R300). -/
  | amoand (dbl : Bool) (d a b : Reg) (sc : Scope) (ord : Ord)
  /-- AMOOR (R300). -/
  | amoor (dbl : Bool) (d a b : Reg) (sc : Scope) (ord : Ord)
  /-- AMOXOR (R300). -/
  | amoxor (dbl : Bool) (d a b : Reg) (sc : Scope) (ord : Ord)
  /-- AMOMIN (R300). -/
  | amomin (dbl : Bool) (d a b : Reg) (sc : Scope) (ord : Ord)
  /-- AMOMAX (R300). -/
  | amomax (dbl : Bool) (d a b : Reg) (sc : Scope) (ord : Ord)
  /-- AMOMINU (R300). -/
  | amominu (dbl : Bool) (d a b : Reg) (sc : Scope) (ord : Ord)
  /-- AMOMAXU (R300). -/
  | amomaxu (dbl : Bool) (d a b : Reg) (sc : Scope) (ord : Ord)
  /-- AMOSWAP (R300). -/
  | amoswap (dbl : Bool) (d a b : Reg) (sc : Scope) (ord : Ord)
  /-- AMOCAS (R300). -/
  | amocas (dbl : Bool) (d a b : Reg) (sc : Scope) (ord : Ord)
  /-- AMOFMAX (R300). -/
  | amofmax (dbl : Bool) (d a b : Reg) (sc : Scope) (ord : Ord)
  /-- AMOFMIN (R300). -/
  | amofmin (dbl : Bool) (d a b : Reg) (sc : Scope) (ord : Ord)
  /-- AMOFADD (R300). -/
  | amofadd (dbl : Bool) (d a b : Reg) (sc : Scope) (ord : Ord)
  /-- FENCE (R306). -/
  | fence (sc : Scope) (i pr pw sr sw : Bool)
  /-- PREF (R309). -/
  | pref (a b : Reg)
  /-- IPREF (R309). -/
  | ipref (a b : Reg)
  /-- CFLUSH (R310). -/
  | cflush (d a b : Reg) (sc : Scope)
  /-- TLBINV (R312). -/
  | tlbinv (a b : Reg) (sc : Scope)
  /-- TLBINV_COMPLETE (R312). -/
  | tlbinvComplete
  /-- SCFG (R338). -/
  | scfg (d a b : Reg)
  /-- SCFG_UNBIND (R338). -/
  | scfgUnbind (d a b : Reg)
  /-- VLDQ (R341). -/
  | vldq (v : BitVec 6) (q : BitVec 4)
  /-- VSTQ (R342). -/
  | vstq (v : BitVec 6) (q : BitVec 4)
  /-- STREAM_FETCH (R340). -/
  | streamFetch (hart : Nat) (q : BitVec 4)
  /-- STREAM_ELEMENT_ARRIVE (R340). -/
  | streamElementArrive (hart : Nat) (q : BitVec 4)
  /-- STREAM_ELEMENT_WRITE (R342). -/
  | streamElementWrite (hart : Nat) (q : BitVec 4)
  /-- OUTPUT_STREAM_DRAINED (R342). -/
  | outputStreamDrained (hart : Nat) (q : BitVec 4)
  /-- SKICK (R345). -/
  | skick (d a : Reg)
  /-- SKICK_OFFER_RETRY (R347). -/
  | skickOfferRetry
  /-- COPY_TRANSFER (R346). -/
  | copyTransfer (engine : EngineId)
  /-- PAGE_MIGRATION (R290). -/
  | pageMigration (engine : EngineId)
  /-- TRANSFER_COMPLETE (R349). -/
  | transferComplete (engine : EngineId)
  /-- SWAIT_MAILBOX (R351). -/
  | swaitMailbox (d a b : Reg)
  /-- SWAIT_STREAM (R351). -/
  | swaitStream (d a b : Reg)
  /-- SWAIT_WAKE (R351). -/
  | swaitWake
  /-- SSAVE (R357). -/
  | ssave (a : Reg)
  /-- SLOAD (R357). -/
  | sload (a : Reg)
  /-- UIRET (R355). -/
  | uiret
  /-- CTXSAVE (R378). -/
  | ctxsave (d a b : Reg)
  /-- CTXLOAD (R379). -/
  | ctxload (a : Reg)
  /-- EMRET (R373). -/
  | emret
  /-- UNDEFINED_WORD (R372). -/
  | undefinedWord (word : Word32)
  /-- ASYNC_INTERRUPT_ENTRY (R368). -/
  | asyncInterruptEntry
  /-- USER_INTERRUPT_ENTRY (R354). -/
  | userInterruptEntry
  /-- WAITI_WAKE (R94). -/
  | waitiWake
  /-- STOP (R155). -/
  | stop
  /-- VADD (R167). -/
  | vadd (f : Fields)
  /-- VSUB (R167). -/
  | vsub (f : Fields)
  /-- VMUL (R167). -/
  | vmul (f : Fields)
  /-- VMULH (R167). -/
  | vmulh (f : Fields)
  /-- VDIV (R168). -/
  | vdiv (f : Fields)
  /-- VREM (R168). -/
  | vrem (f : Fields)
  /-- VMIN (R167). -/
  | vmin (f : Fields)
  /-- VMAX (R167). -/
  | vmax (f : Fields)
  /-- VABS (R167). -/
  | vabs (f : Fields)
  /-- VNEG (R167). -/
  | vneg (f : Fields)
  /-- VFMA (R167). -/
  | vfma (f : Fields)
  /-- VAND (R167). -/
  | vand (f : Fields)
  /-- VOR (R167). -/
  | vor (f : Fields)
  /-- VXOR (R167). -/
  | vxor (f : Fields)
  /-- VSLL (R167). -/
  | vsll (f : Fields)
  /-- VSRL (R167). -/
  | vsrl (f : Fields)
  /-- VSRA (R167). -/
  | vsra (f : Fields)
  /-- VSADD (R167). -/
  | vsadd (f : Fields)
  /-- VSSUB (R167). -/
  | vssub (f : Fields)
  /-- VCLZ (R167). -/
  | vclz (f : Fields)
  /-- VPOPC (R167). -/
  | vpopc (f : Fields)
  /-- VSQRT (R167). -/
  | vsqrt (f : Fields)
  /-- VRCP (R167). -/
  | vrcp (f : Fields)
  /-- VRSQ (R167). -/
  | vrsq (f : Fields)
  /-- VEXP2 (R167). -/
  | vexp2 (f : Fields)
  /-- VLOG2 (R167). -/
  | vlog2 (f : Fields)
  /-- VCMP (R169). -/
  | vcmp (f : Fields)
  /-- VSEL (R170). -/
  | vsel (f : Fields)
  /-- VCVT (R171). -/
  | vcvt (f : Fields)
  /-- VSAT (R172). -/
  | vsat (f : Fields)
  /-- VRNG (R173). -/
  | vrng (f : Fields)
  /-- VID (R174). -/
  | vid (f : Fields)
  /-- VMV (R167). -/
  | vmv (f : Fields)
  /-- VBCAST (R174). -/
  | vbcast (f : Fields)
  /-- VSLIDEUP (R175). -/
  | vslideup (f : Fields)
  /-- VSLIDEDN (R175). -/
  | vslidedn (f : Fields)
  /-- VGATHERR (R175). -/
  | vgatherr (f : Fields)
  /-- VCOMPRESS (R176). -/
  | vcompress (f : Fields)
  /-- VEXPAND (R176). -/
  | vexpand (f : Fields)
  /-- VINS (R177). -/
  | vins (f : Fields)
  /-- VEXT (R177). -/
  | vext (f : Fields)
  /-- VROWB (R175). -/
  | vrowb (f : Fields)
  /-- VREDSUM (R179). -/
  | vredsum (f : Fields)
  /-- VREDTSUM (R180). -/
  | vredtsum (f : Fields)
  /-- VREDMAX (R181). -/
  | vredmax (f : Fields)
  /-- VREDMIN (R181). -/
  | vredmin (f : Fields)
  /-- VREDAND (R181). -/
  | vredand (f : Fields)
  /-- VREDOR (R181). -/
  | vredor (f : Fields)
  /-- MAND (R182). -/
  | mand (f : Fields)
  /-- MOR (R182). -/
  | mor (f : Fields)
  /-- MXOR (R182). -/
  | mxor (f : Fields)
  /-- MANDN (R182). -/
  | mandn (f : Fields)
  /-- MPOPC (R182). -/
  | mpopc (f : Fields)
  /-- MFIRST (R182). -/
  | mfirst (f : Fields)
  /-- MFROMP (R182). -/
  | mfromp (f : Fields)
  /-- VLD (R183). -/
  | vld (f : Fields)
  /-- VLDS (R183). -/
  | vlds (f : Fields)
  /-- VLDX (R183). -/
  | vldx (f : Fields)
  /-- VST (R183). -/
  | vst (f : Fields)
  /-- VSTS (R183). -/
  | vsts (f : Fields)
  /-- VSTX (R183). -/
  | vstx (f : Fields)
  /-- VAMO (R303). -/
  | vamo (f : Fields)
  /-- VAMOCAS (R303). -/
  | vamocas (f : Fields)
  /-- MRANK (R232). -/
  | mrank (f : Fields)
  /-- MOPK (R230). -/
  | mopk (f : Fields)
  /-- MOPK_ADAPTER (R231). -/
  | mopkAdapter (f : Fields)
  /-- ADFOLD (R233). -/
  | adfold (f : Fields)
  /-- ZRD (R234). -/
  | zrd (f : Fields)
  /-- ZWR (R235). -/
  | zwr (f : Fields)
  /-- VDOT8 (R375). -/
  | vdot8 (f : Fields)
  /-- XMULS (R375). -/
  | xmuls (f : Fields)
  /-- MATRIX_SLOT_READY (R197). -/
  | matrixSlotReady
  /-- BUNTING_FILL_ARRIVE (R208). -/
  | buntingFillArrive (cluster : Nat)
  /-- MACRO_REPAIR (R396). -/
  | macroRepair (cluster mac : Nat) (row : Bool)
  /-- SLOT_RELOAD_COMPLETE (R396). -/
  | slotReloadComplete (cluster : Nat) (slot : Nat)
  /-- LANE_SPARE (R393). -/
  | laneSpare (core lane : Nat)
  /-- LANE_SPARE_COMPLETE (R393). -/
  | laneSpareComplete (core : Nat)
  /-- LAUNCH_PLACE (R243). -/
  | launchPlace
  /-- LAUNCH_AGING (R265). -/
  | launchAging (index : Nat)
  /-- DOORBELL_WRITE (R424). -/
  | doorbellWrite (queue : Nat) (value : Word)
  /-- WQ_SLOT_TAKE (R424). -/
  | wqSlotTake (queue : Nat)
  /-- MSIGEN_WRITE (R425). -/
  | msigenWrite (value : Word)
  /-- HIRQ_WRITE (R367). -/
  | hirqWrite (hart : Nat) (value : Word)
  /-- DIESTATE_READ (R412). -/
  | diestateRead
  /-- ELOGCTL_WRITE (R397). -/
  | elogctlWrite (die : Nat) (value : Word)
  /-- CYCLE_RECORD_FREE (R385). -/
  | cycleRecordFree (die : Nat)
  /-- WAIT_CYCLE_DETECT (R385). -/
  | waitCycleDetect (die : Nat)
  /-- HBMCTL_WRITE (R281). -/
  | hbmctlWrite (die : Nat) (value : Word)
  /-- LEND_WATCH (R281). -/
  | lendWatch (die pair : Nat) (channel : Bool)
  /-- LEND_DRAIN_START (R281). -/
  | lendDrainStart (die pair : Nat)
  /-- LEND_DRAIN_DONE (R281). -/
  | lendDrainDone (die pair : Nat)
  /-- LEND_RETRAIN_DONE (R281). -/
  | lendRetrainDone (die pair : Nat)
  /-- LEND_RECLAIM_START (R281). -/
  | lendReclaimStart (die pair : Nat)
  /-- LEND_RECLAIM_DONE (R281). -/
  | lendReclaimDone (die pair : Nat)
  /-- POWER_SAMPLE (R436). -/
  | powerSample
  /-- GRANT_THROTTLE_ONSET (R248). -/
  | grantThrottleOnset (hart : Nat)
  /-- WRITE_MOVE (R316). -/
  | writeMove (write : Nat) (target : Point)
  /-- DIECTL_RESET_DIE (R413). -/
  | diectlResetDie (die : Nat)
  /-- DIECTL_ROLL_KEYS (R413). -/
  | diectlRollKeys (die : Nat)
  /-- POWER_GOOD (R407). -/
  | powerGood (firmwareOk : Bool)
  /-- SPDM_REQUEST (R408). -/
  | spdmRequest (die : Nat) (message : SpdmMessage)
  /-- DIE_ADMISSION_CHECK (R409). -/
  | dieAdmissionCheck (die : Nat) (chainOk challengeOk measurementOk : Bool)
  /-- LINK_KEY_ESTABLISH (R410). -/
  | linkKeyEstablish (die link : Nat) (secret : Nat) (signed : Bool)
  /-- DIE_TRAINING_COMPLETE (R407). -/
  | dieTrainingComplete (die : Nat) (result : Training)
  /-- FLIT_RECEIVE (R410). -/
  | flitReceive (die link : Nat) (keyBit : Bool) (tagOk : Bool)
  /-- LINK_KEY_ROLLOVER (R411). -/
  | linkKeyRollover (die link : Nat)
  /-- LINK_OLD_KEY_RETIRE (R411). -/
  | linkOldKeyRetire (die link : Nat)
  /-- HOST_BAR_READ (R419). -/
  | hostBarRead (tlp : HostTlp) (bar : Nat) (offset : Nat) (size : Width)
  /-- HOST_BAR_WRITE (R419). -/
  | hostBarWrite (lane : HostLane) (bar : Nat) (offset : Nat) (size : Width) (value : Word) (poisoned : Bool) (integrityOk : Bool)
  /-- IDE_KM_REQUEST (R420). -/
  | ideKmRequest (port : Nat) (stream : Nat) (key : Nat)
  /-- POD_REMOTE_ACCESS (R428). -/
  | podRemoteAccess (port : Nat) (access : PodAccess) (integrityOk : Bool)
  /-- MMIO_REGISTER_WRITE (R277). -/
  | mmioRegisterWrite (die offset : Nat) (value : Word)
  /-- HART_RESET (R30). -/
  | hartReset (hart : Nat)
  /-- PACKAGE_RESET (R438). -/
  | packageReset
  /-- FREEZE (R401). -/
  | freeze
  /-- PORT_FLIT_RETRIED (R387). -/
  | portFlitRetried (die site : Nat)
  /-- SPDM_SECURE_SESSION (R420). -/
  | spdmSecureSession (port : Nat) (established : Bool)
  /-- UALINKSEC_KEY_ESTABLISH (R428). -/
  | ualinksecKeyEstablish (port : Nat) (pkg : Nat) (key : Nat)
  deriving DecidableEq, Repr

end Sys2Proof
end

