-- ==== Sys2Proof/Decode.lean ====
section
/-! DEFINITION. From words to instructions (03 R49 to R62; 07 R146, R153) and back. Decoding is total: every word is an instruction, an
undefined word (itself the row UNDEFINED_WORD, 19 R372), or an illegal one, refused by the name of the rule it breaks. -/

namespace Sys2Proof

/-- Why a word is no instruction. -/
inductive Reject
  /-- a reserved field is not zero (03 R51; 07 R147) -/
  | reserved
  /-- a scope field holds 10 to 15 (03 R50; 07 R151) -/
  | scope
  /-- fmt 0b11 (03 R58) -/
  | format
  /-- rm 5 or 6 (02 R40) -/
  | rounding
  /-- a shift amount of n or more (03 R57) -/
  | shift
  /-- FCVT between types it does not convert (03 R59) -/
  | pair
  /-- a FENCE of no permitted combination (14 R305) -/
  | fence
  /-- a block word whose vop is 0x00 or undefined (07 R154) -/
  | vop
  /-- the bytes end before the word does -/
  | short
  deriving DecidableEq, Repr

/-- `len` bits of `w` from bit `lo` on. -/
def fld {n : Nat} (w : BitVec n) (lo len : Nat) : BitVec len := w.extractLsb' lo len

/-- The integer width codes (03 R55). -/
def Width.ofCode (c : BitVec 2) : Width :=
  if c = 0 then .w8 else if c = 1 then .w16 else if c = 2 then .w32 else .w64

/-- The integer width codes (03 R55). -/
def Width.code : Width → BitVec 2 | .w8 => 0 | .w16 => 1 | .w32 => 2 | .w64 => 3

/-- The number of bits of a width (03 R55). -/
def Width.bits : Width → Nat | .w8 => 8 | .w16 => 16 | .w32 => 32 | .w64 => 64

/-- The fmt codes (03 R58). -/
def SFmt.ofCode (c : BitVec 2) : Except Reject SFmt :=
  if c = 0 then .ok .f16 else if c = 1 then .ok .f32 else if c = 2 then .ok .f64 else .error .format

/-- The fmt codes (03 R58). -/
def SFmt.code : SFmt → BitVec 2 | .f16 => 0 | .f32 => 1 | .f64 => 2

/-- The rm codes (02 R40). -/
def RMode.ofCode (c : BitVec 3) : Except Reject RMode :=
  if c = 0 then .ok .rne else if c = 1 then .ok .rtz else if c = 2 then .ok .rdn else if c = 3 then .ok .rup
  else if c = 4 then .ok .rmm else if c = 7 then .ok .dyn else .error .rounding

/-- The rm codes (02 R40). -/
def RMode.code : RMode → BitVec 3 | .rne => 0 | .rtz => 1 | .rdn => 2 | .rup => 3 | .rmm => 4 | .dyn => 7

/-- The FCVT type codes (03 R59). -/
def CvtType.ofCode (c : BitVec 3) : Except Reject CvtType :=
  if c = 0 then .ok .i32 else if c = 1 then .ok .n32 else if c = 2 then .ok .i64 else if c = 3 then .ok .n64
  else if c = 4 then .ok .f16 else if c = 5 then .ok .f32 else if c = 6 then .ok .f64 else .error .pair

/-- The FCVT type codes (03 R59). -/
def CvtType.code : CvtType → BitVec 3 | .i32 => 0 | .n32 => 1 | .i64 => 2 | .n64 => 3 | .f16 => 4 | .f32 => 5 | .f64 => 6

/-- Is the type an integer type? -/
def CvtType.isInt : CvtType → Bool | .i32 => true | .n32 => true | .i64 => true | .n64 => true | .f16 => false | .f32 => false | .f64 => false

/-- The scope codes (15 R313). -/
def Scope.ofCode (c : BitVec 4) : Except Reject Scope :=
  if c = 0 then .ok .hart else if c = 1 then .ok .core else if c = 2 then .ok .cluster else if c = 3 then .ok .quad
  else if c = 4 then .ok .die else if c = 5 then .ok .pair else if c = 6 then .ok .device else if c = 7 then .ok .system
  else if c = 8 then .ok .pod else if c = 9 then .ok .durable else .error .scope

/-- The scope codes (15 R313). -/
def Scope.code : Scope → BitVec 4
  | .hart => 0 | .core => 1 | .cluster => 2 | .quad => 3 | .die => 4 | .pair => 5 | .device => 6 | .system => 7 | .pod => 8 | .durable => 9

/-- The ord codes (03 R62). -/
def Ord.ofCode (c : BitVec 2) : Ord := if c = 0 then .relaxed else if c = 1 then .acq else if c = 2 then .rel else .acqrel

/-- The ord codes (03 R62). -/
def Ord.code : Ord → BitVec 2 | .relaxed => 0 | .acq => 1 | .rel => 2 | .acqrel => 3

/-- Refuse unless the field is zero (03 R51). -/
def needZero {n : Nat} (x : BitVec n) (i : Instr) : Except Reject Instr := if x = 0 then .ok i else .error .reserved

/-- INT (03 R55). -/
def decodeInt (w : Word32) : Except Reject Instr :=
  let d := fld w 20 5; let a := fld w 15 5; let b := fld w 10 5; let k := Width.ofCode (fld w 0 2)
  match (fld w 2 8).toNat with
  | 0 => .ok (.add k d a b)
  | 1 => .ok (.sub k d a b)
  | 2 => .ok (.andR k d a b)
  | 3 => .ok (.orR k d a b)
  | 4 => .ok (.xorR k d a b)
  | 5 => .ok (.sll k d a b)
  | 6 => .ok (.srl k d a b)
  | 7 => .ok (.sra k d a b)
  | 8 => .ok (.slt k d a b)
  | 9 => .ok (.sltu k d a b)
  | 10 => .ok (.minR k d a b)
  | 11 => .ok (.maxR k d a b)
  | 12 => .ok (.minu k d a b)
  | 13 => .ok (.maxu k d a b)
  | 14 => needZero b (.clz k d a)
  | 15 => needZero b (.ctz k d a)
  | 16 => needZero b (.popc k d a)
  | _ => .ok (.undefinedWord w)

/-- MULDIV (03 R56). -/
def decodeMulDiv (w : Word32) : Except Reject Instr :=
  let d := fld w 20 5; let a := fld w 15 5; let b := fld w 10 5; let k := Width.ofCode (fld w 0 2)
  match (fld w 2 8).toNat with
  | 0 => .ok (.mul k d a b)
  | 1 => .ok (.mulh k d a b)
  | 2 => .ok (.mulhu k d a b)
  | 3 => .ok (.div k d a b)
  | 4 => .ok (.divu k d a b)
  | 5 => .ok (.rem k d a b)
  | 6 => .ok (.remu k d a b)
  | _ => .ok (.undefinedWord w)

/-- The checks of SHI's immediate (03 R57). -/
def shiftCheck (w : Word32) (i : Instr) : Except Reject Instr :=
  if fld w 8 5 ≠ 0 then .error .reserved
  else if (fld w 0 6).toNat < (Width.ofCode (fld w 6 2)).bits then .ok i else .error .shift

/-- SHI (03 R57). -/
def decodeShi (w : Word32) : Except Reject Instr :=
  let d := fld w 20 5; let a := fld w 15 5; let k := Width.ofCode (fld w 6 2); let sh := fld w 0 6
  match (fld w 13 2).toNat with
  | 0 => shiftCheck w (.slli k d a sh)
  | 1 => shiftCheck w (.srli k d a sh)
  | 2 => shiftCheck w (.srai k d a sh)
  | _ => .ok (.undefinedWord w)

/-- FPOP (03 R58). -/
def decodeFpop (w : Word32) : Except Reject Instr :=
  let d := fld w 20 5; let a := fld w 15 5; let b := fld w 10 5
  let rounded (mk : SFmt → RMode → Instr) : Except Reject Instr :=
    match SFmt.ofCode (fld w 8 2), RMode.ofCode (fld w 0 3) with
    | .ok f, .ok rm => .ok (mk f rm)
    | .error e, _ => .error e
    | _, .error e => .error e
  let plain (mk : SFmt → Instr) : Except Reject Instr :=
    match SFmt.ofCode (fld w 8 2) with
    | .ok f => needZero (fld w 0 3) (mk f)
    | .error e => .error e
  match (fld w 3 5).toNat with
  | 0 => rounded (fun f rm => .fadd f rm d a b)
  | 1 => rounded (fun f rm => .fsub f rm d a b)
  | 2 => rounded (fun f rm => .fmul f rm d a b)
  | 3 => rounded (fun f rm => .fdiv f rm d a b)
  | 4 => if b = 0 then rounded (fun f rm => .fsqrt f rm d a) else .error .reserved
  | 5 => plain (fun f => .fmin f d a b)
  | 6 => plain (fun f => .fmax f d a b)
  | 7 => plain (fun f => .fsgnj f d a b)
  | 8 => plain (fun f => .fsgnjn f d a b)
  | 9 => plain (fun f => .fsgnjx f d a b)
  | 10 => plain (fun f => .fcmpEq f d a b)
  | 11 => plain (fun f => .fcmpLt f d a b)
  | 12 => plain (fun f => .fcmpLe f d a b)
  | 13 => if b = 0 then plain (fun f => .fclass f d a) else .error .reserved
  | _ => .ok (.undefinedWord w)

/-- Is the FCVT pair one it converts (03 R59)? -/
def cvtPairOk (dst src : CvtType) : Bool := !(dst.isInt && src.isInt) && decide (dst ≠ src)

/-- FCVT (03 R59). -/
def decodeFcvt (w : Word32) : Except Reject Instr :=
  let d := fld w 20 5; let a := fld w 15 5
  if fld w 9 1 ≠ 0 ∨ fld w 10 5 ≠ 0 then .error .reserved
  else
    match CvtType.ofCode (fld w 6 3), CvtType.ofCode (fld w 3 3), RMode.ofCode (fld w 0 3) with
    | .ok dst, .ok src, .ok rm => if cvtPairOk dst src then .ok (.fcvt dst src rm d a) else .error .pair
    | .error e, _, _ => .error e
    | _, .error e, _ => .error e
    | _, _, .error e => .error e

/-- FMA (03 R60): np is bit 3, na bit 4. -/
def decodeFma (mk : Bool → Bool → RMode → Reg → Reg → Reg → Reg → Instr) (w : Word32) : Except Reject Instr :=
  match RMode.ofCode (fld w 0 3) with
  | .ok rm => .ok (mk (fld w 3 1 = 1) (fld w 4 1 = 1) rm (fld w 20 5) (fld w 15 5) (fld w 10 5) (fld w 5 5))
  | .error e => .error e

/-- CR (03 R61). -/
def decodeCr (w : Word32) : Except Reject Instr :=
  let d := fld w 20 5; let a := fld w 15 5; let crn := fld w 3 12
  match (fld w 0 3).toNat with
  | 0 => .ok (.crrw d a crn)
  | 1 => .ok (.crrs d a crn)
  | 2 => .ok (.crrc d a crn)
  | _ => .ok (.undefinedWord w)

/-- SYS (03 R61): every register field is reserved. -/
def decodeSys (w : Word32) : Except Reject Instr :=
  match (fld w 0 10).toNat with
  | 0 => needZero (fld w 10 15) .sysc
  | 1 => needZero (fld w 10 15) .brk
  | 2 => needZero (fld w 10 15) .tret
  | 3 => needZero (fld w 10 15) .waiti
  | 4 => needZero (fld w 10 15) .halt
  | _ => .ok (.undefinedWord w)

/-- VCTL (03 R62; 05 R107). -/
def decodeVctl (w : Word32) : Except Reject Instr :=
  let d := fld w 20 5; let a := fld w 15 5; let b := fld w 10 5
  match (fld w 0 10).toNat with
  | 0 => .ok (.vconfig d a b)
  | 1 => needZero b (.vsetvl d a)
  | 2 => needZero b (.vsetrows d a)
  | _ => .ok (.undefinedWord w)

/-- An instruction that uses its scope field (03 R50, R51). -/
def withScope (c : BitVec 4) (mk : Scope → Instr) : Except Reject Instr :=
  match Scope.ofCode c with
  | .ok sc => .ok (mk sc)
  | .error e => .error e

/-- MCTL (03 R62; 10 R216). -/
def decodeMctl (w : Word32) : Except Reject Instr :=
  let d := fld w 20 5; let a := fld w 15 5; let b := fld w 10 5; let sc := fld w 6 4
  match (fld w 0 6).toNat with
  | 0 => needZero (b ++ sc) (.mattach d a)
  | 1 => needZero (d ++ a ++ b ++ sc) .mdetach
  | 2 => needZero (d ++ sc) (.wload a b)
  | 3 => needZero (d ++ b ++ sc) (.zzero a)
  | 4 => needZero (d ++ b ++ sc) (.zsave a)
  | 5 => needZero (d ++ b ++ sc) (.zload a)
  | 6 => needZero (d ++ sc) (.adcfg a b)
  | 7 => if d = 0 then withScope sc (fun s => .adinv a b s) else .error .reserved
  | _ => .ok (.undefinedWord w)

/-- WORK (03 R62; 11 R261). -/
def decodeWork (w : Word32) : Except Reject Instr :=
  let d := fld w 20 5; let a := fld w 15 5; let b := fld w 10 5; let sc := fld w 6 4
  match (fld w 0 6).toNat with
  | 0 => needZero sc (.spawn d a b)
  | 1 => needZero sc (.send d a b)
  | 2 => needZero (b ++ sc) (.recv d a)
  | 3 => needZero (a ++ sc) (.pgrab d b)
  | 4 => needZero (b ++ sc) (.pdone d a)
  | 5 => needZero sc (.pnarrive d a b)
  | 6 => needZero sc (.pnwait d a b)
  | 7 => withScope sc (fun s => .rput d a b s)
  | 8 => withScope sc (fun s => .rtake d a b s)
  | 9 => needZero (d ++ a ++ b ++ sc) .endHart
  | _ => .ok (.undefinedWord w)

/-- LDS (14 R297). -/
def decodeLds (k : Width) (w : Word32) : Except Reject Instr :=
  withScope (fld w 1 4) (fun s => .lds k (fld w 20 5) (fld w 15 5) (fld w 5 10) s (fld w 0 1 = 1))

/-- STS (14 R297). -/
def decodeSts (k : Width) (w : Word32) : Except Reject Instr :=
  withScope (fld w 1 4) (fun s => .sts k (fld w 20 5) (fld w 15 5) (fld w 5 10) s (fld w 0 1 = 1))

/-- AMO (03 R62; 14 R299). -/
def decodeAmo (dbl : Bool) (w : Word32) : Except Reject Instr :=
  let d := fld w 20 5; let a := fld w 15 5; let b := fld w 10 5; let sc := fld w 6 4; let ord := Ord.ofCode (fld w 4 2)
  match (fld w 0 4).toNat with
  | 0 => withScope sc (fun s => .amoadd dbl d a b s ord)
  | 1 => withScope sc (fun s => .amoand dbl d a b s ord)
  | 2 => withScope sc (fun s => .amoor dbl d a b s ord)
  | 3 => withScope sc (fun s => .amoxor dbl d a b s ord)
  | 4 => withScope sc (fun s => .amomin dbl d a b s ord)
  | 5 => withScope sc (fun s => .amomax dbl d a b s ord)
  | 6 => withScope sc (fun s => .amominu dbl d a b s ord)
  | 7 => withScope sc (fun s => .amomaxu dbl d a b s ord)
  | 8 => withScope sc (fun s => .amoswap dbl d a b s ord)
  | 9 => withScope sc (fun s => .amocas dbl d a b s ord)
  | 10 => withScope sc (fun s => .amofmax dbl d a b s ord)
  | 11 => withScope sc (fun s => .amofmin dbl d a b s ord)
  | 12 => withScope sc (fun s => .amofadd dbl d a b s ord)
  | _ => .ok (.undefinedWord w)

/-- The legal combinations of a FENCE's sets (14 R305). -/
def fenceOk (sc : Scope) (i pr pw sr sw : Bool) : Bool :=
  ((pr || pw) && (sr || sw)) || (!pr && !pw && !sr && !sw && i && decide (sc = .hart))

/-- FENCE (14 R305). -/
def decodeFence (w : Word32) : Except Reject Instr :=
  let i := decide (fld w 4 1 = 1); let pr := decide (fld w 3 1 = 1); let pw := decide (fld w 2 1 = 1)
  let sr := decide (fld w 1 1 = 1); let sw := decide (fld w 0 1 = 1)
  if fld w 5 1 ≠ 0 ∨ fld w 10 15 ≠ 0 then .error .reserved
  else
    match Scope.ofCode (fld w 6 4) with
    | .ok sc => if fenceOk sc i pr pw sr sw then .ok (.fence sc i pr pw sr sw) else .error .fence
    | .error e => .error e

/-- MEMX (14 R308). -/
def decodeMemx (w : Word32) : Except Reject Instr :=
  let d := fld w 20 5; let a := fld w 15 5; let b := fld w 10 5; let sc := fld w 6 4
  match (fld w 0 6).toNat with
  | 0 => needZero (d ++ sc) (.pref a b)
  | 1 => needZero (d ++ sc) (.ipref a b)
  | 2 => withScope sc (fun s => .cflush d a b s)
  | 3 => if d = 0 then withScope sc (fun s => .tlbinv a b s) else .error .reserved
  | _ => .ok (.undefinedWord w)

/-- ASYNC (17 R358): the vector register of VLDQ and VSTQ is {[19], [24:20]}. -/
def decodeAsync (w : Word32) : Except Reject Instr :=
  let d := fld w 20 5; let a := fld w 15 5; let b := fld w 10 5
  match (fld w 0 10).toNat with
  | 0 => .ok (.scfg d a b)
  | 1 => needZero b (.vldq (fld w 19 1 ++ fld w 20 5) (fld w 15 4))
  | 2 => needZero b (.vstq (fld w 19 1 ++ fld w 20 5) (fld w 15 4))
  | 3 => needZero b (.skick d a)
  | 4 => .ok (.swaitMailbox d a b)
  | 5 => needZero (d ++ b) (.ssave a)
  | 6 => needZero (d ++ b) (.sload a)
  | 7 => needZero (d ++ a ++ b) .uiret
  | _ => .ok (.undefinedWord w)

/-- CTX (19 R381). -/
def decodeCtx (w : Word32) : Except Reject Instr :=
  let d := fld w 20 5; let a := fld w 15 5; let b := fld w 10 5
  match (fld w 0 10).toNat with
  | 0 => .ok (.ctxsave d a b)
  | 1 => needZero (d ++ b) (.ctxload a)
  | 2 => needZero (d ++ a ++ b) .emret
  | _ => .ok (.undefinedWord w)

/-- One scalar word (03 R52). -/
def decode (w : Word32) : Except Reject Instr :=
  let d := fld w 20 5; let a := fld w 15 5; let imm := fld w 0 15
  match (fld w 25 7).toNat with
  | 0x01 => decodeInt w
  | 0x02 => decodeMulDiv w
  | 0x03 => .ok (.lih d (fld w 0 20))
  | 0x04 => .ok (.addpc d (fld w 0 20))
  | 0x08 => .ok (.addi d a imm)
  | 0x09 => .ok (.andi d a imm)
  | 0x0A => .ok (.ori d a imm)
  | 0x0B => .ok (.xori d a imm)
  | 0x0C => .ok (.slti d a imm)
  | 0x0D => .ok (.sltiu d a imm)
  | 0x0E => decodeShi w
  | 0x10 => .ok (.lb d a imm)
  | 0x11 => .ok (.lbu d a imm)
  | 0x12 => .ok (.lh d a imm)
  | 0x13 => .ok (.lhu d a imm)
  | 0x14 => .ok (.lw d a imm)
  | 0x15 => .ok (.lwu d a imm)
  | 0x16 => .ok (.ld d a imm)
  | 0x18 => .ok (.sb d a imm)
  | 0x19 => .ok (.sh d a imm)
  | 0x1A => .ok (.sw d a imm)
  | 0x1B => .ok (.sd d a imm)
  | 0x20 => .ok (.beq d a imm)
  | 0x21 => .ok (.bne d a imm)
  | 0x22 => .ok (.blt d a imm)
  | 0x23 => .ok (.bge d a imm)
  | 0x24 => .ok (.bltu d a imm)
  | 0x25 => .ok (.bgeu d a imm)
  | 0x26 => needZero a (.loop d imm)
  | 0x28 => .ok (.jal d (fld w 0 20))
  | 0x29 => .ok (.jalr d a imm)
  | 0x30 => decodeFpop w
  | 0x31 => decodeFcvt w
  | 0x32 => decodeFma .fmaF16 w
  | 0x33 => decodeFma .fmaF32 w
  | 0x34 => decodeFma .fmaF64 w
  | 0x38 => decodeCr w
  | 0x39 => decodeSys w
  | 0x3A => .ok (.rngx d a (fld w 10 5) (fld w 0 10))
  | 0x40 => .ok (.vfetch d (fld w 17 3) (fld w 0 17))
  | 0x41 => decodeVctl w
  | 0x42 => decodeMctl w
  | 0x43 => decodeWork w
  | 0x48 => decodeLds .w8 w
  | 0x49 => decodeLds .w16 w
  | 0x4A => decodeLds .w32 w
  | 0x4B => decodeLds .w64 w
  | 0x4C => decodeSts .w8 w
  | 0x4D => decodeSts .w16 w
  | 0x4E => decodeSts .w32 w
  | 0x4F => decodeSts .w64 w
  | 0x50 => decodeAmo false w
  | 0x51 => decodeAmo true w
  | 0x52 => decodeFence w
  | 0x53 => decodeMemx w
  | 0x58 => decodeAsync w
  | 0x59 => decodeCtx w
  | _ => .ok (.undefinedWord w)

/-- The fields of a block word (07 R146). -/
def fieldsOf (w : BitVec 64) : Fields :=
  ⟨fld w 55 1 = 1, fld w 49 6, fld w 43 6, fld w 37 6, fld w 31 6, fld w 28 3, fld w 27 1 = 1, fld w 24 3, fld w 0 24⟩

/-- The word of a block instruction's vop and fields (07 R146). -/
def wordOf (vop : BitVec 8) (f : Fields) : BitVec 64 :=
  vop ++ BitVec.ofBool f.cv ++ f.vd ++ f.vs1 ++ f.vs2 ++ f.vs3 ++ f.pm ++ BitVec.ofBool f.pn ++ f.rot ++ f.imm

/-- One block word by its vop (07 R153, R155). What its fields may hold is checked by the block decode of 07 R157 (WellFormed.lean). -/
def decodeBlock (w : BitVec 64) : Except Reject Instr :=
  let f := fieldsOf w
  match (fld w 56 8).toNat with
  | 0x01 => if fld w 0 56 = 0 then .ok .stop else .error .reserved
  | 0x10 => .ok (.vadd f)
  | 0x11 => .ok (.vsub f)
  | 0x12 => .ok (.vmul f)
  | 0x13 => .ok (.vmulh f)
  | 0x14 => .ok (.vdiv f)
  | 0x15 => .ok (.vrem f)
  | 0x16 => .ok (.vmin f)
  | 0x17 => .ok (.vmax f)
  | 0x18 => .ok (.vabs f)
  | 0x19 => .ok (.vneg f)
  | 0x1A => .ok (.vfma f)
  | 0x1B => .ok (.vand f)
  | 0x1C => .ok (.vor f)
  | 0x1D => .ok (.vxor f)
  | 0x1E => .ok (.vsll f)
  | 0x1F => .ok (.vsrl f)
  | 0x20 => .ok (.vsra f)
  | 0x21 => .ok (.vsadd f)
  | 0x22 => .ok (.vssub f)
  | 0x23 => .ok (.vclz f)
  | 0x24 => .ok (.vpopc f)
  | 0x25 => .ok (.vsqrt f)
  | 0x26 => .ok (.vrcp f)
  | 0x27 => .ok (.vrsq f)
  | 0x28 => .ok (.vexp2 f)
  | 0x29 => .ok (.vlog2 f)
  | 0x2A => .ok (.vcmp f)
  | 0x2B => .ok (.vsel f)
  | 0x2C => .ok (.vcvt f)
  | 0x2D => .ok (.vsat f)
  | 0x2E => .ok (.vrng f)
  | 0x2F => .ok (.vid f)
  | 0x30 => .ok (.vmv f)
  | 0x31 => .ok (.vbcast f)
  | 0x40 => .ok (.vslideup f)
  | 0x41 => .ok (.vslidedn f)
  | 0x42 => .ok (.vgatherr f)
  | 0x43 => .ok (.vcompress f)
  | 0x44 => .ok (.vexpand f)
  | 0x45 => .ok (.vins f)
  | 0x46 => .ok (.vext f)
  | 0x47 => .ok (.vrowb f)
  | 0x50 => .ok (.vredsum f)
  | 0x51 => .ok (.vredtsum f)
  | 0x52 => .ok (.vredmax f)
  | 0x53 => .ok (.vredmin f)
  | 0x54 => .ok (.vredand f)
  | 0x55 => .ok (.vredor f)
  | 0x58 => .ok (.mand f)
  | 0x59 => .ok (.mor f)
  | 0x5A => .ok (.mxor f)
  | 0x5B => .ok (.mandn f)
  | 0x5C => .ok (.mpopc f)
  | 0x5D => .ok (.mfirst f)
  | 0x5E => .ok (.mfromp f)
  | 0x60 => .ok (.vld f)
  | 0x61 => .ok (.vlds f)
  | 0x62 => .ok (.vldx f)
  | 0x63 => .ok (.vst f)
  | 0x64 => .ok (.vsts f)
  | 0x65 => .ok (.vstx f)
  | 0x66 => .ok (.vamo f)
  | 0x67 => .ok (.vamocas f)
  | 0x68 => .ok (.mrank f)
  | 0x69 => .ok (.mopk f)
  | 0x6A => .ok (.mopkAdapter f)
  | 0x6B => .ok (.adfold f)
  | 0x6C => .ok (.zrd f)
  | 0x6D => .ok (.zwr f)
  | 0x70 => .ok (.vdot8 f)
  | 0x71 => .ok (.xmuls f)
  | _ => .error .vop

/-- Little-endian number of a list of bytes (00 R10). -/
def leNat : List Byte → Nat
  | [] => 0
  | b :: t => b.toNat + 256 * leNat t

/-- The `n` low bytes of a number, little-endian (00 R10). -/
def leBytes : Nat → Nat → List Byte
  | 0, _ => []
  | n + 1, v => BitVec.ofNat 8 v :: leBytes n (v / 256)

/-- Decode the first scalar word of a list of bytes; the rest comes back. -/
def decodeBytes (bs : List Byte) : Except Reject (Instr × List Byte) :=
  match bs with
  | b0 :: b1 :: b2 :: b3 :: rest =>
    match decode (BitVec.ofNat 32 (leNat [b0, b1, b2, b3])) with
    | .ok i => .ok (i, rest)
    | .error e => .error e
  | _ => .error .short

/-- Format A (03 R49). -/
def fmtA (op : BitVec 7) (d a b : Reg) (fn : BitVec 10) : Word32 := op ++ d ++ a ++ b ++ fn

/-- Formats I, S and B (03 R49). -/
def fmtI (op : BitVec 7) (d a : Reg) (imm : BitVec 15) : Word32 := op ++ d ++ a ++ imm

/-- Formats J and U (03 R49). -/
def fmtU (op : BitVec 7) (d : Reg) (imm : BitVec 20) : Word32 := op ++ d ++ imm

/-- Format M (03 R49). -/
def fmtM (op : BitVec 7) (d a : Reg) (imm : BitVec 10) (sc : Scope) (ord : Bool) : Word32 :=
  op ++ d ++ a ++ imm ++ sc.code ++ BitVec.ofBool ord

/-- Format C (03 R49). -/
def fmtC (d a : Reg) (crn : BitVec 12) (fn3 : BitVec 3) : Word32 := (0x38 : BitVec 7) ++ d ++ a ++ crn ++ fn3

/-- The encoder of scalar words (03 R49 to R62); none for block words and for events. -/
def encode : Instr → Option Word32
  | .add k d a b => some (fmtA 0x01 d a b ((0 : BitVec 8) ++ k.code))
  | .sub k d a b => some (fmtA 0x01 d a b ((1 : BitVec 8) ++ k.code))
  | .andR k d a b => some (fmtA 0x01 d a b ((2 : BitVec 8) ++ k.code))
  | .orR k d a b => some (fmtA 0x01 d a b ((3 : BitVec 8) ++ k.code))
  | .xorR k d a b => some (fmtA 0x01 d a b ((4 : BitVec 8) ++ k.code))
  | .sll k d a b => some (fmtA 0x01 d a b ((5 : BitVec 8) ++ k.code))
  | .srl k d a b => some (fmtA 0x01 d a b ((6 : BitVec 8) ++ k.code))
  | .sra k d a b => some (fmtA 0x01 d a b ((7 : BitVec 8) ++ k.code))
  | .slt k d a b => some (fmtA 0x01 d a b ((8 : BitVec 8) ++ k.code))
  | .sltu k d a b => some (fmtA 0x01 d a b ((9 : BitVec 8) ++ k.code))
  | .minR k d a b => some (fmtA 0x01 d a b ((10 : BitVec 8) ++ k.code))
  | .maxR k d a b => some (fmtA 0x01 d a b ((11 : BitVec 8) ++ k.code))
  | .minu k d a b => some (fmtA 0x01 d a b ((12 : BitVec 8) ++ k.code))
  | .maxu k d a b => some (fmtA 0x01 d a b ((13 : BitVec 8) ++ k.code))
  | .clz k d a => some (fmtA 0x01 d a 0 ((14 : BitVec 8) ++ k.code))
  | .ctz k d a => some (fmtA 0x01 d a 0 ((15 : BitVec 8) ++ k.code))
  | .popc k d a => some (fmtA 0x01 d a 0 ((16 : BitVec 8) ++ k.code))
  | .mul k d a b => some (fmtA 0x02 d a b ((0 : BitVec 8) ++ k.code))
  | .mulh k d a b => some (fmtA 0x02 d a b ((1 : BitVec 8) ++ k.code))
  | .mulhu k d a b => some (fmtA 0x02 d a b ((2 : BitVec 8) ++ k.code))
  | .div k d a b => some (fmtA 0x02 d a b ((3 : BitVec 8) ++ k.code))
  | .divu k d a b => some (fmtA 0x02 d a b ((4 : BitVec 8) ++ k.code))
  | .rem k d a b => some (fmtA 0x02 d a b ((5 : BitVec 8) ++ k.code))
  | .remu k d a b => some (fmtA 0x02 d a b ((6 : BitVec 8) ++ k.code))
  | .lih d imm => some (fmtU 0x03 d imm)
  | .addpc d imm => some (fmtU 0x04 d imm)
  | .addi d a imm => some (fmtI 0x08 d a imm)
  | .andi d a imm => some (fmtI 0x09 d a imm)
  | .ori d a imm => some (fmtI 0x0A d a imm)
  | .xori d a imm => some (fmtI 0x0B d a imm)
  | .slti d a imm => some (fmtI 0x0C d a imm)
  | .sltiu d a imm => some (fmtI 0x0D d a imm)
  | .slli k d a sh => some (fmtI 0x0E d a ((0 : BitVec 2) ++ (0 : BitVec 5) ++ k.code ++ sh))
  | .srli k d a sh => some (fmtI 0x0E d a ((1 : BitVec 2) ++ (0 : BitVec 5) ++ k.code ++ sh))
  | .srai k d a sh => some (fmtI 0x0E d a ((2 : BitVec 2) ++ (0 : BitVec 5) ++ k.code ++ sh))
  | .lb d a imm => some (fmtI 0x10 d a imm)
  | .lbu d a imm => some (fmtI 0x11 d a imm)
  | .lh d a imm => some (fmtI 0x12 d a imm)
  | .lhu d a imm => some (fmtI 0x13 d a imm)
  | .lw d a imm => some (fmtI 0x14 d a imm)
  | .lwu d a imm => some (fmtI 0x15 d a imm)
  | .ld d a imm => some (fmtI 0x16 d a imm)
  | .sb b a imm => some (fmtI 0x18 b a imm)
  | .sh b a imm => some (fmtI 0x19 b a imm)
  | .sw b a imm => some (fmtI 0x1A b a imm)
  | .sd b a imm => some (fmtI 0x1B b a imm)
  | .beq a b off => some (fmtI 0x20 a b off)
  | .bne a b off => some (fmtI 0x21 a b off)
  | .blt a b off => some (fmtI 0x22 a b off)
  | .bge a b off => some (fmtI 0x23 a b off)
  | .bltu a b off => some (fmtI 0x24 a b off)
  | .bgeu a b off => some (fmtI 0x25 a b off)
  | .loop a off => some (fmtI 0x26 a 0 off)
  | .jal d off => some (fmtU 0x28 d off)
  | .jalr d a imm => some (fmtI 0x29 d a imm)
  | .fadd f rm d a b => some (fmtA 0x30 d a b (f.code ++ (0 : BitVec 5) ++ rm.code))
  | .fsub f rm d a b => some (fmtA 0x30 d a b (f.code ++ (1 : BitVec 5) ++ rm.code))
  | .fmul f rm d a b => some (fmtA 0x30 d a b (f.code ++ (2 : BitVec 5) ++ rm.code))
  | .fdiv f rm d a b => some (fmtA 0x30 d a b (f.code ++ (3 : BitVec 5) ++ rm.code))
  | .fsqrt f rm d a => some (fmtA 0x30 d a 0 (f.code ++ (4 : BitVec 5) ++ rm.code))
  | .fmin f d a b => some (fmtA 0x30 d a b (f.code ++ (5 : BitVec 5) ++ (0 : BitVec 3)))
  | .fmax f d a b => some (fmtA 0x30 d a b (f.code ++ (6 : BitVec 5) ++ (0 : BitVec 3)))
  | .fsgnj f d a b => some (fmtA 0x30 d a b (f.code ++ (7 : BitVec 5) ++ (0 : BitVec 3)))
  | .fsgnjn f d a b => some (fmtA 0x30 d a b (f.code ++ (8 : BitVec 5) ++ (0 : BitVec 3)))
  | .fsgnjx f d a b => some (fmtA 0x30 d a b (f.code ++ (9 : BitVec 5) ++ (0 : BitVec 3)))
  | .fcmpEq f d a b => some (fmtA 0x30 d a b (f.code ++ (10 : BitVec 5) ++ (0 : BitVec 3)))
  | .fcmpLt f d a b => some (fmtA 0x30 d a b (f.code ++ (11 : BitVec 5) ++ (0 : BitVec 3)))
  | .fcmpLe f d a b => some (fmtA 0x30 d a b (f.code ++ (12 : BitVec 5) ++ (0 : BitVec 3)))
  | .fclass f d a => some (fmtA 0x30 d a 0 (f.code ++ (13 : BitVec 5) ++ (0 : BitVec 3)))
  | .fcvt dst src rm d a => some (fmtA 0x31 d a 0 ((0 : BitVec 1) ++ dst.code ++ src.code ++ rm.code))
  | .fmaF16 np na rm d a b c => some (fmtA 0x32 d a b (c ++ BitVec.ofBool na ++ BitVec.ofBool np ++ rm.code))
  | .fmaF32 np na rm d a b c => some (fmtA 0x33 d a b (c ++ BitVec.ofBool na ++ BitVec.ofBool np ++ rm.code))
  | .fmaF64 np na rm d a b c => some (fmtA 0x34 d a b (c ++ BitVec.ofBool na ++ BitVec.ofBool np ++ rm.code))
  | .crrw d a crn => some (fmtC d a crn 0)
  | .crrs d a crn => some (fmtC d a crn 1)
  | .crrc d a crn => some (fmtC d a crn 2)
  | .sysc => some (fmtA 0x39 0 0 0 0)
  | .brk => some (fmtA 0x39 0 0 0 1)
  | .tret => some (fmtA 0x39 0 0 0 2)
  | .waiti => some (fmtA 0x39 0 0 0 3)
  | .halt => some (fmtA 0x39 0 0 0 4)
  | .rngx d a b stream => some (fmtA 0x3A d a b stream)
  | .vfetch xc stg off => some ((0x40 : BitVec 7) ++ xc ++ stg ++ off)
  | .vconfig d a b => some (fmtA 0x41 d a b 0)
  | .vsetvl d a => some (fmtA 0x41 d a 0 1)
  | .vsetrows d a => some (fmtA 0x41 d a 0 2)
  | .mattach d a => some (fmtA 0x42 d a 0 0)
  | .mdetach => some (fmtA 0x42 0 0 0 1)
  | .wload a b => some (fmtA 0x42 0 a b 2)
  | .wloadEmptySlot a b => some (fmtA 0x42 0 a b 2)
  | .wloadEmptyAsid a b => some (fmtA 0x42 0 a b 2)
  | .zzero a => some (fmtA 0x42 0 a 0 3)
  | .zsave a => some (fmtA 0x42 0 a 0 4)
  | .zload a => some (fmtA 0x42 0 a 0 5)
  | .adcfg a b => some (fmtA 0x42 0 a b 6)
  | .adinv a b sc => some (fmtA 0x42 0 a b (sc.code ++ (7 : BitVec 6)))
  | .spawn d a b => some (fmtA 0x43 d a b 0)
  | .send d a b => some (fmtA 0x43 d a b 1)
  | .recv d a => some (fmtA 0x43 d a 0 2)
  | .pgrab d d2 => some (fmtA 0x43 d 0 d2 3)
  | .pdone d a => some (fmtA 0x43 d a 0 4)
  | .pnarrive d a b => some (fmtA 0x43 d a b 5)
  | .pnwait d a b => some (fmtA 0x43 d a b 6)
  | .rput d a b sc => some (fmtA 0x43 d a b (sc.code ++ (7 : BitVec 6)))
  | .rtake d a b sc => some (fmtA 0x43 d a b (sc.code ++ (8 : BitVec 6)))
  | .endHart => some (fmtA 0x43 0 0 0 9)
  | .lds k d a imm sc acq => some (fmtM (match k with | .w8 => 0x48 | .w16 => 0x49 | .w32 => 0x4A | .w64 => 0x4B) d a imm sc acq)
  | .sts k d a imm sc acq => some (fmtM (match k with | .w8 => 0x4C | .w16 => 0x4D | .w32 => 0x4E | .w64 => 0x4F) d a imm sc acq)
  | .amoadd dbl d a b sc ord => some (fmtA (if dbl then 0x51 else 0x50) d a b (sc.code ++ ord.code ++ (0 : BitVec 4)))
  | .amoand dbl d a b sc ord => some (fmtA (if dbl then 0x51 else 0x50) d a b (sc.code ++ ord.code ++ (1 : BitVec 4)))
  | .amoor dbl d a b sc ord => some (fmtA (if dbl then 0x51 else 0x50) d a b (sc.code ++ ord.code ++ (2 : BitVec 4)))
  | .amoxor dbl d a b sc ord => some (fmtA (if dbl then 0x51 else 0x50) d a b (sc.code ++ ord.code ++ (3 : BitVec 4)))
  | .amomin dbl d a b sc ord => some (fmtA (if dbl then 0x51 else 0x50) d a b (sc.code ++ ord.code ++ (4 : BitVec 4)))
  | .amomax dbl d a b sc ord => some (fmtA (if dbl then 0x51 else 0x50) d a b (sc.code ++ ord.code ++ (5 : BitVec 4)))
  | .amominu dbl d a b sc ord => some (fmtA (if dbl then 0x51 else 0x50) d a b (sc.code ++ ord.code ++ (6 : BitVec 4)))
  | .amomaxu dbl d a b sc ord => some (fmtA (if dbl then 0x51 else 0x50) d a b (sc.code ++ ord.code ++ (7 : BitVec 4)))
  | .amoswap dbl d a b sc ord => some (fmtA (if dbl then 0x51 else 0x50) d a b (sc.code ++ ord.code ++ (8 : BitVec 4)))
  | .amocas dbl d a b sc ord => some (fmtA (if dbl then 0x51 else 0x50) d a b (sc.code ++ ord.code ++ (9 : BitVec 4)))
  | .amofmax dbl d a b sc ord => some (fmtA (if dbl then 0x51 else 0x50) d a b (sc.code ++ ord.code ++ (10 : BitVec 4)))
  | .amofmin dbl d a b sc ord => some (fmtA (if dbl then 0x51 else 0x50) d a b (sc.code ++ ord.code ++ (11 : BitVec 4)))
  | .amofadd dbl d a b sc ord => some (fmtA (if dbl then 0x51 else 0x50) d a b (sc.code ++ ord.code ++ (12 : BitVec 4)))
  | .fence sc i pr pw sr sw => some (fmtA 0x52 0 0 0 (sc.code ++ (0 : BitVec 1) ++ BitVec.ofBool i ++ BitVec.ofBool pr ++ BitVec.ofBool pw ++ BitVec.ofBool sr ++ BitVec.ofBool sw))
  | .pref a b => some (fmtA 0x53 0 a b 0)
  | .ipref a b => some (fmtA 0x53 0 a b 1)
  | .cflush d a b sc => some (fmtA 0x53 d a b (sc.code ++ (2 : BitVec 6)))
  | .tlbinv a b sc => some (fmtA 0x53 0 a b (sc.code ++ (3 : BitVec 6)))
  | .scfg d a b => some (fmtA 0x58 d a b 0)
  | .scfgUnbind d a b => some (fmtA 0x58 d a b 0)
  | .vldq v q => some (fmtA 0x58 (fld v 0 5) (fld v 5 1 ++ q) 0 1)
  | .vstq v q => some (fmtA 0x58 (fld v 0 5) (fld v 5 1 ++ q) 0 2)
  | .skick d a => some (fmtA 0x58 d a 0 3)
  | .swaitMailbox d a b => some (fmtA 0x58 d a b 4)
  | .swaitStream d a b => some (fmtA 0x58 d a b 4)
  | .ssave a => some (fmtA 0x58 0 a 0 5)
  | .sload a => some (fmtA 0x58 0 a 0 6)
  | .uiret => some (fmtA 0x58 0 0 0 7)
  | .ctxsave d a b => some (fmtA 0x59 d a b 0)
  | .ctxload a => some (fmtA 0x59 0 a 0 1)
  | .emret => some (fmtA 0x59 0 0 0 2)
  | .undefinedWord w => some w
  | _ => none

/-- The vop and fields of a block word (07 R153); none for scalar words, STOP and events. -/
def blockParts : Instr → Option (BitVec 8 × Fields)
  | .vadd f => some (0x10, f)
  | .vsub f => some (0x11, f)
  | .vmul f => some (0x12, f)
  | .vmulh f => some (0x13, f)
  | .vdiv f => some (0x14, f)
  | .vrem f => some (0x15, f)
  | .vmin f => some (0x16, f)
  | .vmax f => some (0x17, f)
  | .vabs f => some (0x18, f)
  | .vneg f => some (0x19, f)
  | .vfma f => some (0x1A, f)
  | .vand f => some (0x1B, f)
  | .vor f => some (0x1C, f)
  | .vxor f => some (0x1D, f)
  | .vsll f => some (0x1E, f)
  | .vsrl f => some (0x1F, f)
  | .vsra f => some (0x20, f)
  | .vsadd f => some (0x21, f)
  | .vssub f => some (0x22, f)
  | .vclz f => some (0x23, f)
  | .vpopc f => some (0x24, f)
  | .vsqrt f => some (0x25, f)
  | .vrcp f => some (0x26, f)
  | .vrsq f => some (0x27, f)
  | .vexp2 f => some (0x28, f)
  | .vlog2 f => some (0x29, f)
  | .vcmp f => some (0x2A, f)
  | .vsel f => some (0x2B, f)
  | .vcvt f => some (0x2C, f)
  | .vsat f => some (0x2D, f)
  | .vrng f => some (0x2E, f)
  | .vid f => some (0x2F, f)
  | .vmv f => some (0x30, f)
  | .vbcast f => some (0x31, f)
  | .vslideup f => some (0x40, f)
  | .vslidedn f => some (0x41, f)
  | .vgatherr f => some (0x42, f)
  | .vcompress f => some (0x43, f)
  | .vexpand f => some (0x44, f)
  | .vins f => some (0x45, f)
  | .vext f => some (0x46, f)
  | .vrowb f => some (0x47, f)
  | .vredsum f => some (0x50, f)
  | .vredtsum f => some (0x51, f)
  | .vredmax f => some (0x52, f)
  | .vredmin f => some (0x53, f)
  | .vredand f => some (0x54, f)
  | .vredor f => some (0x55, f)
  | .mand f => some (0x58, f)
  | .mor f => some (0x59, f)
  | .mxor f => some (0x5A, f)
  | .mandn f => some (0x5B, f)
  | .mpopc f => some (0x5C, f)
  | .mfirst f => some (0x5D, f)
  | .mfromp f => some (0x5E, f)
  | .vld f => some (0x60, f)
  | .vlds f => some (0x61, f)
  | .vldx f => some (0x62, f)
  | .vst f => some (0x63, f)
  | .vsts f => some (0x64, f)
  | .vstx f => some (0x65, f)
  | .vamo f => some (0x66, f)
  | .vamocas f => some (0x67, f)
  | .mrank f => some (0x68, f)
  | .mopk f => some (0x69, f)
  | .mopkAdapter f => some (0x6A, f)
  | .adfold f => some (0x6B, f)
  | .zrd f => some (0x6C, f)
  | .zwr f => some (0x6D, f)
  | .vdot8 f => some (0x70, f)
  | .xmuls f => some (0x71, f)
  | _ => none

/-- The encoder of block words (07 R146, R153, R155). -/
def encodeBlock : Instr → Option (BitVec 64)
  | .stop => some 0x0100000000000000
  | i => (blockParts i).map (fun p => wordOf p.1 p.2)

/-- The instruction the decoder reads from an instruction of `nbits` table bits `w`, zeros above them: a scalar word lies as four bytes in
memory, a block word (64 bits) as eight (00 R10). -/
def decodeTableWord (nbits w : Nat) : Option Instr :=
  if nbits = 64 then
    match decodeBlock (BitVec.ofNat 64 (leNat (leBytes 8 w))) with
    | .ok i => some i
    | .error _ => none
  else
    match decodeBytes (leBytes 4 (w % 2 ^ nbits)) with
    | .ok (i, _) => some i
    | .error _ => none

end Sys2Proof
end

