-- ==== Sys2Proof/Config.lean ====
section
/-! DEFINITION. What one ZQ-4800-A1 fixes (00 R1), and the FREE VALUES of the model: opaque constants without a body, applied to
the counter `State.tick`, so that nothing in Lean can evaluate them and a claim holds whatever they are. -/

namespace Sys2Proof.Config

/-- Clk that a step takes beyond one: contention, latency, back-off (13 R272; 04 R97). Log entry 5. -/
opaque extraClk : Nat → Nat

/-- A choice the manual leaves to the device: which of two permitted values is used. Log entry 6. -/
opaque choice : Nat → Bool

/-- A value the manual leaves open. Log entry 6. -/
opaque freeWord : Nat → BitVec 64

/-- The hint of a busy edge engine, 1 to 255 (17 R347). Log entry 6. -/
opaque freeHint : Nat → Nat

/-- Rail readings as the power manager samples them (24 R436): core current in amperes. Log entry 6. -/
opaque coreAmps : Nat → Nat

/-- Rail readings: the 1 ms average package power in watts (24 R436). Log entry 6. -/
opaque packageWatts : Nat → Nat

/-- The die that draws most when the manager samples (24 R436). Log entry 6. -/
opaque hottestDie : Nat → Nat

/-- Derived link key of (shared secret, lower identifier, higher identifier, rollover count, direction) (22 R410). Log entry 6. -/
opaque linkKey : Nat → Nat → Nat → Nat → Bool → Nat

/-- Derived nonce salt of the same (22 R410): its low 32 bits. Log entry 6. -/
opaque linkSalt : Nat → Nat → Nat → Nat → Bool → Nat

/-- What is fused as identifier of each die (22 R406). Log entry 6. -/
opaque fusedIdentifier : Nat → BitVec 64

/-- The identity seed of a die (22 R406). Log entry 6. -/
opaque identitySeed : Nat → BitVec 256

/-- The Ewelek root key hash, which I-die 0 alone carries (22 R406). Log entry 6. -/
opaque rootKeyHash : BitVec 256

/-- Do the twelve fused identifiers differ, as 22 R406 says they do? -/
def identifiersDiffer : Bool := (List.range 12).all (fun i => (List.range i).all (fun j => fusedIdentifier i ≠ fusedIdentifier j))

/-- The die identifier (22 R406), unique per die: what is fused; die numbers stand in where the constant breaks its own rule. -/
def dieIdentifier (d : Nat) : BitVec 64 := if identifiersDiffer then fusedIdentifier d else BitVec.ofNat 64 d

/-- Does a die lack power, so that it does not boot (22 R412)? Log entry 6. -/
opaque noPower : Nat → Bool

/-- Does the signed firmware manifest name CXL (else PCIe) for a host port (23 R418)? Log entry 6. -/
opaque portCxl : Nat → Bool

/-- The far end of link `k` of die `d`: a die and its link number; none where the die has no such link. C-dies 2p and 2p + 1 stand beside I-die p
(15 R313) and beside each other, the I-dies in a ring. Log entry 43 (DESIGN CHOICE). -/
def linkEnd (d k : Nat) : Option (Nat × Nat) :=
  if d < 8 then
    (if k = 0 then some (8 + d / 2, d % 2) else if k = 1 then some (if d % 2 = 0 then d + 1 else d - 1, 1) else none)
  else if d < 12 then
    (if k < 2 then some (2 * (d - 8) + k, 0)
     else if k = 2 then some (8 + (d - 7) % 4, 3)
     else if k = 3 then some (8 + (d - 5) % 4, 2)
     else none)
  else none

/-- The UALink ports of I-die 1 (00 R1). -/
def podPorts : Nat := 8

/-- The host ports of I-die 0 (00 R1). -/
def hostPorts : Nat := 2

/-- Bytes of CXL Type-3 expansion at most (00 R1). -/
def cxlBytes : Nat := 2048 * 10 ^ 9

/-- Usable HBM4 bytes (13 R275). -/
def hbmBytes : Nat := 744 * 10 ^ 9

/-- Second-tier bytes (13 R275). -/
def tier2Bytes : Nat := 1536 * 10 ^ 9

/-- Hart slots of the package (00 R1). -/
def nHarts : Nat := 3072

/-- Cores of the package (00 R1). -/
def nCores : Nat := 1536

/-- Cores of a C-die (00 R1). -/
def coresPerDie : Nat := 192

/-- What a byte of memory that nothing has written reads as. Log entry 2 (DESIGN CHOICE, unsafe). -/
def unwritten : Byte := 0

/-- The boot ROM window of a hart's die (01 R30). -/
def bootPc : BitVec 64 := 0x0F0000000000

end Sys2Proof.Config
end

