-- ==== Sys2Proof/Machine/State.lean ====
section
/-! DEFINITION. The state of the ZQ-4800 as plain data: every piece of state the spec gives the machine (INVENTORY.md, '## State'),
the reasons a step can stop, and the state after package reset (24 R438, 01 R30). -/

namespace Sys2Proof.Machine

/-- Privilege level (01 R15). -/
inductive Level | u | s | m
  deriving DecidableEq, Repr

/-- One set of trap registers (01 R24 to R26). -/
structure TrapRegs where
  status : Word
  tvec : Word
  epc : Word
  cause : Word
  tval : Word
  scratch : Word
  deriving DecidableEq, Repr

/-- A fetched and unconsumed element of an input stream: its value with its poison bit, the fault met at its fetch, or, once that fault has been
raised, that it is to be fetched again, and whether a VLDQ has reached it since (17 R340). -/
inductive Fetched
  | value (bits : Nat) (poison : Bool)
  | faulted (code : Nat) (addr : Nat)
  | again (reached : Bool)
  deriving DecidableEq, Repr

/-- A produced element of an output stream that the controller has not written yet (17 R342). -/
structure Produced where
  index : Nat
  bits : Nat
  poison : Bool
  deriving DecidableEq, Repr

/-- A stream register (17 R336). `fetched` holds the elements from index c on, `issued` counts requests under way, `resume` says
that a resumption of R340 has not issued its requests yet. -/
structure Stream where
  bound : Bool
  out : Bool
  err : Bool
  etag : Nat
  base : Word
  n : Nat
  stride : BitVec 32
  c : Nat
  bufofs : Nat
  bufsize : Nat
  asid : Word
  ptbase : Word
  level : Level
  fetched : List Fetched
  issued : Nat
  resume : Bool
  produced : List Produced
  deriving DecidableEq, Repr

/-- Kinds of Bunting items (09 R207). -/
inductive BKind | entry | dslice | uslice
  deriving DecidableEq, Repr

/-- Where a row of a matrix word that waits stands (09 R208): before its first-time pass, in the replay pass that comes next, or in a later
one. -/
inductive RowTurn | first | now | later
  deriving DecidableEq, Repr

/-- A row of a matrix word that waits (09 R208): the item it waits for, and whether a fill of it was invalidated while the row
waited (24 R439, A1-E01). -/
structure MissRow where
  row : Nat
  id : Nat
  kind : BKind
  blk : Nat
  turn : RowTurn
  twice : Bool
  deriving DecidableEq, Repr

/-- What a matrix word takes of its slot at its first pass (09 R197): number, element tag, k-block. -/
structure SlotTake where
  w : Nat
  tag : Nat
  kb : Nat
  deriving DecidableEq, Repr

/-- What a page migration has found and done (13 R290; 17 R348): the old page, where its entries lie and how many they are, the step of its last
invalidation, and whether that is the one of step 3. -/
structure Migration where
  old : Nat
  entry : Nat
  count : Nat
  inv : Nat
  closing : Bool
  deriving DecidableEq, Repr

/-- An asynchronous transfer (17 R344, R345) and how far it has gone. `ended` is the mailbox code once it has ended,
`tag` the work tag of its hart, `stay` the number of that hart's stay in its slot, `page` how far a migration is. -/
structure Transfer where
  src : Word
  dst : Word
  len : Nat
  nrows : Nat
  sstride : BitVec 32
  dstride : BitVec 32
  xid : BitVec 32
  eng : Nat
  int : Bool
  handler : Word
  mbox : Word
  asid : Word
  ptbase : Word
  level : Level
  hart : Nat
  written : Nat
  poisoned : Bool
  ended : Option Nat
  faddr : Word
  tag : Option (Nat × Nat)
  stay : Nat
  page : Option Migration
  deriving DecidableEq, Repr

/-- A claimed ring slot (11 R257, R263): the ring's lg, the claimed index, where the slot's header lies, and where each dword of the copy is read and
written, as the checks before the claim found them. -/
structure RingSlot where
  lg : Nat
  idx : BitVec 32
  hdr : Nat
  moves : List (Nat × Nat)
  deriving DecidableEq, Repr

/-- What a hart that does not issue waits for (19 R369). `fill` is a matrix word between passes: the slot it holds and the rows it has left;
`boundary` is a VFETCH at a boundary inside it, where other agents have their turn (log entry 1): at the start of a convoy of which `inner`, where
it is not 0, is a serial at which an interrupt stops it. -/
inductive Wait
  | recv (d a : Reg) (since : Nat)
  | pnwait (d a b : Reg)
  | rput (d : Reg) (sc : Scope) (slot : RingSlot)
  | rtake (d : Reg) (sc : Scope) (slot : RingSlot)
  | swait (d a b : Reg)
  | skick (d : Reg) (t : Transfer) (hints until_ : Nat)
  | waiti
  | vldq (v : BitVec 6) (q : BitVec 4) (start : Nat)
  | vstq (v : BitVec 6) (q : BitVec 4)
  | adinv (a b : Reg) (sc : Scope)
  | tlbinv (a b : Reg) (sc : Scope) (since : Nat)
  | drained (i : Instr)
  | ctxsave (d a b : Reg) (since : Word)
  | slot (w : Nat)
  | fill (held : Option SlotTake) (rows : List MissRow)
  | boundary (inner : Nat)
  deriving DecidableEq, Repr

/-- Whether a slot's hart issues (01 R94, R95; 11 R260; 20 R393). `empty` is a slot that holds no hart; `paused` is a hart whose lane
is being copied to the spare. -/
inductive Run
  | running
  | waiting (w : Wait)
  | halted
  | paused
  | empty
  deriving DecidableEq, Repr

/-- A physical error that strikes during a hart's turn (20 R387; 13 R292, R293; 23 R428): a check mismatch at an element serial, a residue failure
of the pass under way, a corrected error of a site of the hart's die, a 32-byte sector corrected or not to be corrected, at one of its four dwords
where it is SRAM, the accesses to a line by way of a port, on that IDE stream of a host port, that fail their integrity check, on UALink after a
retry; `addressed` says that what failed carried the address. Errors come from outside, through the agenda. -/
inductive HwError
  | mismatch (serial : Nat)
  | residue
  | corrected (site : Nat)
  | correctedSector (sector dword : Nat)
  | uncorrectable (sector dword : Nat)
  | portFailure (pa stream : Nat) (addressed : Bool)
  deriving DecidableEq, Repr

/-- A block whose matrix word waits (05 R119; 09 R197, R202): the address, the checked words, the stagger, the repetitions, and the tags that
earlier words of the convoy give their registers (05 R118). It is fetched, decoded and counted once per VFETCH. -/
structure HeldBlock where
  base : Word
  words : List Instr
  stagger : Nat
  n : Nat
  tags : List (Nat × Nat)
  deriving DecidableEq, Repr

/-- How far a word of a convoy that stopped has come (08 R165; log entry 58): its address, the repetition, the serial of the stop, the scalars it
read, what MPOPC or MFIRST has found and whether it has, whether an active element was met, where it was trimmed (13 R274), its poisoned elements and
the lowest of them (08 R163), and the number of its ordered store (15 R324). -/
structure Partial where
  at_ : Word
  rep : Nat
  serial : Nat
  x : Word
  x2 : Word
  acc : Nat
  held : Bool
  met : Bool
  trimmed : Option Nat
  pcount : Nat
  pfirst : Nat
  wtag : Nat
  deriving DecidableEq, Repr

/-- Bits of a register that a stopped convoy has overwritten, as they were (08 R165). -/
structure Overwritten where
  reg : Nat
  mask : Nat
  was : Nat
  deriving DecidableEq, Repr

/-- The vector state that a stopped convoy found at its start, as far as it has changed it (08 R159, R165; log entry 58): the address of its first
word, the repetition, the serial of the stop, the bits of vector registers, poison and masks, and of each register whose tag changed the old and
the new one. -/
structure Stopped where
  at_ : Word
  rep : Nat
  serial : Nat
  v : List Overwritten
  vpois : List Overwritten
  m : List Overwritten
  tags : List (Nat × Nat × Nat)
  deriving DecidableEq, Repr

/-- The state of one hart slot. Control registers are held as the words a read returns; their reserved bits are zero. `coremapAt` and
`routemapAt` are the steps of the last writes of coremap and routemap, whose tables are read as they stood then (23 R429). `aheadAt` is the step
of the pending VFETCH, `stay` tells the harts that have been in the slot apart. -/
structure Hart where
  level : Level
  pc : Word
  x : Tab Word
  fflags : Word
  frm : Word
  iflags : Word
  cycleBase : Word
  retired : Word
  trapS : TrapRegs
  trapM : TrapRegs
  vtype : Word
  vl : Word
  rows : Word
  vstart : Word
  vgrant : Word
  vxflags : Word
  vxtrap : Word
  vpoison : Word
  mgrant : Word
  amiss : Word
  adbase : Word
  uxid : Word
  uhandler : Word
  ushadow0 : Word
  ushadow1 : Word
  ushadow2 : Word
  ushadow3 : Word
  eshadow : Word
  eword : Word
  asid : Word
  ptbase : Word
  recvto : Word
  ebase : Word
  mseq : Word
  coremap : Word
  routemap : Word
  coremapAt : Nat
  routemapAt : Nat
  v : Tab Nat
  vtag : Tab Nat
  vpois : Tab Nat
  m : Tab Nat
  held : BitVec 8
  streams : Tab Stream
  ov : Bool
  tag : Option (Nat × Nat)
  run : Run
  prio : Nat
  lastSend : Option Nat
  ahead : Option Nat
  aheadAt : Nat
  block : Option HeldBlock
  partials : List Partial
  stopped : List Stopped
  stay : Nat
  loweredGl : Option Nat
  loweredGq : Option Nat
  throttledV : Bool
  throttledM : Bool
  stopIn : Option Nat
  hwError : Option HwError
  deriving DecidableEq, Repr

/-- A message in a core's inbound queue: the sender's logical core number and 32 bytes (11 R254). -/
structure Message where
  sender : Nat
  body : List Byte
  deriving DecidableEq, Repr

/-- An accepted child that has not started (11 R253): the slot reserved for it, its pc and arguments, and its crew. -/
structure Child where
  slot : Nat
  pc : Word
  args : List Word
  launch : Nat
  member : Nat
  deriving DecidableEq, Repr

/-- A queued user-level completion entry (17 R353). -/
structure UEntry where
  slot : Nat
  xid : BitVec 32
  status : Nat
  mbox : Word
  handler : Word
  deriving DecidableEq, Repr

/-- State shared by the two slots of a core (05 R99; 09 R200; 11 R245, R247; 20 R389, R394). Tile keys are 4096 N + 64 i + j for zN, and
16384 + 32 i + c for zt. `issued` lists the slots that have issued since their harts were placed, the latest first (11 R264). `pwrOld` and `pwrAt`
keep pwrcap before its last control-register write and the clk of that write, for erratum A1-E03 (24 R439). -/
structure Core where
  lanecap : Word
  pwrcap : Word
  zstate : Word
  zrdone : Word
  tile : Tab Acc
  inbound : List Message
  children : List Child
  uqueue : List UEntry
  checkK : Nat
  spareUsed : Bool
  slane : Nat
  laneRetired : BitVec 8
  checkRetired : Bool
  sparing : Option Nat
  arbCount : Nat
  issued : List Nat
  pwrOld : Word
  pwrAt : Option Nat
  deriving DecidableEq, Repr

/-- State of a weight slot (09 R195). -/
inductive SlotState | empty | loading | ready | error
  deriving DecidableEq, Repr

/-- The content of a slot that a matrix word holds while a WLOAD waits for it (09 R197): whether it stands, is being loaded again or could not be
(20 R396), and how its reload reads it: its tag, its part of a pair, whether it has scales. -/
structure HeldContent where
  state : SlotState
  tag : Nat
  pair : Nat
  scl : Bool
  deriving DecidableEq, Repr

/-- A weight slot and its metadata (09 R195). `pair` is 0, 1 or 2; data are one byte per cell, key 64 k + n; scales key 64 blk + n, 0x7F
where unlisted; `pas` gives, for each of the 64 rows and then the scales, the physical addresses of its first and its last
element, as they were at the WLOAD (20 R396); `fault` the cause and address of the fault that put it in error (09 R197); `under` the
content that a matrix word still holds beneath a WLOAD that waits. -/
structure WSlot where
  state : SlotState
  asid : Word
  tag : Nat
  pair : Nat
  kb : Nat
  src : Word
  kstride : BitVec 32
  scl : Bool
  scaddr : Word
  ptbase : Word
  level : Level
  data : Tab Byte
  scales : Tab Byte
  pas : List (Nat × Nat)
  fault : Option (Nat × Word)
  under : Option HeldContent
  deriving DecidableEq, Repr

/-- What the fetch of a WLOAD has read (10 R218, R219): the cells of B and the scales with their numbers, and the physical addresses of the first and
last element of each row and of the scales; or the cause and address of its fault. -/
inductive Weights
  | arrived (cells scales pas : List (Nat × Nat))
  | faulted (code : Nat) (tval : Word)
  deriving DecidableEq, Repr

/-- An accepted WLOAD (10 R219): kind 0 loads, 1 empties slot `s`, 2 empties every slot of `asid`. `time` is the step it was accepted in, `got` what
its fetch has read, once it has been performed. -/
structure WloadReq where
  kind : Nat
  s : Nat
  asid : Word
  tag : Nat
  kb : Nat
  src : Word
  kstride : BitVec 32
  scl : Bool
  scaddr : Word
  ptbase : Word
  level : Level
  hart : Nat
  applied : Bool
  time : Nat
  got : Option Weights
  deriving DecidableEq, Repr

/-- A Bunting item (09 R207): its tag, the rank it was filled at, its fields or elements, the fault or the poison of an entry, and, of a slice, the
elements whose read faulted, each with the cause and the address. -/
structure BItem where
  asid : Word
  id : Nat
  mid : Nat
  kind : BKind
  blk : Nat
  rank : Nat
  etag : Nat
  cells : List Nat
  fault : Option (Nat × Nat)
  poison : Bool
  faults : List (Nat × Nat × Nat)
  deriving DecidableEq, Repr

/-- A Bunting fill under way (09 R208), read as the hart that missed: its directory base and translation. -/
structure BFill where
  item : BItem
  hart : Nat
  base : Word
  ptbase : Word
  level : Level
  dropped : Bool
  deriving DecidableEq, Repr

/-- What an ADINV selects (10 R224). -/
structure AdSel where
  id : Option Nat
  mid : Option Nat
  asid : Word
  deriving DecidableEq, Repr

/-- An ADINV that a cluster has performed (10 R225): what it selected, its scope, its step and its hart. A later fill reads what that hart had
performed there by then. -/
structure AdInv where
  sel : AdSel
  scope : Scope
  time : Nat
  hart : Nat
  deriving DecidableEq, Repr

/-- A pennant (11 R258). -/
structure Pennant where
  count : Nat
  expected : Nat
  gen : BitVec 32
  asid : Word
  deriving DecidableEq, Repr

/-- A strip buffer of a bound stream, which belongs to the controller (17 R339): hart, stream, offset and bytes in the Square. -/
structure StripBuf where
  hart : Nat
  q : Nat
  ofs : Nat
  size : Nat
  deriving DecidableEq, Repr

/-- State of a cluster (09 R190 to R207; 10 R219; 11 R258; 17 R339, R345; 20 R396). `chan` is keyed core x 2 + slot. -/
structure Cluster where
  chan : Tab Nat
  lastServed : Nat
  slots : Tab WSlot
  wloads : List WloadReq
  bunting : List BItem
  fills : List BFill
  adinvs : List AdInv
  pennants : Tab Pennant
  copies : List Transfer
  bufs : List StripBuf
  macroFail : Tab Nat
  macroRetired : List Nat
  deriving DecidableEq, Repr

/-- States of a lending pair (13 R281). -/
inductive LendState | own | watch | drain | retrain | lent | reclaim
  deriving DecidableEq, Repr

/-- A lending pair (13 R281): the idle channel, the clk since when it has been idle or the borrower without a request, and whether its neighbour
has had requests while it watched. -/
structure LendPair where
  st : LendState
  idle : Bool
  since : Nat
  queued : Bool
  deriving DecidableEq, Repr

/-- The old key of a direction in a rollover (22 R411): none kept, kept until the first flit under the new key, or for so many flits more. -/
inductive OldKey
  | none
  | kept
  | left (n : Nat)
  deriving DecidableEq, Repr

/-- One direction of a link (22 R410, R411): its rollover count, key and nonce salt, flits sent under the key, the old key, and whether a
rollover is due. -/
structure LinkWay where
  n : Nat
  key : Nat
  salt : Nat
  flits : Nat
  old : OldKey
  due : Bool
  deriving DecidableEq, Repr

/-- A UCIe link (22 R410, R411, R417): whether it has its keys and carries data, its width, the shared secret, the direction from the die of
lower index and the one to it, and the rollovers completed in both. -/
structure Link where
  keyed : Bool
  up : Bool
  half : Bool
  secret : Nat
  lo : LinkWay
  hi : LinkWay
  rolls : BitVec 32
  deriving DecidableEq, Repr

/-- The extended asymmetric algorithm of the SPDM exchanges (22 R408). -/
inductive ExtAsym | slhDsaShake256s
  deriving DecidableEq, Repr

/-- The extended hash of the SPDM exchanges (22 R408). -/
inductive ExtHash | shake256
  deriving DecidableEq, Repr

/-- An invalidation a translation unit has performed (14 R311, R312): for which ASID and page (none: every one), whether global entries
are included, and when. A walk may use a table entry older than memory's only where no later invalidation covers it (13 R288). -/
structure TlbInv where
  asid : Option Word
  page : Option Nat
  globals : Bool
  time : Nat
  deriving DecidableEq, Repr

/-- A record of the error log (20 R398). -/
structure LogRecord where
  kind : Nat
  lasting : Bool
  site : Nat
  addr : Word
  cycle : Word
  asid : Word
  hartid : Nat
  info : Nat
  deriving DecidableEq, Repr

/-- A context that harts of a die have translated under (13 R288): its ASID and ptbase, and the last step in which one did. The die's translation
unit may keep global leaves cached from it. -/
structure Walked where
  asid : Word
  ptbase : Word
  time : Nat
  deriving DecidableEq, Repr

/-- State of a die (22 R408, R412, R417; 11 R258; 13 R281, R288; 17 R347; 19 R385; 20 R388, R397). `algs` is what SPDM has negotiated, `noPair` has
a bit for each lending pair that could not train as one, `walked` lists the contexts its translation unit may hold entries of. `sites` keeps the clk
of a site's last three errors, newest first; `lasting` lists the sites declared lasting; `detectAt` is the clk of the last run of the wait-cycle
detector. -/
structure Die where
  st : Nat
  algs : Option (ExtAsym × ExtHash)
  noPair : BitVec 32
  pennants : Tab Pennant
  tlb : List TlbInv
  log : Tab LogRecord
  head : Nat
  tail : Nat
  lost : Nat
  hbmctl : Word
  lend : Tab LendPair
  cycleRecord : Tab Word
  edge : Tab (List Transfer)
  sites : Tab (List Nat)
  lasting : List Nat
  hirq : Tab Word
  detectAt : Nat
  walked : List Walked
  deriving DecidableEq, Repr

/-- A write (15 R315, R316), in coherence order within State.pend, newest first: the bytes it replaced and wrote, the agent that made it,
the point it appears at first, the points it has reached (`everywhere` for an AMO's), the harts whose fetches are ordered after it
(14 R306), the ordered vector store it belongs to (0: none; 15 R324), the step it was made in, whether it goes to memory of a host without
multi-copy atomicity (15 R329), and the nibble of its one byte that it writes, for a four-bit element (08 R184). -/
structure PendWrite where
  pa : Nat
  old : List Byte
  new : List Byte
  owner : AgentId
  first : Point
  reached : List Point
  everywhere : Bool
  fetched : List Nat
  word : Nat
  time : Nat
  split : Bool
  nibble : Option Nat
  deriving DecidableEq, Repr

/-- A posted launch (11 R265; 23 R424): the record as the launcher took it and where it lies, its queue with that queue's ASID, the clk it
was posted at, the priority it starts from, the steps it has aged, and the dwords of the record that could not be read (11 R242). -/
structure Posted where
  dwords : List Nat
  recPa : Nat
  queue : Nat
  queueAsid : Nat
  posted : Nat
  prio : Nat
  aged : Nat
  unread : List Nat
  deriving DecidableEq, Repr

/-- The geometry and cursors of a panel (11 R249, R250) and its outstanding pieces by member: (member, origin, area). -/
structure Panel where
  row0 : Nat
  nrows : Nat
  col0 : Nat
  ncols : Nat
  r : Nat
  c : Nat
  hb : Nat
  area : Nat
  deriving DecidableEq, Repr

/-- An outstanding panel piece (11 R250; 19 R380). -/
structure Piece where
  launch : Nat
  member : Nat
  origin : Word
  area : Nat
  deriving DecidableEq, Repr

/-- A placed launch (11 R243, R260; 19 R380): its record's address and fields, harts not yet ended, children accepted so far. -/
structure Crew where
  number : Nat
  recPa : Nat
  recAddr : Word
  asid : Word
  prio : Nat
  size : Nat
  left : Nat
  children : Nat
  cword : Word
  panelAddr : Word
  panel : Option Panel
  queue : Option Nat
  dieLost : Bool
  ptbase : Word
  deriving DecidableEq, Repr

/-- A work queue as the launcher keeps it (23 R424): `started` is the step of the setting of en it has acted on, `bells` are the doorbells that
raised target, each tail with the clk at which it posted what lies below it, the oldest first. -/
structure WorkQueue where
  head : BitVec 32
  target : BitVec 32
  started : Option Nat
  bells : List (BitVec 32 × Nat)
  deriving DecidableEq, Repr

/-- What the package has given the outside (23 R419, R425, R428): an MSI-X message with its address and data, or the answer to a read. -/
inductive HostOut
  | msix (port vector : Nat) (address : Word) (data : Word)
  | readData (port : Nat) (value : Word) (poisoned : Bool)
  | unsupported (port : Nat)
  | abort (port : Nat)
  | spdm (die : Nat) (answered : Bool)
  deriving DecidableEq, Repr

/-- An MSI-X vector (23 R418): its table entry, its mask and its pending bit. -/
structure MsixEntry where
  address : Word
  data : Word
  masked : Bool
  pending : Bool
  deriving DecidableEq, Repr

/-- Registers that exist only in C-die 0's MMIO (23 R422, R426; 20 R399). -/
structure DeviceRegs where
  asidtab : Word
  wqtab : Word
  lvecs : Word
  lvecm : Word
  msictl : Word
  podctl : Word
  poisonctl : Word
  decoders : Tab Word
  deriving DecidableEq, Repr

/-- The package power manager (24 R436). -/
structure PowerManager where
  lastSample : Nat
  lastStep : Option Nat
  overSince : Option Nat
  calmSince : Nat
  throttle : Bool
  deriving DecidableEq, Repr

/-- Keys of the outside links (23 R420, R428): IDE stream keys by 8 port + stream, secure sessions by port, UALinkSec keys by port,
host ports that have trained, the package at the far end of a UALink port, plus one, and the IDE streams that have failed. -/
structure OuterKeys where
  ide : Tab Nat
  session : Tab Nat
  ualink : Tab Nat
  trained : Tab Nat
  podOf : Tab Nat
  insecure : Tab Nat
  deriving DecidableEq, Repr

/-- A page that migrates (13 R290, R291): its old base, its new base, the bytes moved, and the dies that have left service since, which forward no
more of what had been moved by then: the die and the bytes (22 R415). -/
structure Moving where
  old : Nat
  new : Nat
  bytes : Nat
  lost : List (Nat × Nat)
  deriving DecidableEq, Repr

/-- A saved hart (17 R353, R356; 19 R378, R380, R385): its work tag, where its image lies, the number of its stay, whether a completion was coalesced,
what a VFETCH it was stopped in needs to resume (08 R165), and the target of its last SEND. -/
structure SavedHart where
  tag : Option (Nat × Nat)
  image : Nat
  stay : Nat
  ov : Bool
  block : Option HeldBlock
  partials : List Partial
  stopped : List Stopped
  lastSend : Option Nat
  deriving DecidableEq, Repr

/-- Whose turn comes next: a hart's (`alone` says that the other slot of its core is not ready at this clk, 04 R97, 11 R264; with, if any, the
number of stop boundaries of 19 R369 inside its VFETCH after which the turn ends, so that others act before it goes on, and a physical error that
strikes in it); those of several harts at one clk, of which `begun` says that it has begun; or an event's, with a physical error that strikes in it.
Log entry 1. -/
inductive Turn
  | hart (h : Nat) (alone : Bool) (until_ : Option Nat) (error : Option HwError)
  | same (begun : Bool) (hs : List Nat)
  | event (i : Instr) (error : Option HwError)
  deriving DecidableEq, Repr

/-- The machine. `hart` is the state of hart slot `cur`; `others` holds the other slots. `mem` is the memory by physical address, every
location at the latest write of its coherence order; `pend` says which agents see it yet; `releases` keeps the step of each hart's last release
(15 R320). `held` says that the package stays in reset for bad firmware (22 R407). `saved` holds the saved harts (17 R353, R356), `links` the
links by number (log entry 43), `moving` the pages that migrate (13 R291). `agenda`, `tick` and
`portMet`, the agent whose poll of a ring's slot has met a port failure in this turn (23 R421), are the model's own. -/
structure State where
  cur : Nat
  hart : Hart
  others : Tab Hart
  cores : Tab Core
  clusters : Tab Cluster
  dies : Tab Die
  links : Tab Link
  mem : List Host.Cell
  poison : List Nat
  pend : List PendWrite
  releases : Tab Nat
  posted : List Posted
  crews : List Crew
  pieces : List Piece
  launches : Nat
  queues : Tab WorkQueue
  saved : List SavedHart
  moving : List Moving
  regs : DeviceRegs
  msix : Tab MsixEntry
  keys : OuterKeys
  power : PowerManager
  epoch : BitVec 16
  clk : Nat
  powered : Bool
  held : Bool
  frozen : Bool
  hostOut : List HostOut
  portMet : Option AgentId
  agenda : List Turn
  tick : Nat
  deriving DecidableEq, Repr

/-- Why the machine stops. -/
inductive Fault
  /-- Raised by step when the agenda gives the turn to a number that is no hart position (01 R22). Safe: no such hart exists. -/
  | noSuchHart
  deriving DecidableEq, Repr

/-- Why an instruction has no meaning in the model. -/
inductive Refusal
  /-- Raised by exec for an instruction the model has no meaning for. Safe: nothing is claimed of it. -/
  | notModelled (mnemonic : String)
  deriving DecidableEq, Repr

/-- Trap registers after hart reset (01 R30; epc, cause, tval and scratch: log entry 3). -/
def TrapRegs.reset : TrapRegs := ⟨0, 0, 0, 0, 0, 0⟩

/-- An unbound stream (17 R336). -/
def Stream.unbound : Stream :=
  ⟨false, false, false, 0, 0, 0, 0, 0, 0, 0, 0, 0, .u, [], 0, false, []⟩

/-- A hart slot right after hart reset (01 R30, 05 R101, R112). `slot` is 0 or 1: at reset lanecap gives H0 all eight lanes and H1 none. DESIGN CHOICE
(log entry 71): a hart of no launch has priority 0. -/
def Hart.reset (slot : Nat) : Hart where
  level := .m
  pc := Config.bootPc
  x := []
  fflags := 0
  frm := 0
  iflags := 0
  cycleBase := 0
  retired := 0
  trapS := TrapRegs.reset
  trapM := TrapRegs.reset
  vtype := 0x8000000000000000
  vl := 0
  rows := 1
  vstart := 0
  vgrant := if slot = 0 then 0x888 else 0x800
  vxflags := 0
  vxtrap := 0
  vpoison := 0
  mgrant := 0
  amiss := 0
  adbase := 0
  uxid := 0
  uhandler := 0
  ushadow0 := 0
  ushadow1 := 0
  ushadow2 := 0
  ushadow3 := 0
  eshadow := 0
  eword := 0
  asid := 0
  ptbase := 0
  recvto := 0
  ebase := 0
  mseq := 0
  coremap := 0
  routemap := 0
  coremapAt := 0
  routemapAt := 0
  v := []
  vtag := []
  vpois := []
  m := []
  held := if slot = 0 then 0xFF else 0
  streams := []
  ov := false
  tag := none
  run := .running
  prio := 0
  lastSend := none
  ahead := none
  aheadAt := 0
  block := none
  partials := []
  stopped := []
  stay := 0
  loweredGl := none
  loweredGq := none
  throttledV := false
  throttledM := false
  stopIn := none
  hwError := none

/-- A core after core reset (01 R30; 11 R245, R247; 09 R210, R212; tiles: log entry 3). -/
def Core.reset : Core where
  lanecap := 0xFF
  pwrcap := 0x2044080088
  zstate := 0x8000000000000000
  zrdone := 0
  tile := []
  inbound := []
  children := []
  uqueue := []
  checkK := 0
  spareUsed := false
  slane := 0
  laneRetired := 0
  checkRetired := false
  sparing := none
  arbCount := 0
  issued := []
  pwrOld := 0
  pwrAt := none

/-- An empty weight slot (09 R195). -/
def WSlot.empty : WSlot :=
  ⟨.empty, 0, 0, 0, 0, 0, 0, false, 0, 0, .u, [], [], [], none, none⟩

/-- A pennant after reset (11 R258). -/
def Pennant.reset : Pennant := ⟨0, 0, 0, 0⟩

/-- A cluster after reset (09 R195; 11 R258; Bunting: log entry 3). -/
def Cluster.reset : Cluster where
  chan := []
  lastServed := 15
  slots := []
  wloads := []
  bunting := []
  fills := []
  adinvs := []
  pennants := []
  copies := []
  bufs := []
  macroFail := []
  macroRetired := []

/-- A direction without a key (22 R410). -/
def LinkWay.none : LinkWay := ⟨0, 0, 0, 0, .none, false⟩

/-- A link that carries no data (22 R417). -/
def Link.down : Link := ⟨false, false, false, 0, LinkWay.none, LinkWay.none, 0⟩

/-- A lending pair after reset (13 R281). -/
def LendPair.reset : LendPair := ⟨.own, false, 0, false⟩

/-- A die at package reset (24 R438; 22 R407, R412): state 0. -/
def Die.reset : Die where
  st := 0
  algs := none
  noPair := 0
  pennants := []
  tlb := []
  log := []
  head := 0
  tail := 0
  lost := 0
  hbmctl := 0
  lend := []
  cycleRecord := []
  edge := []
  sites := []
  lasting := []
  hirq := []
  detectAt := 0
  walked := []

/-- C-die 0's device registers after reset (23 R422, R426; 20 R399). -/
def DeviceRegs.reset : DeviceRegs := ⟨0, 0, 0, 0, 0, 0, 0, []⟩

/-- The machine on release of the RST ball (24 R438): every die at state 0, every slot's hart in the state of 01 R30 (it issues once
its die is admitted), hart slot 0 the current one. -/
def State.reset : State where
  cur := 0
  hart := Hart.reset 0
  others := []
  cores := []
  clusters := []
  dies := []
  links := []
  mem := []
  poison := []
  pend := []
  releases := []
  posted := []
  crews := []
  pieces := []
  launches := 0
  queues := []
  saved := []
  moving := []
  regs := DeviceRegs.reset
  msix := []
  keys := ⟨[], [], [], [], [], []⟩
  power := ⟨0, none, none, 0, false⟩
  epoch := 0
  clk := 0
  powered := false
  held := false
  frozen := false
  hostOut := []
  portMet := none
  agenda := []
  tick := 0

end Sys2Proof.Machine
end

