-- ==== Sys2Proof/Machine/Tab.lean ====
section
/-! DEFINITION. Tables by number in one canonical form: reading, writing, the form itself. `d` is what an unlisted number reads as. -/

namespace Sys2Proof

/-- What table `t` holds at `k`. -/
def Tab.get {α : Type} (d : α) : Tab α → Nat → α
  | [], _ => d
  | (k', v) :: t, k => if k = k' then v else Tab.get d t k

/-- Table `t` without entries at `k`. -/
def Tab.drop {α : Type} : Tab α → Nat → Tab α
  | [], _ => []
  | (k', v') :: t, k => if k = k' then Tab.drop t k else (k', v') :: Tab.drop t k

/-- Table `t` with an entry `v` at `k` in its place. -/
def Tab.insert {α : Type} : Tab α → Nat → α → Tab α
  | [], k, v => [(k, v)]
  | (k', v') :: t, k, v => if k < k' then (k, v) :: (k', v') :: t else (k', v') :: Tab.insert t k v

/-- Table `t` with `v` at `k`; writing what an unlisted number reads as removes the entry. -/
def Tab.put {α : Type} [DecidableEq α] (d : α) (t : Tab α) (k : Nat) (v : α) : Tab α :=
  if v = d then Tab.drop t k else Tab.insert (Tab.drop t k) k v

/-- Table `t` with `f` applied to what it holds at `k`. -/
def Tab.modify {α : Type} [DecidableEq α] (d : α) (t : Tab α) (k : Nat) (f : α → α) : Tab α :=
  Tab.put d t k (f (Tab.get d t k))

/-- Table `t` with `f` applied to every listed value. -/
def Tab.mapVals {α : Type} [DecidableEq α] (d : α) (t : Tab α) (f : α → α) : Tab α :=
  (t.map (fun p => (p.1, f p.2))).filter (fun p => p.2 ≠ d)

/-- Every number of `t` is above `k`. -/
def Tab.above {α : Type} (k : Nat) : Tab α → Bool
  | [] => true
  | (k', _) :: _ => k < k'

/-- The canonical form: numbers strictly rising, no entry equal to what an unlisted number reads as. -/
def Tab.wf {α : Type} [DecidableEq α] (d : α) : Tab α → Bool
  | [] => true
  | (k, v) :: t => Tab.above k t && (!decide (v = d)) && Tab.wf d t

end Sys2Proof
end

