-- ==== Sys2Proof/Machine/Ops.lean ====
section
/-! DEFINITION. The named operations over a hart: scalar registers, bit fields, positions, the other harts, cores, clusters and dies,
retirement, taking an exception and returning from one (01 R13, R22, R31, R32; 04 R71, R72; 19 R368, R372). -/

namespace Sys2Proof.Machine

/-- What a meaning answers. -/
abbrev Result := Host.Outcome State Fault Refusal

/-- A synchronous trap to raise: its cause code and tval (01 R31, 19 R365). -/
structure Trap where
  code : Nat
  tval : Word
  deriving DecidableEq, Repr

/-- `len` bits of `w` from bit `lo` on, as a number (00 R4). -/
def bits (w : Word) (lo len : Nat) : Nat := w.toNat / 2 ^ lo % 2 ^ len

/-- `n` bits of `x` from bit `lo` on replaced by `v`. -/
def putBits (x lo n v : Nat) : Nat := x % 2 ^ lo + v % 2 ^ n * 2 ^ lo + x / 2 ^ (lo + n) * 2 ^ (lo + n)

/-- `w` with `len` bits from bit `lo` on holding `v` (00 R4). -/
def withBits (w : Word) (lo len v : Nat) : Word :=
  BitVec.ofNat 64 (w.toNat % 2 ^ lo + v % 2 ^ len * 2 ^ lo + w.toNat / 2 ^ (lo + len) * 2 ^ (lo + len))

/-- Is bit `i` of `w` set? -/
def bitSet (w : Word) (i : Nat) : Bool := w.toNat.testBit i

/-- A Nat as a word, mod 2^64. -/
def word (n : Nat) : Word := BitVec.ofNat 64 n

/-! ### Registers -/

/-- X(i) of 04 R71: x0 reads zero (01 R13). -/
def Hart.reg (h : Hart) (r : Reg) : Word := if r = 0 then 0 else Tab.get 0 h.x r.toNat

/-- SetX(i, v) of 04 R71: a write to x0 is discarded (01 R13). -/
def Hart.setReg (h : Hart) (r : Reg) (v : Word) : Hart :=
  if r = 0 then h else { h with x := Tab.put 0 h.x r.toNat v }

/-- X(i) of the current hart. -/
def State.x (s : State) (r : Reg) : Word := s.hart.reg r

/-- SetX(i, v) of the current hart. -/
def State.setX (s : State) (r : Reg) (v : Word) : State := { s with hart := s.hart.setReg r v }

/-- The current hart changed by `f`. -/
def State.withHart (s : State) (f : Hart → Hart) : State := { s with hart := f s.hart }

/-! ### Positions (01 R22; 15 R313) -/

/-- The die of a hart. -/
def dieOf (h : Nat) : Nat := h / 512

/-- The cluster of a hart, numbered 24 x die + cluster. -/
def clusterOf (h : Nat) : Nat := 24 * (h / 512) + h / 16 % 32

/-- The core of a hart, the number hartid[11:1]. -/
def coreOf (h : Nat) : Nat := h / 2

/-- The slot of a hart within its core. -/
def slotOf (h : Nat) : Nat := h % 2

/-- The channel key of a hart within its cluster, core x 2 + slot (09 R193). -/
def chanKey (h : Nat) : Nat := h % 16

/-- Is the number a hart position (01 R22)? -/
def isHart (h : Nat) : Bool := h < 4096 && h / 16 % 32 < 24

/-- The die of a core. -/
def dieOfCore (c : Nat) : Nat := c / 256

/-- The cluster of a core, numbered 24 x die + cluster. -/
def clusterOfCore (c : Nat) : Nat := 24 * (c / 256) + c / 8 % 32

/-- The die of a cluster. -/
def dieOfCluster (c : Nat) : Nat := c / 24

/-- The first hart of a cluster. -/
def firstHart (c : Nat) : Nat := 512 * (c / 24) + 16 * (c % 24)

/-- Every hart position of a die (01 R22). -/
def hartsOfDie (d : Nat) : List Nat := (List.range 384).map (fun i => 512 * d + i)

/-! ### The other harts, cores, clusters, dies -/

/-- The state of hart slot `h`. -/
def State.hartAt (s : State) (h : Nat) : Hart := if h = s.cur then s.hart else Tab.get (Hart.reset (h % 2)) s.others h

/-- Hart slot `h` replaced. -/
def State.setHart (s : State) (h : Nat) (v : Hart) : State :=
  if h = s.cur then { s with hart := v } else { s with others := Tab.put (Hart.reset (h % 2)) s.others h v }

/-- Hart slot `h` changed by `f`. -/
def State.modHart (s : State) (h : Nat) (f : Hart → Hart) : State := s.setHart h (f (s.hartAt h))

/-- Make hart slot `h` the current one. -/
def State.switchTo (s : State) (h : Nat) : State :=
  if h = s.cur then s
  else
    { s with
      cur := h
      hart := Tab.get (Hart.reset (h % 2)) s.others h
      others := Tab.put (Hart.reset (s.cur % 2)) (Tab.put (Hart.reset (h % 2)) s.others h (Hart.reset (h % 2))) s.cur s.hart }

/-- Core `c`. -/
def State.coreAt (s : State) (c : Nat) : Core := Tab.get Core.reset s.cores c

/-- Core `c` changed by `f`. -/
def State.modCore (s : State) (c : Nat) (f : Core → Core) : State := { s with cores := Tab.modify Core.reset s.cores c f }

/-- The current hart's core. -/
def State.core (s : State) : Core := s.coreAt (coreOf s.cur)

/-- The current hart's core changed. -/
def State.withCore (s : State) (f : Core → Core) : State := s.modCore (coreOf s.cur) f

/-- Cluster `c`. -/
def State.clusterAt (s : State) (c : Nat) : Cluster := Tab.get Cluster.reset s.clusters c

/-- Cluster `c` changed by `f`. -/
def State.modCluster (s : State) (c : Nat) (f : Cluster → Cluster) : State :=
  { s with clusters := Tab.modify Cluster.reset s.clusters c f }

/-- The current hart's cluster. -/
def State.cluster (s : State) : Cluster := s.clusterAt (clusterOf s.cur)

/-- The current hart's cluster changed. -/
def State.withCluster (s : State) (f : Cluster → Cluster) : State := s.modCluster (clusterOf s.cur) f

/-- Die `d` (0 to 11). -/
def State.dieAt (s : State) (d : Nat) : Die := Tab.get Die.reset s.dies d

/-- Die `d` changed by `f`. -/
def State.modDie (s : State) (d : Nat) (f : Die → Die) : State := { s with dies := Tab.modify Die.reset s.dies d f }

/-- Is die `d` admitted (22 R412)? -/
def State.admitted (s : State) (d : Nat) : Bool := (s.dieAt d).st = 5

/-! ### Retirement (04 R72; 05 R122) -/

/-- A completed instruction: the pc goes to `pc`, and the hart counts it; a run-ahead instruction is counted when the pending VFETCH
retires (05 R122). -/
def Hart.retireTo (h : Hart) (pc : Word) : Hart :=
  match h.ahead with
  | none => { h with pc := pc, retired := h.retired + 1 }
  | some k => { h with pc := pc, ahead := some (k + 1) }

/-- The pending VFETCH and the run-ahead instructions behind it retire (05 R122). -/
def Hart.settle (h : Hart) : Hart :=
  match h.ahead with
  | none => h
  | some k => { h with retired := h.retired + 1 + word k, ahead := none }

/-- The instruction completes and the next pc is pc + 4 (04 R72). -/
def State.retire (s : State) : State := { s with hart := s.hart.retireTo (s.hart.pc + 4) }

/-- The instruction completes. -/
def done (s : State) : Result := .next s.retire

/-- The instruction completes and control goes to `pc`. -/
def jump (s : State) (pc : Word) : Result := .next { s with hart := s.hart.retireTo pc }

/-! ### Taking an exception and returning from it -/

/-- The two-bit code of a level (01 R15). -/
def Level.code : Level → Nat | .u => 0 | .s => 1 | .m => 3

/-- The level a two-bit code stands for (01 R15); status holds no 0b10 (01 R24). -/
def Level.ofCode (n : Nat) : Level := if n = 0 then .u else if n = 3 then .m else .s

/-- The target level of a synchronous trap (01 R31). -/
def trapTarget (l : Level) (code : Nat) : Level := if l = .m ∨ code = 9 then .m else .s

/-- Trap registers after entry (01 R31; 19 R368): epc, cause, tval, and status with pie := ie, ie := 0, ppriv := the level left. -/
def TrapRegs.enter (t : TrapRegs) (pc cause tval : Word) (l : Level) : TrapRegs :=
  { t with
    epc := pc
    cause := cause
    tval := tval
    status := withBits (withBits t.status 0 2 (2 * bits t.status 0 1)) 2 2 l.code }

/-- status after TRET (01 R32). -/
def TrapRegs.leave (t : TrapRegs) : TrapRegs :=
  { t with status := withBits t.status 0 4 (2 + bits t.status 1 1) }

/-- Synchronous trap entry (01 R31). A trap of a run-ahead instruction comes after the retirement of the VFETCH (05 R122). -/
def Hart.trap (h : Hart) (t : Trap) : Hart :=
  let h := h.settle
  if trapTarget h.level t.code = .m then
    { h with
      trapM := h.trapM.enter h.pc (word t.code) t.tval h.level
      level := .m
      pc := withBits h.trapM.tvec 0 2 0 }
  else
    { h with
      trapS := h.trapS.enter h.pc (word t.code) t.tval h.level
      level := .s
      pc := withBits h.trapS.tvec 0 2 0 }

/-- Synchronous trap entry of the current hart. -/
def State.trap (s : State) (t : Trap) : State := { s with hart := s.hart.trap t }

/-- The instruction traps. -/
def raise (s : State) (code : Nat) (tval : Word) : Result := .next (s.trap ⟨code, tval⟩)

/-- The state an operation that may trap leads to, handed to `k`; or the trap. -/
def orTrap {α : Type} (s : State) (r : Except Trap α) (k : α → Result) : Result :=
  match r with
  | .ok a => k a
  | .error t => .next (s.trap t)

/-- Return from a trap at level S or M (01 R32). -/
def Hart.tret (h : Hart) : Hart :=
  if h.level = .m then
    { h with pc := h.trapM.epc, level := Level.ofCode (bits h.trapM.status 2 2), trapM := h.trapM.leave }
  else
    { h with pc := h.trapS.epc, level := Level.ofCode (bits h.trapS.status 2 2), trapS := h.trapS.leave }

/-- Asynchronous interrupt entry of code `c` (19 R368); `resume` is the resume point of R369. -/
def Hart.asyncEntry (h : Hart) (c : Nat) (resume : Word) : Hart :=
  let h := h.settle
  { h with
    trapS := h.trapS.enter resume (withBits (word c) 63 1 1) 0 h.level
    level := .s
    run := .running
    pc := if bits h.trapS.tvec 0 2 = 1 then withBits h.trapS.tvec 0 2 0 + word (4 * c) else withBits h.trapS.tvec 0 2 0 }

/-- status_s.emu (01 R24; 19 R372). -/
def Hart.emu (h : Hart) : Bool := bitSet h.trapS.status 4

/-- The hart with status_s.emu set to `b`. -/
def Hart.setEmu (h : Hart) (b : Bool) : Hart :=
  { h with trapS := { h.trapS with status := withBits h.trapS.status 4 1 (bit b) } }

/-- Emulation entry of an undefined word (19 R372). -/
def Hart.emulate (h : Hart) (w : Word32) : Hart :=
  let h := h.settle
  { h.setEmu true with eshadow := h.pc, eword := zext 32 w, pc := withBits h.ebase 0 2 0 }

/-- vtype.ill (05 R104). -/
def Hart.ill (h : Hart) : Bool := bitSet h.vtype 63

/-- The number of a stay in slot `h` that begins at step `tick`; that of the stay since package reset is h + 1. -/
def newStay (h tick : Nat) : Nat := 4096 * (tick + 1) + h

/-- The number of the stay of the hart in slot `h`. -/
def State.stayAt (s : State) (h : Nat) : Nat := if (s.hartAt h).stay = 0 then h + 1 else (s.hartAt h).stay

/-- clk since the hart's reset (01 R23). -/
def State.cycle (s : State) : Word := word s.clk - s.hart.cycleBase

/-- The number of the scalar word of an instruction, for tval of code 2 (19 R365). -/
def wordOfInstr (i : Instr) : Word :=
  match encode i with
  | some w => zext 32 w
  | none => 0

/-- The instruction is refused with code 2, tval its own word (01 R33). -/
def illegal (s : State) (i : Instr) : Result := raise s 2 (wordOfInstr i)

end Sys2Proof.Machine
end

