-- ==== Sys2Proof/Machine/Fp.lean ====
section
/-! DEFINITION. Floating-point values as exact dyadic numbers, one rounding function for every binary format, and the operations on values
with the flags they raise (02 R38 to R47; 06 R128 to R136, R140, R141). Flags are the low five bits of fflags (01 R19). -/

namespace Sys2Proof.Machine


/-- Inexact. -/
def NX : Nat := 1
/-- Underflow. -/
def UF : Nat := 2
/-- Overflow. -/
def OF : Nat := 4
/-- Division by zero. -/
def DZ : Nat := 8
/-- Invalid operation. -/
def NV : Nat := 16

/-- A value: a NaN (signalling or quiet), an infinity, or (−1)^neg × m × 2^e exactly. -/
inductive FVal
  | nan (signalling : Bool)
  | inf (neg : Bool)
  | fin (neg : Bool) (m : Nat) (e : Int)
  deriving DecidableEq, Repr

/-- Which encodings of the highest exponent are no finite numbers (02 R39; 06 R128): IEEE's, only all ones (e4m3), or none. -/
inductive Specials | ieee | allOnes | none
  deriving DecidableEq, Repr

/-- A binary format (02 R38; 06 R128, R140): exponent bits, fraction bits, bias, special encodings. -/
structure FFmt where
  ebits : Nat
  fbits : Nat
  bias : Nat
  specials : Specials
  deriving DecidableEq, Repr

/-- F16 (02 R38; 06 R128, R140). -/
def fmtF16 : FFmt := ⟨5, 10, 15, .ieee⟩
/-- Bf16 (02 R38; 06 R128, R140). -/
def fmtBf16 : FFmt := ⟨8, 7, 127, .ieee⟩
/-- F32 (02 R38; 06 R128, R140). -/
def fmtF32 : FFmt := ⟨8, 23, 127, .ieee⟩
/-- F64 (02 R38; 06 R128, R140). -/
def fmtF64 : FFmt := ⟨11, 52, 1023, .ieee⟩
/-- E4m3 (02 R38; 06 R128, R140). -/
def fmtE4m3 : FFmt := ⟨4, 3, 7, .allOnes⟩
/-- E5m2 (02 R38; 06 R128, R140). -/
def fmtE5m2 : FFmt := ⟨5, 2, 15, .ieee⟩
/-- E2m3 (02 R38; 06 R128, R140). -/
def fmtE2m3 : FFmt := ⟨2, 3, 1, .none⟩
/-- E3m2 (02 R38; 06 R128, R140). -/
def fmtE3m2 : FFmt := ⟨3, 2, 3, .none⟩
/-- E2m1 (02 R38; 06 R128, R140). -/
def fmtE2m1 : FFmt := ⟨2, 1, 1, .none⟩
/-- Acc80 (02 R38; 06 R128, R140). -/
def fmtAcc80 : FFmt := ⟨11, 68, 1023, .ieee⟩

/-- Width in bits. -/
def FFmt.width (f : FFmt) : Nat := 1 + f.ebits + f.fbits

/-- Precision p (02 R38). -/
def FFmt.prec (f : FFmt) : Nat := f.fbits + 1

/-- Emax, the all-ones exponent field (02 R39). -/
def FFmt.emax (f : FFmt) : Nat := 2 ^ f.ebits - 1

/-- The exponent of the last place of subnormals, 1 − bias − (p − 1) (02 R39). -/
def FFmt.qmin (f : FFmt) : Int := 1 - (f.bias : Int) - f.fbits

/-- The magnitude bits of the largest finite value. -/
def FFmt.maxMag (f : FFmt) : Nat :=
  match f.specials with
  | .ieee => f.emax * 2 ^ f.fbits - 1
  | .allOnes => f.emax * 2 ^ f.fbits + (2 ^ f.fbits - 2)
  | .none => f.emax * 2 ^ f.fbits + (2 ^ f.fbits - 1)

/-- The canonical NaN (02 R39; 06 R129); e4m3's is S.1111.111. -/
def FFmt.canonNan (f : FFmt) : Nat :=
  match f.specials with
  | .ieee => f.emax * 2 ^ f.fbits + 2 ^ (f.fbits - 1)
  | _ => f.emax * 2 ^ f.fbits + (2 ^ f.fbits - 1)

/-- The value of an encoding (02 R39). -/
def FFmt.value (f : FFmt) (b : Nat) : FVal :=
  let neg := b.testBit (f.ebits + f.fbits)
  let e := b / 2 ^ f.fbits % 2 ^ f.ebits
  let m := b % 2 ^ f.fbits
  if f.specials = .ieee ∧ e = f.emax then (if m = 0 then .inf neg else .nan (!m.testBit (f.fbits - 1)))
  else if f.specials = .allOnes ∧ e = f.emax ∧ m = 2 ^ f.fbits - 1 then .nan false
  else if e = 0 then .fin neg m f.qmin
  else .fin neg (2 ^ f.fbits + m) (f.qmin + e - 1)

/-! ### Rounding -/

/-- Does a magnitude `r` + a remainder of `rem` parts in `d` round up (02 R40)? -/
def roundsUp (mode : RMode) (neg : Bool) (r rem d : Nat) : Bool :=
  match mode with
  | .rtz => false
  | .rdn => neg && rem ≠ 0
  | .rup => !neg && rem ≠ 0
  | .rmm => d ≤ 2 * rem && rem ≠ 0
  | _ => d < 2 * rem || (2 * rem = d && r % 2 = 1)

/-- The magnitude m × 2^e rounded to a multiple of 2^q: the multiple, and whether it differs (02 R41). -/
def roundAt (mode : RMode) (neg : Bool) (m : Nat) (e q : Int) : Nat × Bool :=
  if q ≤ e then (m * 2 ^ (e - q).toNat, false)
  else
    let d := 2 ^ (q - e).toNat
    let r := m / d
    let rem := m % d
    ((if roundsUp mode neg r rem d then r + 1 else r), rem ≠ 0)

/-- The last-place exponent of a nonzero m × 2^e at precision `p`, unbounded. -/
def lastPlace (p m : Nat) (e : Int) : Int := (m.log2 : Int) + e - (p - 1)

/-- The magnitude bits of r × 2^q, with q the last place of its binade and at least qmin. -/
def FFmt.encodeMag (f : FFmt) (r : Nat) (q : Int) : Nat :=
  if r < 2 ^ f.fbits then r
  else if r < 2 ^ f.prec then ((q - f.qmin).toNat + 1) * 2 ^ f.fbits + (r - 2 ^ f.fbits)
  else ((q - f.qmin).toNat + 2) * 2 ^ f.fbits

/-- The sign bit of the format. -/
def FFmt.sign (f : FFmt) (neg : Bool) : Nat := if neg then 2 ^ (f.ebits + f.fbits) else 0

/-- Does m × 2^e, rounded at the format's precision with unbounded exponent, stay below the smallest normal (02 R42)? -/
def FFmt.tiny (f : FFmt) (mode : RMode) (neg : Bool) (m : Nat) (e : Int) : Bool :=
  let q := lastPlace f.prec m e
  let r := (roundAt mode neg m e q).1
  (r.log2 : Int) + q < 1 - (f.bias : Int)

/-- What overflow delivers (02 R41): infinity, or else the largest finite value. -/
def overflowInf (mode : RMode) (neg : Bool) : Bool :=
  match mode with
  | .rtz => false
  | .rdn => neg
  | .rup => !neg
  | _ => true

/-- RoundTo(v, fmt, m) of 04 R71: the bits and the flags (02 R41 to R44). -/
def FFmt.round (f : FFmt) (mode : RMode) : FVal → Nat × Nat
  | .nan s => (f.canonNan, if s then NV else 0)
  | .inf neg => (f.sign neg + f.emax * 2 ^ f.fbits, 0)
  | .fin neg m e =>
    if m = 0 then (f.sign neg, 0)
    else
      let q := max (lastPlace f.prec m e) f.qmin
      let (r, nx) := roundAt mode neg m e q
      let mag := f.encodeMag r q
      if f.maxMag < mag then
        (f.sign neg + (if overflowInf mode neg then f.emax * 2 ^ f.fbits else f.maxMag), OF + NX)
      else (f.sign neg + mag, if nx then (if f.tiny mode neg m e then UF + NX else NX) else 0)

/-- NarrowTo(v, tag, ovf) of 06 R134 for a narrow float format. -/
def FFmt.narrow (f : FFmt) (ovf : Bool) : FVal → Nat × Nat
  | .nan s =>
    if f.specials = .none then (f.maxMag, NV) else (f.canonNan, if s then NV else 0)
  | .inf neg =>
    if ovf && f.specials = .ieee then (f.sign neg + f.emax * 2 ^ f.fbits, 0)
    else if ovf && f.specials = .allOnes then (f.canonNan, OF + NX)
    else (f.sign neg + f.maxMag, OF + NX)
  | .fin neg m e =>
    if m = 0 then (f.sign neg, 0)
    else
      let q := max (lastPlace f.prec m e) f.qmin
      let (r, nx) := roundAt .rne neg m e q
      let mag := f.encodeMag r q
      if f.maxMag < mag then
        (if ovf && f.specials = .ieee then f.sign neg + f.emax * 2 ^ f.fbits
         else if ovf && f.specials = .allOnes then f.canonNan
         else f.sign neg + f.maxMag, OF + NX)
      else (f.sign neg + mag, if nx then (if f.tiny .rne neg m e then UF + NX else NX) else 0)

/-- The result of a conversion to e8m0 (06 R135). -/
def narrowE8m0 : FVal → Nat × Nat
  | .fin false m e =>
    if m = 0 then (255, NV)
    else
      let x : Int := (m.log2 : Int) + e + 127
      if x < 0 then (0, UF + NX)
      else if 254 < x then (254, OF + NX)
      else (x.toNat, if m = 2 ^ m.log2 then 0 else NX)
  | _ => (255, NV)

/-- The value of an e8m0 code (06 R131). -/
def valueE8m0 (b : Nat) : FVal := if b % 256 = 255 then .nan false else .fin false 1 ((b % 256 : Int) - 127)

/-- Conversion to an integer of width `n` (02 R46): the integer, and the flags. -/
def FVal.toInt (mode : RMode) (signed : Bool) (n : Nat) : FVal → Int × Nat
  | .nan _ => (if signed then 2 ^ (n - 1) - 1 else 2 ^ n - 1, NV)
  | .inf neg => (if neg then (if signed then -2 ^ (n - 1) else 0) else (if signed then 2 ^ (n - 1) - 1 else 2 ^ n - 1), NV)
  | .fin neg m e =>
    let (r, nx) := roundAt mode neg m e 0
    let v : Int := if neg then -(r : Int) else r
    let lo : Int := if signed then -2 ^ (n - 1) else 0
    let hi : Int := if signed then 2 ^ (n - 1) - 1 else 2 ^ n - 1
    if v < lo then (lo, NV) else if hi < v then (hi, NV) else (v, if nx then NX else 0)

/-- An integer as a value. -/
def FVal.ofInt (v : Int) : FVal := .fin (v < 0) v.natAbs 0

/-! ### Arithmetic -/

/-- Is the value a signalling NaN? -/
def FVal.isSig : FVal → Bool | .nan s => s | _ => false

/-- Is the value a NaN? -/
def FVal.isNan : FVal → Bool | .nan _ => true | _ => false

/-- The sign of a value; a NaN counts as positive. -/
def FVal.neg : FVal → Bool | .nan _ => false | .inf n => n | .fin n _ _ => n

/-- NV where an operand is a signalling NaN (02 R44). -/
def sigFlag (vs : List FVal) : Nat := if vs.any FVal.isSig then NV else 0

/-- The value with its sign complemented; a NaN stays (04 R87). -/
def FVal.negate : FVal → FVal | .nan s => .nan s | .inf n => .inf (!n) | .fin n m e => .fin (!n) m e

/-- The magnitude. -/
def FVal.abs : FVal → FVal | .nan s => .nan s | .inf _ => .inf false | .fin _ m e => .fin false m e

/-- The sum of two finite values, exactly; an exact zero is +0, or −0 where `rdn`, unless both operands have the sign (02 R45). -/
def addFin (rdn : Bool) (n1 : Bool) (m1 : Nat) (e1 : Int) (n2 : Bool) (m2 : Nat) (e2 : Int) : FVal :=
  let e := min e1 e2
  let a : Int := (if n1 then -1 else 1) * (m1 * 2 ^ (e1 - e).toNat : Nat)
  let b : Int := (if n2 then -1 else 1) * (m2 * 2 ^ (e2 - e).toNat : Nat)
  if a + b = 0 then .fin (if n1 = n2 then n1 else rdn) 0 e else .fin (a + b < 0) (a + b).natAbs e

/-- a + b (02 R44, R45); `rdn` says that the mode is RDN. -/
def fAdd (rdn : Bool) (a b : FVal) : FVal × Nat :=
  match a, b with
  | .fin n1 m1 e1, .fin n2 m2 e2 => (addFin rdn n1 m1 e1 n2 m2 e2, 0)
  | .inf n1, .inf n2 => if n1 = n2 then (.inf n1, 0) else (.nan false, NV)
  | .inf n, .fin _ _ _ => (.inf n, 0)
  | .fin _ _ _, .inf n => (.inf n, 0)
  | _, _ => (.nan false, sigFlag [a, b])

/-- a × b (02 R44). -/
def fMul (a b : FVal) : FVal × Nat :=
  match a, b with
  | .fin n1 m1 e1, .fin n2 m2 e2 => (.fin (n1 != n2) (m1 * m2) (e1 + e2), 0)
  | .inf n1, .inf n2 => (.inf (n1 != n2), 0)
  | .inf n1, .fin n2 m _ => if m = 0 then (.nan false, NV) else (.inf (n1 != n2), 0)
  | .fin n1 m _, .inf n2 => if m = 0 then (.nan false, NV) else (.inf (n1 != n2), 0)
  | _, _ => (.nan false, sigFlag [a, b])

/-- a × b + c with one rounding to come (02 R44, R45). -/
def fFma (rdn : Bool) (a b c : FVal) : FVal × Nat :=
  let (p, fp) := fMul a b
  let (r, fr) := fAdd rdn p c
  (r, fp ||| fr ||| sigFlag [c])

/-- The quotient of nonzero magnitudes to 160 places, the last place odd where it is inexact, so that one rounding of it is one rounding of
the exact quotient. -/
def divFin (n : Bool) (m1 : Nat) (e1 : Int) (m2 : Nat) (e2 : Int) : FVal :=
  let a := m1 * 2 ^ 160
  .fin n (2 * (a / m2) + (if a % m2 = 0 then 0 else 1)) (e1 - e2 - 161)

/-- a / b (02 R44). -/
def fDiv (a b : FVal) : FVal × Nat :=
  match a, b with
  | .fin n1 m1 e1, .fin n2 m2 e2 =>
    if m2 = 0 then (if m1 = 0 then (.nan false, NV) else (.inf (n1 != n2), DZ))
    else if m1 = 0 then (.fin (n1 != n2) 0 0, 0)
    else (divFin (n1 != n2) m1 e1 m2 e2, 0)
  | .inf n1, .fin n2 _ _ => (.inf (n1 != n2), 0)
  | .fin n1 _ _, .inf n2 => (.fin (n1 != n2) 0 0, 0)
  | .inf _, .inf _ => (.nan false, NV)
  | _, _ => (.nan false, sigFlag [a, b])

/-- The largest r below 2^n + r0 with r × r ≤ v, found bit by bit. -/
def isqrtFrom (v : Nat) : Nat → Nat → Nat
  | 0, r => r
  | n + 1, r => isqrtFrom v n (if (r + 2 ^ n) * (r + 2 ^ n) ≤ v then r + 2 ^ n else r)

/-- floor of the square root. -/
def isqrt (v : Nat) : Nat := isqrtFrom v (v.log2 / 2 + 1) 0

/-- The square root of a nonzero m × 2^e, the last place odd where it is inexact. -/
def sqrtFin (m : Nat) (e : Int) : FVal :=
  let k : Int := if e % 2 = 0 then 160 else 161
  let v := m * 2 ^ k.toNat
  let r := isqrt v
  .fin false (2 * r + (if r * r = v then 0 else 1)) ((e - k) / 2 - 1)

/-- √a (02 R44; 04 R83). -/
def fSqrt (a : FVal) : FVal × Nat :=
  match a with
  | .fin n m e => if m = 0 then (.fin n 0 0, 0) else if n then (.nan false, NV) else (sqrtFin m e, 0)
  | .inf n => if n then (.nan false, NV) else (.inf false, 0)
  | .nan s => (.nan false, if s then NV else 0)

/-- Is a < b, for values that are no NaN? −0 equals +0. -/
def fLess (a b : FVal) : Bool :=
  match a, b with
  | .fin n1 m1 e1, .fin n2 m2 e2 =>
    let e := min e1 e2
    decide (((if n1 then -1 else 1) * (m1 * 2 ^ (e1 - e).toNat : Nat) : Int) < (if n2 then -1 else 1) * (m2 * 2 ^ (e2 - e).toNat : Nat))
  | .inf n1, .inf n2 => n1 && !n2
  | .inf n, _ => n
  | _, .inf n => !n
  | _, _ => false

/-- Are two values numerically equal? A NaN equals nothing. -/
def fEqual (a b : FVal) : Bool := !a.isNan && !b.isNan && !fLess a b && !fLess b a

/-- Does `a` stand below `b` in the order of minimumNumber, −0 below +0 (02 R43)? -/
def fBelow (a b : FVal) : Bool := fLess a b || (fEqual a b && a.neg && !b.neg)

/-- minimumNumber or maximumNumber of the encodings `x` and `y` (02 R43): bits and flags. -/
def FFmt.minMax (f : FFmt) (mx : Bool) (x y : Nat) : Nat × Nat :=
  let a := f.value x
  let b := f.value y
  let fl := sigFlag [a, b]
  if a.isNan && b.isNan then (f.canonNan, fl)
  else if a.isNan then (y, fl)
  else if b.isNan then (x, fl)
  else if mx then (if fBelow a b then y else x, fl)
  else (if fBelow b a then y else x, fl)

end Sys2Proof.Machine
end

