-- ==== Sys2Proof/Machine/Special.lean ====
section
/-! DEFINITION. The special functions of 08 R167: 1/a, 1/√a, 2^a and log2 a, as values that round as the exact results do. An irrational
result is given to some 240 places with its last place odd: log entry 12. -/

namespace Sys2Proof.Machine

/-- 1 / a (08 R167). -/
def fRcp (a : FVal) : FVal × Nat :=
  match a with
  | .nan s => (.nan false, if s then NV else 0)
  | .inf n => (.fin n 0 0, 0)
  | .fin n m e => if m = 0 then (.inf n, DZ) else (divFin n 1 0 m e, 0)

/-- 1 / √(m × 2^e) for m > 0. -/
def rsqFin (m : Nat) (e : Int) : FVal :=
  let m' := if e % 2 = 0 then m else 2 * m
  let e' := if e % 2 = 0 then e else e - 1
  let q := 2 ^ 480 / m'
  let r := isqrt q
  .fin false (2 * r + (if r * r * m' = 2 ^ 480 then 0 else 1)) (-(e' / 2) - 241)

/-- 1 / √a (08 R167). -/
def fRsq (a : FVal) : FVal × Nat :=
  match a with
  | .nan s => (.nan false, if s then NV else 0)
  | .inf n => if n then (.nan false, NV) else (.fin false 0 0, 0)
  | .fin n m e => if m = 0 then (.inf n, DZ) else if n then (.nan false, NV) else (rsqFin m e, 0)

/-- Places of the fixed-point numbers below. -/
def places : Nat := 260

/-- ln 2 in fixed point, as the sum of 1 / (k 2^k). -/
def ln2Fixed : Nat := ((List.range 280).map (fun k => 2 ^ (places + 20) / ((k + 1) * 2 ^ (k + 1)))).sum / 2 ^ 20

/-- e^y in fixed point for y below 1: the sum of y^k / k!, `n` terms from term `k`, whose value is `t`. -/
def expSum (y : Nat) : Nat → Nat → Nat → Nat
  | 0, _, _ => 0
  | n + 1, k, t => t + expSum y n (k + 1) (t * y / 2 ^ places / (k + 1))

/-- 2^a for a finite a that is no integer: with a = n + f, 2^n × e^(f ln 2); near 0, 1 and the direction of a. -/
def exp2Fin (neg : Bool) (m : Nat) (e : Int) : FVal :=
  if (m.log2 : Int) + e < -120 then .fin false (if neg then 2 ^ 200 - 1 else 2 ^ 200 + 1) (-200)
  else if 24 < (m.log2 : Int) + e then .fin false 1 (if neg then -2 ^ 24 else 2 ^ 24)
  else
    let x : Int := (if neg then -1 else 1) * (if 0 ≤ e + places then m * 2 ^ (e + places).toNat else m / 2 ^ (-(e + places)).toNat : Nat)
    let n := x / 2 ^ places
    let f := (x % 2 ^ places).toNat
    .fin false (2 * expSum (f * ln2Fixed / 2 ^ places) 90 0 (2 ^ places) + 1) (n - places - 1)

/-- Is m × 2^e an integer? -/
def isIntVal (m : Nat) (e : Int) : Bool := 0 ≤ e || m % 2 ^ (-e).toNat = 0

/-- 2^a (08 R167). -/
def fExp2 (a : FVal) : FVal × Nat :=
  match a with
  | .nan s => (.nan false, if s then NV else 0)
  | .inf n => (if n then .fin false 0 0 else .inf false, 0)
  | .fin n m e =>
    if m = 0 then (.fin false 1 0, 0)
    else if 24 < (m.log2 : Int) + e then (.fin false 1 (if n then -2 ^ 24 else 2 ^ 24), 0)
    else if isIntVal m e then
      let k : Nat := if 0 ≤ e then m * 2 ^ e.toNat else m / 2 ^ (-e).toNat
      (.fin false 1 (if n then -(k : Int) else k), 0)
    else (exp2Fin n m e, 0)

/-- `n` binary places of log2 of x / 2^places in [1, 2), by squaring. -/
def log2Bits : Nat → Nat → Nat → Nat
  | 0, _, r => r
  | n + 1, x, r =>
    let y := x * x / 2 ^ places
    if 2 ^ (places + 1) ≤ y then log2Bits n (y / 2) (2 * r + 1) else log2Bits n y (2 * r)

/-- log2 of m × 2^e for m > 0 that is no power of two. -/
def log2Fin (m : Nat) (e : Int) : FVal :=
  let n : Int := (m.log2 : Int) + e
  let f := log2Bits 240 (m * 2 ^ places / 2 ^ m.log2) 0
  let v : Int := 2 * (n * 2 ^ 240 + f) + 1
  .fin (v < 0) v.natAbs (-241)

/-- log2 a (08 R167). -/
def fLog2 (a : FVal) : FVal × Nat :=
  match a with
  | .nan s => (.nan false, if s then NV else 0)
  | .inf n => if n then (.nan false, NV) else (.inf false, 0)
  | .fin n m e =>
    if m = 0 then (.inf true, DZ)
    else if n then (.nan false, NV)
    else if m = 2 ^ m.log2 then (FVal.ofInt ((m.log2 : Int) + e), 0)
    else (log2Fin m e, 0)

end Sys2Proof.Machine
end

