-- ==== Sys2Proof/Machine/BlockCheck.lean ====
section
/-! DEFINITION. What the fields of each block word name and which of its imm24 bits it uses (07 R147, R150 to R152; 08 R166, R175, R178,
R182, R183; 10 R226, R227; 14 R302; 19 R374), and the checks block decode makes of one word and of a convoy (05 R120; 07 R156, R157;
08 R164). -/

namespace Sys2Proof

/-- What a register field of a block word names (07 R147). -/
inductive Opnd | unused | vec | mask | xreg
  deriving DecidableEq, Repr

/-- The layout of a block word's imm24 (07 R150 to R152). `r150 over ovf rm sx fn` lists the sub-fields the word uses, `fn` being the
mask of its fn bits; `ovr` is 0 for no override, 1 for allowed, 2 for required. `mem` is the layout of R151 with the ord values the
word accepts. `raw` lists the bits that are not reserved. -/
inductive ImmUse
  | r150 (ovr : Nat) (ovf rm sx : Bool) (fn : Nat)
  | mem (ords : List Nat) (fn : Nat)
  | raw (bits : Nat)
  deriving DecidableEq, Repr

/-- What each field of a block word names, and its imm24. -/
structure Shape where
  vd : Opnd
  vs1 : Opnd
  vs2 : Opnd
  vs3 : Opnd
  imm : ImmUse
  deriving DecidableEq, Repr

/-- to (07 R150). -/
def Fields.to (f : Fields) : Bool := fld f.imm 23 1 = 1
/-- ttag (07 R150). -/
def Fields.ttag (f : Fields) : Nat := (fld f.imm 18 5).toNat
/-- rm (07 R150). -/
def Fields.rm (f : Fields) : Nat := (fld f.imm 15 3).toNat
/-- ovf (07 R150). -/
def Fields.ovf (f : Fields) : Bool := fld f.imm 14 1 = 1
/-- sx (07 R150). -/
def Fields.sx (f : Fields) : Bool := fld f.imm 13 1 = 1
/-- fn of R150. -/
def Fields.fn (f : Fields) : Nat := (fld f.imm 0 13).toNat
/-- sc (07 R151). -/
def Fields.sc (f : Fields) : Nat := (fld f.imm 20 4).toNat
/-- ord (07 R151). -/
def Fields.ord (f : Fields) : Nat := (fld f.imm 18 2).toNat
/-- u (07 R151). -/
def Fields.u (f : Fields) : Bool := fld f.imm 17 1 = 1
/-- etag (07 R151). -/
def Fields.etag (f : Fields) : Nat := (fld f.imm 12 5).toNat
/-- fn of R151. -/
def Fields.mfn (f : Fields) : Nat := (fld f.imm 0 12).toNat
/-- The scalar register a word names in vs3 (07 R146). -/
def Fields.xs (f : Fields) : Reg := fld f.vs3 0 5
/-- nr of VAMO (14 R302). -/
def Fields.nr (f : Fields) : Bool := fld f.imm 4 1 = 1
/-- mx of MOPK (10 R227). -/
def Fields.mx (f : Fields) : Bool := fld f.imm 23 1 = 1
/-- scl of ZRD (10 R227). -/
def Fields.scl (f : Fields) : Bool := fld f.imm 13 1 = 1
/-- int of ADFOLD, ZRD and ZWR (10 R227). -/
def Fields.int (f : Fields) : Bool := fld f.imm 12 1 = 1
/-- kp of ADFOLD (10 R227). -/
def Fields.kp (f : Fields) : Bool := fld f.imm 13 1 = 1
/-- w of MOPK (10 R227). -/
def Fields.w (f : Fields) : Nat := (fld f.imm 10 9).toNat
/-- kk of MRANK (10 R227). -/
def Fields.kk (f : Fields) : Nat := (fld f.imm 10 6).toNat
/-- z of the matrix words (10 R227). -/
def Fields.z (f : Fields) : Nat := (fld f.imm 8 2).toNat
/-- cm of the matrix words (10 R227). -/
def Fields.cm (f : Fields) : Nat := (fld f.imm 0 8).toNat

/-- A word of R150 with a vector-scalar form: sx = 1 moves the second operand to vs3 (07 R150). -/
def sxShape (f : Fields) (vd : Opnd) (ovr : Nat) (ovf rm : Bool) (fn : Nat) : Shape :=
  if f.sx then ⟨vd, .vec, .unused, .xreg, .r150 ovr ovf rm true fn⟩ else ⟨vd, .vec, .vec, .unused, .r150 ovr ovf rm true fn⟩

/-- A slide: its offset stands in fn, or in X(xs) with sx = 1 (08 R175). -/
def slideShape (f : Fields) : Shape :=
  if f.sx then ⟨.vec, .vec, .unused, .xreg, .r150 0 false false true 0⟩
  else ⟨.vec, .vec, .unused, .unused, .r150 0 false false true 0x1FFF⟩

/-- One-source words of R166. -/
def unaryShape (ovr : Nat) (ovf rm : Bool) : Shape := ⟨.vec, .vec, .unused, .unused, .r150 ovr ovf rm false 0⟩

/-- Words that combine a vector into X(xs) (08 R178). -/
def redShape (ovr : Nat) (rm : Bool) : Shape := ⟨.unused, .vec, .unused, .xreg, .r150 ovr false rm false 0⟩

/-- What the fields of a block word name; none for what is no block word with fields. -/
def blockShape : Instr → Option Shape
  | .vadd f => some (sxShape f .vec 1 true true 0)
  | .vsub f => some (sxShape f .vec 1 true true 0)
  | .vmul f => some (sxShape f .vec 1 true true 0)
  | .vmulh f => some (sxShape f .vec 1 true true 0)
  | .vdiv f => some (sxShape f .vec 1 true true 0)
  | .vrem f => some (sxShape f .vec 1 true true 0)
  | .vmin f => some (sxShape f .vec 1 true true 0)
  | .vmax f => some (sxShape f .vec 1 true true 0)
  | .vabs _ => some (unaryShape 1 true true)
  | .vneg _ => some (unaryShape 1 true true)
  | .vfma _ => some ⟨.vec, .vec, .vec, .vec, .r150 1 true true false 3⟩
  | .vand f => some (sxShape f .vec 0 false false 0)
  | .vor f => some (sxShape f .vec 0 false false 0)
  | .vxor f => some (sxShape f .vec 0 false false 0)
  | .vsll f => some (sxShape f .vec 0 false false 0)
  | .vsrl f => some (sxShape f .vec 0 false false 0)
  | .vsra f => some (sxShape f .vec 0 false false 0)
  | .vsadd f => some (sxShape f .vec 0 false false 0)
  | .vssub f => some (sxShape f .vec 0 false false 0)
  | .vclz _ => some (unaryShape 0 false false)
  | .vpopc _ => some (unaryShape 0 false false)
  | .vsqrt _ => some (unaryShape 1 true true)
  | .vrcp _ => some (unaryShape 1 true true)
  | .vrsq _ => some (unaryShape 1 true true)
  | .vexp2 _ => some (unaryShape 1 true true)
  | .vlog2 _ => some (unaryShape 1 true true)
  | .vcmp f => some (sxShape f .mask 0 false false 7)
  | .vsel f => some (sxShape f .vec 1 true true 7)
  | .vcvt f => some ⟨.vec, .vec, if f.fn % 4 = 0 then .unused else .vec, .unused, .r150 2 true true false 3⟩
  | .vsat _ => some (unaryShape 2 false false)
  | .vrng _ => some ⟨.vec, .vec, .unused, .xreg, .r150 0 false false false 0x3FF⟩
  | .vid _ => some ⟨.vec, .unused, .unused, .unused, .r150 1 true true false 3⟩
  | .vmv _ => some (unaryShape 1 true true)
  | .vbcast _ => some ⟨.vec, .unused, .unused, .xreg, .r150 2 false false false 0⟩
  | .vslideup f => some (slideShape f)
  | .vslidedn f => some (slideShape f)
  | .vgatherr _ => some ⟨.vec, .vec, .vec, .unused, .r150 0 false false false 1⟩
  | .vcompress _ => some (unaryShape 0 false false)
  | .vexpand _ => some (unaryShape 0 false false)
  | .vins _ => some ⟨.vec, .unused, .unused, .xreg, .r150 0 false false false 0x1FFF⟩
  | .vext _ => some ⟨.unused, .vec, .unused, .xreg, .r150 0 false false false 0x1FFF⟩
  | .vrowb _ => some ⟨.vec, .vec, .unused, .unused, .r150 0 false false false 0x3F⟩
  | .vredsum _ => some (redShape 1 true)
  | .vredtsum _ => some ⟨.vec, .vec, .unused, .unused, .r150 1 false true false 0⟩
  | .vredmax _ => some (redShape 0 false)
  | .vredmin _ => some (redShape 0 false)
  | .vredand _ => some (redShape 0 false)
  | .vredor _ => some (redShape 0 false)
  | .mand _ => some ⟨.mask, .mask, .mask, .unused, .r150 0 false false false 0⟩
  | .mor _ => some ⟨.mask, .mask, .mask, .unused, .r150 0 false false false 0⟩
  | .mxor _ => some ⟨.mask, .mask, .mask, .unused, .r150 0 false false false 0⟩
  | .mandn _ => some ⟨.mask, .mask, .mask, .unused, .r150 0 false false false 0⟩
  | .mpopc _ => some ⟨.unused, .mask, .unused, .xreg, .r150 0 false false false 0⟩
  | .mfirst _ => some ⟨.unused, .mask, .unused, .xreg, .r150 0 false false false 0⟩
  | .mfromp _ => some ⟨.mask, .vec, .unused, .unused, .r150 0 false false false 0⟩
  | .vld _ => some ⟨.vec, .unused, .unused, .xreg, .mem [0, 1] 0⟩
  | .vlds _ => some ⟨.vec, .unused, .unused, .xreg, .mem [0, 1] 0⟩
  | .vldx _ => some ⟨.vec, .unused, .vec, .xreg, .mem [0, 1] 0⟩
  | .vst _ => some ⟨.unused, .vec, .unused, .xreg, .mem [0, 2] 0⟩
  | .vsts _ => some ⟨.unused, .vec, .unused, .xreg, .mem [0, 2] 0⟩
  | .vstx _ => some ⟨.unused, .vec, .vec, .xreg, .mem [0, 2] 0⟩
  | .vamo f => some ⟨if f.nr then .unused else .vec, .vec, .vec, .xreg, .mem [0, 1, 2, 3] 0x1F⟩
  | .vamocas _ => some ⟨.vec, .vec, .vec, .xreg, .mem [0, 1, 2, 3] 0⟩
  | .mrank _ => some ⟨.unused, .vec, .vec, .unused, .raw 0x00FFFF⟩
  | .mopk f => some ⟨.unused, .vec, .unused, if f.mx then .vec else .unused, .raw 0x87FFFF⟩
  | .mopkAdapter f => some ⟨.unused, .vec, .vec, if f.mx then .vec else .unused, .raw 0x87FFFF⟩
  | .adfold _ => some ⟨.unused, .unused, .vec, .unused, .raw 0x0033FF⟩
  | .zrd f => some ⟨.vec, if f.scl then .vec else .unused, .unused, .unused, .raw 0xFFF3FF⟩
  | .zwr _ => some ⟨.unused, .vec, .unused, .unused, .raw 0x0013FF⟩
  | .vdot8 _ => some ⟨.vec, .vec, .vec, .unused, .raw 0⟩
  | .xmuls _ => some ⟨.vec, .vec, .vec, .unused, .raw 0x00003F⟩
  | _ => none

/-- The further refusals of single words: fn values that are not assigned (08 R166, R169), xs of the strided words (08 R183), the
operations and orders of VAMO (14 R302), ZRD's to and rm (10 R227). -/
def extraOk : Instr → Bool
  | .vcmp f => f.fn % 8 ≤ 5
  | .vcvt f => f.fn % 4 ≠ 3
  | .vid f => f.fn % 4 ≠ 3
  | .vlds f => f.xs ≠ 0 && f.xs ≠ 31
  | .vsts f => f.xs ≠ 0 && f.xs ≠ 31
  | .vamo f => (f.mfn % 16 < 13) && (f.mfn % 16 ≠ 9)
  | .zrd f => f.to && f.rm ≠ 5 && f.rm ≠ 6
  | _ => true

/-- Are the bits of `v` all among those of `m`? -/
def bitsWithin (v m : Nat) : Bool := v &&& m = v

/-- The reserved bits and the enumerated values of imm24 (07 R150, R151; 14 R302). -/
def immOk (f : Fields) : ImmUse → Bool
  | .r150 ovr ovf rm sx fn =>
    (f.to || f.ttag = 0) && (ovr ≠ 0 || !f.to) && (ovr ≠ 2 || f.to) && (rm || f.rm = 0) && (f.rm ≠ 5 && f.rm ≠ 6)
      && (ovf || !f.ovf) && (sx || !f.sx) && bitsWithin f.fn fn
  | .mem ords fn => f.sc < 10 && ords.contains f.ord && (f.ord ≠ 0 || f.sc = 0) && bitsWithin f.mfn fn
  | .raw bits => bitsWithin f.imm.toNat bits

/-- One register field against what it names (05 R120, 07 R147): `count` is the register count, `dst` marks vd. -/
def opndOk (count : Nat) (dst : Bool) (o : Opnd) (n : BitVec 6) : Bool :=
  match o with
  | .unused => n = 0
  | .vec => n.toNat < count
  | .mask => n.toNat < 8 && !(dst && n = 0)
  | .xreg => n.toNat < 32

/-- The first check of R157 on one word: reserved fields, register numbers, an m0 destination. -/
def wordOk (count : Nat) (i : Instr) : Bool :=
  match i, blockShape i, blockParts i with
  | .stop, _, _ => true
  | _, some sh, some (_, f) =>
    opndOk count true sh.vd f.vd && opndOk count false sh.vs1 f.vs1 && opndOk count false sh.vs2 f.vs2 && opndOk count false sh.vs3 f.vs3
      && (decide (sh.vd = .vec) || fld f.rot 2 1 = 0) && (decide (sh.vs1 = .vec) || fld f.rot 1 1 = 0)
      && (decide (sh.vs2 = .vec) || fld f.rot 0 1 = 0) && immOk f sh.imm && extraOk i
  | _, _, _ => false

/-- The renaming of an operand in repetition `j` (05 R121). -/
def renameReg (on : Bool) (stg j count : Nat) (r : BitVec 6) : BitVec 6 :=
  if on then BitVec.ofNat 6 ((r.toNat + stg * j) % count) else r

/-- The fields of a word in repetition `j` (05 R121). -/
def Fields.rename (f : Fields) (stg j count : Nat) : Fields :=
  { f with
    vd := renameReg (fld f.rot 2 1 = 1) stg j count f.vd
    vs1 := renameReg (fld f.rot 1 1 = 1) stg j count f.vs1
    vs2 := renameReg (fld f.rot 0 1 = 1) stg j count f.vs2 }

/-- A block word with other fields. -/
def Instr.withFields (i : Instr) (g : Fields) : Instr :=
  match blockParts i with
  | some (vop, _) =>
    match decodeBlock (wordOf vop g) with
    | .ok i' => i'
    | .error _ => i
  | none => i

/-- A register as block decode compares them: vector, mask or scalar. -/
inductive BReg | v (n : Nat) | m (n : Nat) | x (n : Nat)
  deriving DecidableEq, Repr

/-- The register a field names. -/
def Opnd.reg (o : Opnd) (n : BitVec 6) : List BReg :=
  match o with
  | .unused => []
  | .vec => [.v n.toNat]
  | .mask => [.m (n.toNat % 8)]
  | .xreg => [.x (n.toNat % 32)]

/-- Does the word write the scalar register it names? (08 R177, R178, R182.) -/
def writesX : Instr → Bool
  | .vext _ => true
  | .vredsum _ => true
  | .vredmax _ => true
  | .vredmin _ => true
  | .vredand _ => true
  | .vredor _ => true
  | .mpopc _ => true
  | .mfirst _ => true
  | _ => false

/-- Does the word only write the scalar register it names? (08 R177, R182.) -/
def onlyWritesX : Instr → Bool
  | .vext _ => true
  | .mpopc _ => true
  | .mfirst _ => true
  | _ => false

/-- The registers a word writes; writes to x0 are exempt (07 R156 rule 5). DESIGN CHOICE (log entry 49): rule 6 counts no write to x0 either. -/
def writeSet (i : Instr) : List BReg :=
  match blockShape i, blockParts i with
  | some sh, some (_, f) => sh.vd.reg f.vd ++ (if writesX i && f.xs ≠ 0 then [.x f.xs.toNat] else [])
  | _, _ => []

/-- The scalar registers a word reads (07 R156 rule 6; 08 R183 for the strides). -/
def readXSet (i : Instr) : List BReg :=
  match blockShape i, blockParts i with
  | some sh, some (_, f) =>
    if onlyWritesX i then []
    else sh.vs3.reg f.vs3 ++ (match i with
      | .vlds _ => [.x (f.xs.toNat + 1)]
      | .vsts _ => [.x (f.xs.toNat + 1)]
      | _ => [])
      |>.filter (fun r => match r with | .x _ => true | _ => false)
  | _, _ => []

/-- The operands a word reads at serials other than its own (08 R164): vector registers. -/
def otherSerialV (i : Instr) : List BReg :=
  match i with
  | .vcvt f => if f.fn % 4 = 0 then [] else [.v f.vs2.toNat]
  | .vslideup f => [.v f.vs1.toNat]
  | .vslidedn f => [.v f.vs1.toNat]
  | .vgatherr f => [.v f.vs1.toNat]
  | .vcompress f => [.v f.vs1.toNat]
  | .vexpand f => [.v f.vs1.toNat]
  | .vrowb f => [.v f.vs1.toNat]
  | .vredtsum f => [.v f.vs1.toNat]
  | _ => []

/-- The operands a word reads at serials other than its own, the predicate mask among them (08 R164). -/
def otherSerial (i : Instr) : List BReg :=
  otherSerialV i ++ (match i with
    | .vcompress f => [.m f.pm.toNat]
    | .vexpand f => [.m f.pm.toNat]
    | .vredtsum f => [.m f.pm.toNat]
    | _ => [])

/-- Unit classes for the structural rules (07 R153, R156). -/
def isMemWord : Instr → Bool
  | .vld _ => true | .vlds _ => true | .vldx _ => true | .vst _ => true | .vsts _ => true | .vstx _ => true
  | .vamo _ => true | .vamocas _ => true | _ => false

/-- Divider or special-function words (07 R153). -/
def isDivWord : Instr → Bool
  | .vdiv _ => true | .vrem _ => true | .vsqrt _ => true | .vrcp _ => true | .vrsq _ => true | .vexp2 _ => true | .vlog2 _ => true
  | _ => false

/-- Matrix words (07 R153). -/
def isMatrixWord : Instr → Bool
  | .mrank _ => true | .mopk _ => true | .mopkAdapter _ => true | .adfold _ => true | .zrd _ => true | .zwr _ => true | _ => false

/-- The deprecated words (07 R153). -/
def isDeprecated : Instr → Bool
  | .vdot8 _ => true | .xmuls _ => true | _ => false

/-- Do two lists of registers meet? -/
def meets (a b : List BReg) : Bool := a.any (fun r => b.contains r)

/-- The refusals of a word by its own operands under one renaming: vd naming an operand read at other serials (08 R164), vd of a deprecated
word naming a source (19 R374). -/
def selfConflict (i : Instr) : Bool :=
  meets (writeSet i) (otherSerialV i) ||
    (match i with
     | .vdot8 f => f.vd = f.vs1 || f.vd = f.vs2
     | .xmuls f => f.vd = f.vs1 || f.vd = f.vs2
     | _ => false)

/-- Does adding word `i` to the words `before` of its convoy break a rule of 07 R156, under one renaming? -/
def convoyConflict (before : List Instr) (i : Instr) : Bool :=
  let written := before.flatMap writeSet
  (isMemWord i && (before.filter isMemWord).length ≥ 2)
    || (isDivWord i && before.any isDivWord)
    || (isMatrixWord i && before.any isMatrixWord)
    || (isMatrixWord i && before.any isMemWord) || (isMemWord i && before.any isMatrixWord)
    || meets (writeSet i) written
    || meets (readXSet i) written
    || meets (otherSerial i) written
    || ((isDeprecated i || before.any isDeprecated) && !before.isEmpty)
    || selfConflict i

/-- A word with its fields renamed for repetition `j` (05 R121). -/
def Instr.renamed (i : Instr) (stg j count : Nat) : Instr :=
  match blockParts i with
  | some (_, f) => i.withFields (f.rename stg j count)
  | none => i

/-- The repetitions whose renamings differ: stagger repeats with the register count. -/
def repsToCheck (stg n count : Nat) : Nat := if stg = 0 then 1 else min n count

/-- The second check of R157: the rules of R156 over the convoy so far, for every repetition. -/
def addOk (stg n count : Nat) (before : List Instr) (i : Instr) : Bool :=
  (List.range (repsToCheck stg n count)).all fun j =>
    !convoyConflict (before.map (·.renamed stg j count)) (i.renamed stg j count)

/-- Does the word end its convoy? -/
def endsConvoy (i : Instr) : Bool :=
  match blockParts i with
  | some (_, f) => f.cv
  | none => true

/-- Block decode over the fetched words in ascending address (07 R157): the words, or the offset of the first offending one. `k` is the
offset, `before` the words of the convoy under way. A block without STOP offends at word 63 (05 R120). -/
def checkBlock (count stg n : Nat) : Nat → List Instr → List (BitVec 64) → Except Nat (List Instr)
  | k, _, [] => .error (k - 1)
  | k, before, w :: ws =>
    match decodeBlock w with
    | .error _ => .error k
    | .ok i =>
      if i = .stop then .ok []
      else if wordOk count i && addOk stg n count before i then
        match checkBlock count stg n (k + 1) (if endsConvoy i then [] else before ++ [i]) ws with
        | .ok rest => .ok (i :: rest)
        | .error e => .error e
      else .error k

end Sys2Proof
end

