-- ==== Sys2Proof/Machine/Operands.lean ====
section
/-! DEFINITION. Scalar operand forms: integer operands at a width and their extension into a register (03 R55; 04 R71, R73), immediates
(03 R50; 04 R75, R77, R80), floating-point operands (04 R83). -/

namespace Sys2Proof

/-- The low n bits of a register as an unsigned number (04 R73). -/
def Width.u (w : Width) (x : Word) : Nat := x.toNat % 2 ^ w.bits

/-- The low n bits of a register as a signed number (04 R73). -/
def Width.i (w : Width) (x : Word) : Int := (w.u x : Int).bmod (2 ^ w.bits)

/-- Ext(v, n, S): v mod 2^n, sign-extended (04 R71). -/
def Width.sx (w : Width) (v : Int) : Word := BitVec.ofInt 64 (v.bmod (2 ^ w.bits))

/-- Ext(v, n, Z): v mod 2^n, zero-extended (04 R71). -/
def Width.zx (w : Width) (v : Int) : Word := BitVec.ofInt 64 (v % 2 ^ w.bits)

/-- The shift amount, the low log2(n) bits of b (04 R73). -/
def Width.shift (w : Width) (x : Word) : Nat := x.toNat % w.bits

/-- The format of a scalar fmt field (03 R58). -/
def SFmt.fmt : SFmt → Machine.FFmt | .f16 => Machine.fmtF16 | .f32 => Machine.fmtF32 | .f64 => Machine.fmtF64

/-- A rounding mode by its number (02 R40). -/
def RMode.byCode (n : Nat) : Option RMode :=
  if n = 0 then some .rne else if n = 1 then some .rtz else if n = 2 then some .rdn else if n = 3 then some .rup
  else if n = 4 then some .rmm else none

end Sys2Proof

namespace Sys2Proof.Machine

/-- SignExtend(imm15, 15) (04 R75). -/
def imm15 (i : BitVec 15) : Word := sext 15 i

/-- 4 × SignExtend(off15, 15) (04 R80). -/
def off15 (i : BitVec 15) : Word := 4 * sext 15 i

/-- 4 × SignExtend(off20, 20) (04 R82). -/
def off20 (i : BitVec 20) : Word := 4 * sext 20 i

/-- SignExtend(imm20, 20) × 2^15 (04 R77). -/
def imm20 (i : BitVec 20) : Word := sext 20 i <<< 15

/-- 8 × SignExtend(off17, 17) (05 R119). -/
def off17 (i : BitVec 17) : Word := 8 * sext 17 i

/-- The address of a scalar load or store (04 R78). -/
def State.ea (s : State) (a : Reg) (imm : BitVec 15) : Word := s.x a + imm15 imm

/-- The address of LDS and STS (14 R297). -/
def State.ea10 (s : State) (a : Reg) (imm : BitVec 10) : Word := s.x a + sext 10 imm

/-- A floating-point operand, the low bits of a register (02 R38). -/
def State.f (s : State) (f : SFmt) (r : Reg) : FVal := f.fmt.value ((s.x r).toNat % 2 ^ f.fmt.width)

/-- The low bits of a register that a floating-point format reads (02 R38). -/
def State.fbits (s : State) (f : SFmt) (r : Reg) : Nat := (s.x r).toNat % 2 ^ f.fmt.width

/-- Mode(rm) (04 R71): the mode, or none where frm holds 5 to 7 (01 R20). -/
def State.mode (s : State) (rm : RMode) : Option RMode :=
  match rm with
  | .dyn => RMode.byCode (bits s.hart.frm 0 3)
  | m => some m

end Sys2Proof.Machine
end

