-- ==== Sys2Proof/Machine/Flags.lean ====
section
/-! DEFINITION. The sticky flags: fflags (01 R19), iflags (01 R21), and how an instruction raises them at its retirement (02 R37, R48). -/

namespace Sys2Proof.Machine

/-- A word with the bits of `n` set as well. -/
def orWord (w : Word) (n : Nat) : Word := w ||| word n

/-- Arithmetic raises flags in fflags (02 R48). -/
def State.raiseF (s : State) (fl : Nat) : State := { s with hart := { s.hart with fflags := orWord s.hart.fflags fl } }

/-- Arithmetic raises flags in iflags (02 R48). -/
def State.raiseI (s : State) (fl : Nat) : State := { s with hart := { s.hart with iflags := orWord s.hart.iflags fl } }

/-- iflags.dz (01 R21). -/
def iDz : Nat := 2

/-- iflags.ov (01 R21). -/
def iOv : Nat := 1

/-- The special cases of integer division (02 R36): by zero, and the most negative number by −1. -/
inductive DivCase | normal | byZero | overflow
  deriving DecidableEq, Repr

/-- Which case a division meets (02 R36). -/
def divCase (signed : Bool) (n : Nat) (a b : Int) : DivCase :=
  if b = 0 then .byZero else if signed ∧ a = -(2 ^ (n - 1) : Int) ∧ b = -1 then .overflow else .normal

/-- Does the case trap, by iflags (02 R37)? tval is 1 or 2. -/
def divTrap (iflags : Word) : DivCase → Option Trap
  | .normal => none
  | .byZero => if bitSet iflags 9 then some ⟨12, 1⟩ else none
  | .overflow => if bitSet iflags 8 then some ⟨12, 2⟩ else none

/-- The sticky bit of the case (02 R36). -/
def divFlag : DivCase → Nat | .normal => 0 | .byZero => iDz | .overflow => iOv

/-- The quotient of 02 R36; n is the width. -/
def divQuot (signed : Bool) (n : Nat) (a b : Int) : Int :=
  match divCase signed n a b with
  | .normal => a.tdiv b
  | .byZero => if signed then -1 else 2 ^ n - 1
  | .overflow => a

/-- The remainder of 02 R36. -/
def divRem (signed : Bool) (n : Nat) (a b : Int) : Int :=
  match divCase signed n a b with
  | .normal => a.tmod b
  | .byZero => a
  | .overflow => 0

end Sys2Proof.Machine
end

