-- ==== Sys2Proof/Machine/Order.lean ====
section
/-! DEFINITION. The consistency model (15): the points of an agent's scopes, what a read at a scope returns, how a write is added, and what
release, acquire, fence and atomic writes do to the writes under way; the decoders that say which memory is a host's (23 R426, R427); and what
an access asks of its HBM channel (13 R280, R281). -/

namespace Sys2Proof.Machine

/-! ### Points (15 R313 to R315, R329) -/

/-- The points of the outer instances: `hostPt` in place of `system` for memory of a host without multi-copy atomicity (15 R329), `durable` the
point of persistence of .durable (15 R313). -/
def outerPoints : List (Nat × Point) := [(7, .system), (7, .hostPt 0), (7, .hostPt 1), (8, .pod), (9, .durable)]

/-- The points of an agent's instances, narrowest first, with the scope code of each (15 R313, R314, R329). -/
def pointsOf : AgentId → List (Nat × Point)
  | .hart h =>
    [(0, .own (.hart h)), (1, .core (coreOf h)), (2, .cluster (clusterOf h)), (3, .quad (clusterOf h / 4)), (4, .die (dieOf h)),
     (5, .pair (dieOf h / 2)), (6, .device)] ++ outerPoints
  | .ctl c =>
    [(0, .own (.ctl c)), (2, .cluster c), (3, .quad (c / 4)), (4, .die (dieOfCluster c)), (5, .pair (dieOfCluster c / 2)), (6, .device)]
      ++ outerPoints
  | .engine d e => [(0, .own (.engine d e)), (4, .die d), (5, .pair (d / 2)), (6, .device)] ++ outerPoints
  | .die d => [(0, .own (.die d)), (4, .die d), (5, .pair (d / 2)), (6, .device)] ++ outerPoints
  | .unit d => [(0, .own (.unit d)), (4, .die d), (5, .pair (d / 2)), (6, .device)] ++ outerPoints
  | .host p => [(0, .own (.host p)), (7, .system), (7, .hostPt p), (8, .pod), (9, .durable)]
  | .pod p => [(0, .own (.pod p)), (8, .pod)]

/-- The width of a scope in the order of instances (15 R313): .durable orders as .system. -/
def scopeRank : Scope → Nat
  | .hart => 0 | .core => 1 | .cluster => 2 | .quad => 3 | .die => 4 | .pair => 5 | .device => 6 | .system => 7 | .pod => 8 | .durable => 7

/-- Is a point of scope code `k` one of an instance no wider than `sc`? -/
def withinScope (sc : Scope) (k : Nat) : Bool := k ≤ scopeRank sc || (decide (sc = .durable) && k = 9)

/-- The points of I(a, t) for t from .hart to `sc`. -/
def pointsUpTo (a : AgentId) (sc : Scope) : List Point := ((pointsOf a).filter (fun p => withinScope sc p.1)).map (·.2)

/-- A point that stands for one host agent (15 R329). -/
def isHostPt : Point → Bool
  | .hostPt _ => true
  | _ => false

/-- The point of I(a, sc) (15 R316): an engine's narrowest instance where it has none of that scope. -/
def pointAt (a : AgentId) (sc : Scope) : Point := ((pointsUpTo a sc).filter (fun q => !isHostPt q)).getLast?.getD (.own a)

/-- The points of the next wider instances (15 R315, R329): the parents in the tree. -/
def parentsOf : Point → List Point
  | .own (.hart h) => [.core (coreOf h)]
  | .own (.ctl c) => [.cluster c]
  | .own (.engine d _) => [.die d]
  | .own (.die d) => [.die d]
  | .own (.unit d) => [.die d]
  | .own (.host p) => [.system, .hostPt p]
  | .own (.pod _) => [.pod]
  | .core c => [.cluster (clusterOfCore c)]
  | .cluster c => [.quad (c / 4)]
  | .quad q => [.die (q / 6)]
  | .die d => [.pair (d / 2)]
  | .pair _ => [.device]
  | .device => [.system, .hostPt 0, .hostPt 1]
  | .system => [.pod, .durable]
  | .hostPt _ => [.pod]
  | .pod => []
  | .durable => []

/-- Are two points parent and child (15 R315)? -/
def adjacent (p q : Point) : Bool := (parentsOf p).contains q || (parentsOf q).contains p

/-! ### The decoders (23 R426, R427) -/

/-- A dword of a decoder (23 R426). -/
def State.decoder (s : State) (i dw : Nat) : Word := Tab.get 0 s.regs.decoders (2 * i + dw)

/-- Does decoder `i` map the address (23 R426)? -/
def State.decodes (s : State) (i pa : Nat) : Bool :=
  bitSet (s.decoder i 0) 63 && bits (s.decoder i 0) 60 2 ≠ 3 && bits (s.decoder i 0) 30 22 * 2 ^ 30 ≤ pa
    && pa < bits (s.decoder i 0) 30 22 * 2 ^ 30 + bits (s.decoder i 1) 0 22 * 2 ^ 30

/-- The decoder of an address, the lowest where several map it (23 R426). -/
def State.decoderOf (s : State) (pa : Nat) : Option Nat := (List.range 8).find? (fun i => s.decodes i pa)

/-- The kind of the decoder of an address (23 R426); 3 where there is none. -/
def State.decoderKind (s : State) (pa : Nat) : Nat :=
  match s.decoderOf pa with
  | some i => bits (s.decoder i 0) 60 2
  | none => 3

/-- Does an address lie in the range the decoders map (23 R426)? -/
def inCxlRange (pa : Nat) : Bool := 0x080000000000 ≤ pa && pa < 0x0E0000000000

/-- Does an address lie in memory of a host that does not advertise multi-copy atomicity (15 R329; 23 R426, R427)? -/
def State.splitAt (s : State) (pa : Nat) : Bool :=
  inCxlRange pa &&
    match s.decoderOf pa with
    | some i => (bits (s.decoder i 0) 60 2 = 1 || bits (s.decoder i 0) 60 2 = 2) && !bitSet (s.decoder i 0) 62
    | none => false

/-- A scope as it stands now: .pod is .system while the package is in no pod (15 R313). -/
def State.scoped (s : State) (sc : Scope) : Scope := if sc = .pod ∧ bitSet s.regs.podctl 63 = false then .system else sc

/-! ### Writes under way -/

/-- Does the write cover byte `pa`? -/
def PendWrite.covers (p : PendWrite) (pa : Nat) : Bool := p.pa ≤ pa && pa < p.pa + p.new.length

/-- Does the write touch a byte of `pa .. pa + n - 1`? -/
def PendWrite.touches (p : PendWrite) (pa n : Nat) : Bool := p.pa < pa + n && pa < p.pa + p.new.length

/-- Has the write appeared at a point (15 R316)? -/
def PendWrite.appeared (p : PendWrite) : Bool := p.everywhere || !p.reached.isEmpty

/-- Does some of these points hold the write (15 R315)? -/
def PendWrite.atAny (p : PendWrite) (pts : List Point) : Bool := p.everywhere || p.reached.any (fun q => pts.contains q)

/-- Does agent `a` see the write through these points (15 R317)? Its own agent always sees it (15 R316). -/
def PendWrite.heldBy (p : PendWrite) (a : AgentId) (pts : List Point) : Bool := decide (p.owner = a) || p.atAny pts

/-- Is the point one that a write of this kind can be at (15 R329)? -/
def PendWrite.fits (p : PendWrite) (q : Point) : Bool :=
  match q with
  | .hostPt _ => p.split
  | .system => !p.split
  | .durable => !p.split
  | _ => true

/-- The write with points added to those it has reached. -/
def PendWrite.reach (p : PendWrite) (pts : List Point) : PendWrite :=
  { p with reached := pts.filter (fun q => p.fits q && !p.reached.contains q) ++ p.reached }

/-- The points a write appears at in one moment (15 R316, R328): its first; of .device or wider, the .device point at once. A device's write to
memory of a host without multi-copy atomicity appears at .device and goes on to the host points (15 R329); a host's, whose line has since moved to other
memory (13 R290), appears there. -/
def PendWrite.firstPoints (p : PendWrite) : List Point :=
  match p.first with
  | .system => if p.split then [.device] else [.device, .system]
  | .pod => if p.split then [.device] else [.device, .system, .pod]
  | .durable => if p.split then [.device] else [.device, .system, .durable]
  | .hostPt k => if p.split then [.hostPt k] else [.device, .system]
  | q => [q]

/-- Byte `b` with nibble `n` of `v`: what a store of a four-bit element makes of its byte (08 R184). -/
def mergeNibble (n : Nat) (v b : Byte) : Byte := BitVec.ofNat 8 (putBits b.toNat (4 * n) 4 (v.toNat / 16 ^ n % 16))

/-- What a write leaves in a byte of which its agent sees `below`, where `v` is the byte after it in coherence order: a four-bit store that has not
appeared has merged its nibble into nothing yet (08 R184; 15 R318). -/
def PendWrite.over (p : PendWrite) (v below : Byte) : Byte :=
  match p.nibble with
  | some n => if p.appeared then v else mergeNibble n v below
  | none => v

/-- Byte `pa` as an agent that sees exactly the writes `sees` accepts reads it, `v` being the latest value in coherence order. -/
def viewFrom (sees : PendWrite → Bool) (pa : Nat) (v : Byte) : List PendWrite → Byte
  | [] => v
  | p :: ps =>
    if p.covers pa then
      (if sees p then p.over v (viewFrom sees pa (p.old.getD (pa - p.pa) 0) ps) else viewFrom sees pa (p.old.getD (pa - p.pa) 0) ps)
    else viewFrom sees pa v ps

/-- The latest write to byte `pa` in its coherence order (15 R315). -/
def State.latest (s : State) (pa : Nat) : Byte := Tab.get Config.unwritten s.mem pa

/-- The points agent `a` reads or performs at with scope `sc`, as the package stands (15 R313). -/
def State.upTo (s : State) (a : AgentId) (sc : Scope) : List Point := pointsUpTo a (s.scoped sc)

/-- What agent `a` reads at scope `sc` at byte `pa` (15 R317). DEDUCED (log entry 75): so do both LDS.device of the variant of 15 R332 whose first
ones are plain, which its table calls allowed. -/
def State.view (s : State) (a : AgentId) (sc : Scope) (pa : Nat) : Byte :=
  viewFrom (fun p => p.heldBy a (s.upTo a sc)) pa (s.latest pa) s.pend

/-- `n` bytes from `pa` as agent `a` reads them at scope `sc`. -/
def State.viewBytes (s : State) (a : AgentId) (sc : Scope) (pa n : Nat) : List Byte :=
  (List.range n).map (fun i => s.view a sc (pa + i))

/-- The bytes from `pa` on, each at its latest write. -/
def State.latestBytes (s : State) (pa n : Nat) : List Byte := (List.range n).map (fun i => s.latest (pa + i))

/-- Memory with bytes `bs` from `pa` on. -/
def putBytes (m : List Host.Cell) (pa : Nat) : List Byte → List Host.Cell
  | [] => m
  | b :: bs => putBytes (Tab.put Config.unwritten m pa b) (pa + 1) bs

/-- Memory with every byte of the writes `ps` as `v` gives it. -/
def putWritten (v : Nat → Byte) (ps : List PendWrite) (m : List Host.Cell) : List Host.Cell :=
  ps.foldl (fun m p => (List.range p.new.length).foldl (fun m i => Tab.put Config.unwritten m (p.pa + i) (v (p.pa + i))) m) m

/-- The canonical form of memory: addresses strictly rising, no entry equal to what an unlisted address reads as. -/
def Memory.wf (m : List Host.Cell) : Bool := Tab.wf Config.unwritten m

/-- Poison after a write of `n` bytes at `pa`: a whole sector written is clean, a smaller write leaves it (13 R293). -/
def cleanSectors (ps : List Nat) (pa n : Nat) : List Nat := ps.filter (fun k => !(pa ≤ 32 * k && 32 * k + 32 ≤ pa + n))

/-- Poison with the sectors of `pa .. pa + n - 1` added (13 R293). -/
def addSectors (ps : List Nat) (pa n : Nat) : List Nat :=
  ((List.range (n / 32 + 2)).map (fun i => pa / 32 + i)).foldl
    (fun acc k => if 32 * k < pa + n && !acc.contains k then k :: acc else acc) ps

/-! ### Requests to the HBM channels (13 R280, R281) -/

/-- The stack of an HBM address (13 R280). -/
def hbmStack (pa : Nat) : Nat := pa / 2 ^ 14 % 16

/-- The channel of an HBM address within its stack (13 R280). -/
def hbmChannel (pa : Nat) : Nat := pa / 2 ^ 9 % 32

/-- The pseudo-channel of an HBM address within its channel (13 R280). -/
def hbmPseudo (pa : Nat) : Nat := pa / 2 ^ 8 % 2

/-- The lending pair of an HBM address on its die: pairs 0 to 15 on the first stack, 16 to 31 on the second (13 R281). -/
def hbmPair (pa : Nat) : Nat := 16 * (hbmStack pa % 2) + hbmChannel pa / 2

/-- A lending pair of a die. -/
def State.pair (s : State) (d p : Nat) : LendPair := Tab.get LendPair.reset (s.dieAt d).lend p

/-- That pair replaced. -/
def State.setPair (s : State) (d p : Nat) (v : LendPair) : State := s.modDie d (fun x => { x with lend := Tab.put LendPair.reset x.lend p v })

/-- A pair after a request to its channel `ch` at `clk` (13 R281): WATCH ends with a request to the idle channel; a request that arrives in DRAIN,
RETRAIN or RECLAIM waits until LENT or OWN, and the step covers that wait (log entry 44). `bad`: the pair could not train as one (22 R417). -/
def LendPair.request (p : LendPair) (ch bad : Bool) (clk : Nat) : LendPair :=
  match p.st with
  | .own => p
  | .watch => if ch = p.idle then LendPair.reset else { p with queued := true }
  | .drain => if bad then LendPair.reset else ⟨.lent, p.idle, clk, false⟩
  | .retrain => if bad then LendPair.reset else ⟨.lent, p.idle, clk, false⟩
  | .lent => { p with since := clk }
  | .reclaim => LendPair.reset

/-- An access makes a request to the HBM channel of its address (13 R280, R281). -/
def State.touch (s : State) (pa : Nat) : State :=
  let d := hbmStack pa / 2
  let p := s.pair d (hbmPair pa)
  if Config.hbmBytes ≤ pa ∨ p.st = .own then s
  else s.setPair d (hbmPair pa) (p.request (hbmChannel pa % 2 = 1) ((s.dieAt d).noPair.toNat.testBit (hbmPair pa)) s.clk)

/-! ### How writes enter and move -/

/-- Is the write one of a run-ahead instruction, visible to no agent before the pending VFETCH retires (05 R122)? -/
def State.heldBack (s : State) (p : PendWrite) : Bool :=
  match p.owner with
  | .hart h => (s.hartAt h).ahead.isSome && decide ((s.hartAt h).aheadAt < p.time)
  | _ => false

/-- Where a write of agent `a` to `pa`, performed at point `q`, appears first: a host's own point for its memory (15 R329). -/
def State.firstAt (s : State) (a : AgentId) (q : Point) (pa : Nat) : Point :=
  match a, q with
  | .host p, .system => if s.splitAt pa then .hostPt p else q
  | _, _ => q

/-- A write of `bs` at `pa` by agent `a` enters the coherence order (15 R315, R316): `first` is the point it appears at first, `all` marks an
AMO's, `w` the ordered vector store it belongs to. -/
def State.write (s : State) (a : AgentId) (first : Point) (all : Bool) (w : Nat) (pa : Nat) (bs : List Byte) : State :=
  { s with
    mem := putBytes s.mem pa bs
    poison := cleanSectors s.poison pa bs.length
    pend := ⟨pa, s.latestBytes pa bs.length, bs, a, s.firstAt a first pa, [], all, [], w, s.tick, s.splitAt pa, none⟩ :: s.pend }.touch pa

/-- Poison the sectors of `n` bytes at `pa` (13 R293). -/
def State.poisonAt (s : State) (pa n : Nat) : State := { s with poison := addSectors s.poison pa n }

/-- Is the sector of byte `pa` poisoned? -/
def State.poisoned (s : State) (pa : Nat) : Bool := s.poison.contains (pa / 32)

/-- Byte `pa` of the newest write that covers it, `v` where none does. -/
def newestByte (pa : Nat) (v : Byte) : List PendWrite → Byte
  | [] => v
  | p :: ps => if p.covers pa then p.new.getD (pa - p.pa) 0 else newestByte pa v ps

/-- Byte `pa` before every write under way. -/
def State.beneath (s : State) (pa : Nat) : Byte := viewFrom (fun _ => false) pa (s.latest pa) s.pend

/-- The write over other bytes: a four-bit store that has not appeared merges its nibble into them. -/
def PendWrite.withOld (p : PendWrite) (old : List Byte) : PendWrite :=
  { p with old := old, new := p.new.mapIdx (fun i v => p.over v (old.getD i 0)) }

/-- The write over those bytes that the writes `ps` below it give, over `base`. -/
def PendWrite.relink (p : PendWrite) (base : Nat → Byte) (ps : List PendWrite) : PendWrite :=
  p.withOld ((List.range p.new.length).map (fun i => newestByte (p.pa + i) (base (p.pa + i)) ps))

/-- The writes `ps`, each over those below it, above the writes `below`. -/
def relinkOver (base : Nat → Byte) (ps below : List PendWrite) : List PendWrite := ps.foldr (fun p qs => p.relink base qs :: qs) below

/-- The writes that meet `f` and have not appeared, and the older ones of their agents, marked: writes of one agent appear in order (15 R319). `ks`
are the agents of the marked ones among the newer writes. -/
def markAppear (f : PendWrite → Bool) : List AgentId → List PendWrite → List (Bool × PendWrite)
  | _, [] => []
  | ks, p :: ps =>
    if !p.appeared && (f p || ks.contains p.owner) then (true, p) :: markAppear f (p.owner :: ks) ps
    else (false, p) :: markAppear f ks ps

/-- The marked writes appear at their first points, above those that had appeared and below those that have not; `base` is what lies beneath. -/
def appearBetween (base : Nat → Byte) (ms : List (Bool × PendWrite)) : List PendWrite :=
  let of (f : Bool × PendWrite → Bool) : List PendWrite := (ms.filter f).map (·.2)
  let marked := of (·.1)
  let low := relinkOver base marked (of (fun m => !m.1 && m.2.appeared))
  relinkOver base (of (fun m => !m.1 && !m.2.appeared))
    ((low.take marked.length).map (fun p => p.reach p.firstPoints) ++ low.drop marked.length)

/-- Does a write that is not marked and has not appeared touch a marked one? -/
def crosses (ms : List (Bool × PendWrite)) : Bool :=
  ms.any (fun m => !m.1 && !m.2.appeared && ms.any (fun k => k.1 && k.2.touches m.2.pa m.2.new.length))

/-- The marked writes appear (15 R315, R316): each takes its place in the coherence order of its bytes as it appears, after every write that has
appeared, and memory follows. Log entry 10. -/
def State.appearing (s : State) (ms : List (Bool × PendWrite)) : State :=
  let ps := if crosses ms then appearBetween s.beneath ms else ms.map (fun m => if m.1 then m.2.reach m.2.firstPoints else m.2)
  { s with
    pend := ps
    mem := if crosses ms then putWritten (fun pa => newestByte pa (s.latest pa) ps) ((ms.filter (·.1)).map (·.2)) s.mem else s.mem }

/-- Every write of `a` that nothing holds back has appeared at its first point (15 R316, R320). -/
def State.appear (s : State) (a : AgentId) : State :=
  s.appearing (markAppear (fun p => decide (p.owner = a) && !s.heldBack p) [] s.pend)

/-- The writes that a read of the bytes `bs` returns, marked (15 R317): of those that `sees` accepts, the newest that covers a byte; below a four-bit
store that has not appeared, also the one it is merged into. -/
def markRead (sees : PendWrite → Bool) : List Nat → List PendWrite → List (Bool × PendWrite)
  | _, [] => []
  | bs, p :: ps =>
    if sees p then
      (bs.any p.covers, p) :: markRead sees (if p.nibble.isSome && !p.appeared then bs else bs.filter (fun b => !p.covers b)) ps
    else (false, p) :: markRead sees bs ps

/-- The marked writes with the lower elements of their ordered vector stores that point `q` lacks (15 R324); `ks` are the stores met among the newer
writes. -/
def markLower (q : Point) : List Nat → List (Bool × PendWrite) → List (Bool × PendWrite)
  | _, [] => []
  | ks, (m, p) :: ps =>
    let m := m || (p.word ≠ 0 && p.appeared && !p.atAny [q] && ks.contains p.word)
    (m, p) :: markLower q (if m && p.word ≠ 0 then p.word :: ks else ks) ps

/-- The marked writes that have appeared reach point `q`, with the lower elements of their ordered vector stores (15 R317, R324). -/
def bringTo (q : Point) (ms : List (Bool × PendWrite)) : List PendWrite :=
  (markLower q [] ms).map (fun m => if m.1 && m.2.appeared then m.2.reach [q] else m.2)

/-- A read of `n` bytes at `pa` by `a` at scope `sc` brings the writes it returns to a's own point (15 R317), and with an element of an ordered
vector store the lower ones (15 R324). -/
def State.observe (s : State) (a : AgentId) (sc : Scope) (pa n : Nat) : State :=
  { s with pend := bringTo (.own a) (markRead (fun p => p.heldBy a (s.upTo a sc)) ((List.range n).map (pa + ·)) s.pend) }

/-- The steps of the harts' last releases after a release by `a` at step `t`. -/
def noteRelease (rs : Tab Nat) (a : AgentId) (t : Nat) : Tab Nat :=
  match a with
  | .hart h => Tab.put 0 rs h t
  | _ => rs

/-- The marked writes with those that bar their way (15 R315): of the writes that a point of `below` holds, and not yet point `q`, each that is newer
than a marked one and touches it, so that the point holds it in place of that one. -/
def markNewer (below : List Point) (q : Point) : List (Bool × PendWrite) → List (Bool × PendWrite)
  | [] => []
  | (m, p) :: ps =>
    let r := markNewer below q ps
    (m || (p.atAny below && !p.atAny [q] && r.any (fun o => o.1 && o.2.touches p.pa p.new.length)), p) :: r

/-- The marks that have settled, after at most `n` rounds. -/
def settleMarks (below : List Point) (q : Point) : Nat → List (Bool × PendWrite) → List (Bool × PendWrite)
  | 0, ps => ps
  | n + 1, ps =>
    let ps' := markLower q [] (markNewer below q ps)
    if ps'.countP (·.1) = ps.countP (·.1) then ps else settleMarks below q n ps'

/-- The writes that meet `f` reach point `q`, from the points `below` it: each itself, or the later write that bars its way (15 R315, R320). -/
def carryTo (f : PendWrite → Bool) (below : List Point) (q : Point) (ps : List PendWrite) : List PendWrite :=
  (settleMarks below q ps.length (ps.map (fun p => (f p && !p.atAny [q], p)))).map (fun p => if p.1 then p.2.reach [q] else p.2)

/-- The writes that meet `f` have been carried through the points `pts`, each point after those below it in the tree. -/
def carry (f : PendWrite → Bool) (pts : List Point) (ps : List PendWrite) : List PendWrite :=
  pts.foldl (fun ps q => carryTo f (pts.filter (fun r => (parentsOf r).contains q)) q ps) ps

/-- The carrying condition of a release at scope `sc` by `a` (15 R320): a's writes have appeared; every one, and every write at a's own point, has
reached a's points up to `sc`, itself or a later write to its bytes. -/
def State.release (s : State) (a : AgentId) (sc : Scope) : State :=
  let s := s.appear a
  { s with
    pend := carry (fun p => p.appeared && p.heldBy a [.own a]) (s.upTo a sc) s.pend
    releases := noteRelease s.releases a s.tick }

/-- The refresh of an acquire at scope `sc` by `a` (15 R321). -/
def State.acquire (s : State) (a : AgentId) (sc : Scope) : State :=
  { s with pend := s.pend.map (fun p => if p.atAny (s.upTo a sc) then p.reach [.own a] else p) }

/-- The writes of `a` to the `n` bytes at `pa` have been performed at .system before anything else is issued (15 R324, host-shared pages): they, and
all before them of their agent, have appeared, and they have reached the point of every host agent where the memory has one each. -/
def State.performNow (s : State) (a : AgentId) (pa n : Nat) : State :=
  let s := s.appear a
  { s with pend := carry (fun p => decide (p.owner = a) && p.touches pa n && p.appeared) (s.upTo a .system) s.pend }

/-- Fetches of hart `h` are ordered after every write it has performed or observed (14 R306, fetch). -/
def State.orderFetch (s : State) (h : Nat) : State :=
  { s with
    pend := s.pend.map (fun p =>
      if p.heldBy (.hart h) [.own (.hart h)] && !p.fetched.contains h then { p with fetched := h :: p.fetched } else p) }

/-- What an instruction fetch of hart `h` reads at byte `pa`: of the writes its own point holds, one its fetches are ordered after for certain,
the others as the device chooses (01 R29; 14 R306). -/
def State.fetchByte (s : State) (h : Nat) (pa : Nat) : Byte :=
  viewFrom (fun p => p.fetched.contains h || (p.heldBy (.hart h) [.own (.hart h)] && Config.choice (s.tick + p.time))) pa (s.latest pa) s.pend

/-- What the translation unit of die `d` reads at byte `pa` of a table: the writes visible at .device that were made by step `upto`; an entry it has
cached stands as it was at such a step (13 R284, R288). -/
def State.tableByte (s : State) (d upto : Nat) (pa : Nat) : Byte :=
  viewFrom (fun p => p.atAny (s.upTo (.die d) .device) && decide (p.time ≤ upto)) pa (s.latest pa) s.pend

/-! ### Atomic writes (15 R316, R318) -/

/-- Does an AMO of agent `a` read the write: one that has appeared, or its own? -/
def PendWrite.amoSees (p : PendWrite) (a : AgentId) : Bool := p.appeared || decide (p.owner = a)

/-- The `n` bytes at `pa` immediately before an AMO of agent `a` in coherence order: its own writes have appeared, and no write of another agent that
has not appeared is read. -/
def State.amoBytesAt (s : State) (a : AgentId) (pa n : Nat) : List Byte :=
  (List.range n).map (fun i => viewFrom (fun p => p.amoSees a) (pa + i) (s.latest (pa + i)) (s.appear a).pend)

/-- The writes under way without those that `lost` names: what stood below a lost write stands there again. -/
def dropLost (lost : PendWrite → Bool) : List PendWrite → List PendWrite
  | [] => []
  | p :: ps =>
    if lost p then dropLost lost ps
    else
      p.withOld ((List.range p.new.length).map (fun i => viewFrom (fun o => !lost o) (p.pa + i) (p.old.getD i 0) ps)) :: dropLost lost ps

/-- The machine in which the writes that `lost` names have not been made: their bytes stand as before them. -/
def State.dropWrites (s : State) (lost : PendWrite → Bool) : State :=
  { s with
    mem := putWritten (fun pa => viewFrom (fun p => !lost p) pa (s.latest pa) s.pend) (s.pend.filter lost) s.mem
    pend := dropLost lost s.pend }

/-- The writes under way with write `w` of an AMO in its place: after those that `sees` accepts, below the others where one touches it (15 R316).
`base` is what lies beneath all of them. -/
def addBelow (sees : PendWrite → Bool) (w : PendWrite) (base : Nat → Byte) (ps : List PendWrite) : List PendWrite :=
  if ps.any (fun p => p.touches w.pa w.new.length && !sees p) then relinkOver base (ps.filter (fun p => !sees p)) (w :: ps.filter sees)
  else w :: ps

/-- Write `w` enters the coherence order in its place, and memory at its bytes follows. -/
def State.insertWrite (s : State) (sees : PendWrite → Bool) (w : PendWrite) : State :=
  let ps := addBelow sees w s.beneath s.pend
  { s with
    mem := putBytes s.mem w.pa ((List.range w.new.length).map (fun i => newestByte (w.pa + i) (s.latest (w.pa + i)) ps))
    poison := cleanSectors s.poison w.pa w.new.length
    pend := ps }.touch w.pa

/-- An AMO write of `bs` at `pa` by agent `a` enters the coherence order at every point at once (14 R296; 15 R316), after a's earlier writes have
appeared (15 R319). -/
def State.amoPut (s : State) (a : AgentId) (pa : Nat) (bs : List Byte) : State :=
  (s.appear a).insertWrite (fun p => p.amoSees a)
    ⟨pa, s.amoBytesAt a pa bs.length, bs, a, .own a, [], true, [], 0, s.tick, s.splitAt pa, none⟩

/-- A store of four-bit element `v` into nibble `n` of byte `pa` by agent `a` (08 R184; 15 R318): one atomic access, which merges the nibble into the
byte as it stands where the store takes its place in coherence order. -/
def State.writeNibble (s : State) (a : AgentId) (first : Point) (w : Nat) (pa n v : Nat) : State :=
  let new := mergeNibble n (BitVec.ofNat 8 (v % 16 * 16 ^ n)) (s.latest pa)
  { s with
    mem := putBytes s.mem pa [new]
    pend := ⟨pa, [s.latest pa], [new], a, s.firstAt a first pa, [], false, [], w, s.tick, s.splitAt pa, some n⟩ :: s.pend }.touch pa

/-- The read of an AMO brings the writes it returns to a's own point (15 R317). -/
def State.amoObserve (s : State) (a : AgentId) (pa n : Nat) : State :=
  { s with pend := bringTo (.own a) (markRead (fun p => p.amoSees a) ((List.range n).map (pa + ·)) s.pend) }

/-! ### The device's choice of movements (15 R316) -/

/-- What a write gains by moving to point `q`: the points it appears at, or `q` alone. -/
def PendWrite.gains (p : PendWrite) (q : Point) : List Point := if p.appeared then [q] else p.firstPoints

/-- Does point `r` hold the write, with no later write to its bytes there that point `q` lacks (15 R315)? -/
def PendWrite.leaves (p : PendWrite) (newer : List PendWrite) (r q : Point) : Bool :=
  p.reached.contains r && newer.all (fun o => !o.touches p.pa p.new.length || !o.atAny [r] || o.atAny [q])

/-- Do the points `pts` hold every element of ordered vector store `w` among `older`, or later writes to its bytes (15 R324)? `newer` are the writes
above, the newest last. -/
def lowerHeld (w : Nat) (pts : List Point) : List PendWrite → List PendWrite → Bool
  | _, [] => true
  | newer, o :: os =>
    (o.word ≠ w || pts.all (fun r =>
        o.atAny [r] || (List.range o.new.length).all (fun i => newer.any (fun x => x.covers (o.pa + i) && x.atAny [r]))))
      && lowerHeld w pts (o :: newer) os

/-- May write `p`, with the newer writes `newer` and the older ones `older`, move to point `q` now (15 R315, R316, R319, R324; 05 R122)? It appears
first at its first point, after every earlier write of its agent; then it moves from a point that holds it to a parent or a child; an element of an
ordered vector store follows every lower element of its word, unless later writes to that element's bytes, its own among them, are there. -/
def State.mayMove (s : State) (newer : List PendWrite) (p : PendWrite) (older : List PendWrite) (q : Point) : Bool :=
  !p.everywhere &&
    (if p.appeared then p.fits q && p.reached.any (fun r => adjacent r q && p.leaves newer r q)
     else decide (q = p.first) && !s.heldBack p && older.all (fun o => o.owner ≠ p.owner || o.appeared))
    && (p.word = 0 || lowerHeld p.word (p.gains q) (p.reach (p.gains q) :: newer) older)

/-- The write at position `n` (0 the newest) moves to point `q`, if it may. -/
def State.moveAt (s : State) (n : Nat) (q : Point) : State :=
  match s.pend[n]? with
  | some p =>
    if s.mayMove (s.pend.take n) p (s.pend.drop (n + 1)) q then
      (if p.appeared then { s with pend := s.pend.set n (p.reach [q]) } else s.appearing (s.pend.mapIdx (fun i p => (decide (i = n), p))))
    else s
  | none => s

end Sys2Proof.Machine
end

