-- ==== Sys2Proof/Machine/Mem.lean ====
section
/-! DEFINITION. The physical map and what responds in it (13 R272 to R277; 22 R414; 23 R426, R428), MMIO registers as they read, translation
(13 R283 to R288), and the reads and checks every memory instruction makes (01 R27, R28; 13 R287; 17 R339; 19 R370). -/

namespace Sys2Proof.Machine

/-- Who accesses memory and under which context: the agent, the level, asid, ptbase, and the position whose windows it sees
(13 R272, R283; 17 R336, R345). -/
structure Ctx where
  agent : AgentId
  level : Level
  asid : Word
  ptbase : Word
  die : Nat
  cluster : Nat
  core : Nat
  deriving DecidableEq, Repr

/-- The context at hart position `h` under the given agent and translation registers. -/
def ctxAt (h : Nat) (a : AgentId) (l : Level) (asid ptbase : Word) : Ctx := ⟨a, l, asid, ptbase, dieOf h, clusterOf h, coreOf h⟩

/-- The context of the current hart's own accesses. -/
def State.ctx (s : State) : Ctx := ctxAt s.cur (.hart s.cur) s.hart.level s.hart.asid s.hart.ptbase

/-- Kinds of access (13 R284); an AMO counts as a store. -/
inductive Kind | fetch | load | store
  deriving DecidableEq, Repr

/-- The page-fault code of a kind (13 R287). -/
def Kind.pageFault : Kind → Nat | .fetch => 28 | .load => 29 | .store => 30

/-- The access-fault code of a kind (01 R27). -/
def Kind.accessFault : Kind → Nat | .fetch => 1 | .load => 5 | .store => 7

/-- The alignment code of a kind (01 R28). -/
def Kind.misaligned : Kind → Nat | .fetch => 0 | .load => 4 | .store => 6

/-! ### The map -/

/-- The alias of a die (13 R276). -/
def aliasBase (d : Nat) : Nat := 0x0E0000000000 + d * 0x100000000

/-- Where a die's MMIO lies for every die (13 R277). -/
def mmioBase (d : Nat) : Nat := 0x0F1000000000 + d * 0x100000000

/-- Where byte `o` of a cluster's Square lies (13 R276). -/
def squareAt (cluster o : Nat) : Nat := aliasBase (cluster / 24) + 0x10000000 + cluster % 24 * 0x200000 + o

/-- Where byte `o` of a core's TCM lies (13 R276). -/
def tcmAt (cluster core o : Nat) : Nat := aliasBase (cluster / 24) + 0x20000000 + (8 * (cluster % 24) + core % 8) * 0x40000 + o

/-- Does the address lie in the window area (13 R273)? -/
def inWindowArea (va : Nat) : Bool := 0x7FF000000000 ≤ va && va < 0x800000000000

/-- The location a window address names for the context, none where it is out of range (13 R272, R273, R276). -/
def windowPa (c : Ctx) (va : Nat) : Option Nat :=
  if 0x7FFF00000000 ≤ va then (if va < 0x7FFF00040000 then some (tcmAt c.cluster c.core (va - 0x7FFF00000000)) else none)
  else if 0x7FFE00000000 ≤ va then (if va < 0x7FFE00200000 then some (squareAt c.cluster (va - 0x7FFE00000000)) else none)
  else if va < 0x7FF004000000 then some (aliasBase c.die + (va - 0x7FF000000000))
  else none

/-- Is a TCM or Square span address out of range (13 R274)? -/
def scratchOut (va : Nat) : Bool := (0x7FFE00200000 ≤ va && va < 0x7FFF00000000) || (0x7FFF00040000 ≤ va && va < 0x800000000000)

/-- The own-die MMIO window names the die's MMIO (13 R277): the one address of a location, as die `d` sees it. -/
def canonAt (d pa : Nat) : Nat := if 0x0F0000000000 ≤ pa ∧ pa < 0x0F0100000000 then mmioBase d + (pa - 0x0F0000000000) else pa

/-- The one address of a location for the context. -/
def canonPa (c : Ctx) (pa : Nat) : Nat := canonAt c.die pa

/-- The tier field T of the region of 13 R275 that holds an address; none in a gap. -/
def regionTier (pa : Nat) : Option Nat :=
  if pa < Config.hbmBytes then some 0
  else if 0x040000000000 ≤ pa ∧ pa < 0x040000000000 + Config.tier2Bytes then some 1
  else if 0x080000000000 ≤ pa ∧ pa < 0x0E0000000000 then some 2
  else if 0x0E0000000000 ≤ pa ∧ pa < 0x100000000000 then some 3
  else if 0x100000000000 ≤ pa ∧ pa < 0x10000000000000 then some 2
  else none

/-- Is an offset of a die's alias one of Arcade, Square or TCM (13 R276)? -/
def aliasOk (o : Nat) : Bool :=
  o < 0x04000000 || (0x10000000 ≤ o && o < 0x10000000 + 24 * 0x200000) || (0x20000000 ≤ o && o < 0x20000000 + 192 * 0x40000)

/-- Has a host port trained (23 R418)? The ports stand on I-die 0 (22 R414). -/
def State.portUp (s : State) (p : Nat) : Bool := s.admitted 8 && Tab.get 0 s.keys.trained p ≠ 0

/-- Bytes of Type-3 memory that the decoders below decoder `i` map (23 R426). -/
def State.expansionBelow (s : State) (i : Nat) : Nat :=
  ((List.range i).map (fun j =>
    if bitSet (s.decoder j 0) 63 && bits (s.decoder j 0) 60 2 = 0 then bits (s.decoder j 1) 0 22 * 2 ^ 30 else 0)).sum

/-- Does an address of the CXL range respond (23 R426)? Type-3 memory, of at most 2,048 GB (00 R1), fills the decoders in their order. -/
def State.cxlResponds (s : State) (pa : Nat) : Bool :=
  match s.decoderOf pa with
  | some i =>
    let port := bits (s.decoder i 0) 56 1
    s.portUp port && (Config.portCxl port == decide (bits (s.decoder i 0) 60 2 ≠ 2))
      && (bits (s.decoder i 0) 60 2 ≠ 0 || s.expansionBelow i + (pa - bits (s.decoder i 0) 30 22 * 2 ^ 30) < Config.cxlBytes)
  | none => false

/-- Does an address of the pod windows respond (23 R428)? -/
def State.podResponds (s : State) (pa : Nat) : Bool :=
  let p := (pa - 0x100000000000) / 2 ^ 40
  bitSet s.regs.podctl 63 && p < 1024 && (pa - 0x100000000000) % 2 ^ 40 < Config.hbmBytes && p ≠ bits s.regs.podctl 0 10
    && s.keys.podOf.any (fun e => e.2 = p + 1) && s.admitted 9

/-- Does memory respond at the address (01 R27; 13 R275, R276; 22 R414)? -/
def State.responds (s : State) (pa : Nat) : Bool :=
  if pa < Config.hbmBytes then s.admitted (pa / 2 ^ 14 % 16 / 2)
  else if 0x040000000000 ≤ pa ∧ pa < 0x040000000000 + Config.tier2Bytes then s.admitted (8 + (pa - 0x040000000000) / 4096 % 4)
  else if inCxlRange pa then s.cxlResponds pa
  else if 0x0E0000000000 ≤ pa ∧ pa < 0x0E0800000000 then
    s.admitted ((pa - 0x0E0000000000) / 2 ^ 32) && aliasOk (pa % 2 ^ 32)
  else if 0x100000000000 ≤ pa ∧ pa < 0x10000000000000 then s.podResponds pa
  else false

/-- The die and offset of an MMIO address (13 R277). -/
def mmioOf (pa : Nat) : Option (Nat × Nat) :=
  if 0x0F1000000000 ≤ pa ∧ pa < 0x0F1C00000000 then some ((pa - 0x0F1000000000) / 2 ^ 32, (pa - 0x0F1000000000) % 2 ^ 32) else none

/-! ### MMIO registers as they read -/

/-- hirq of a slot as it reads (19 R367): err is the log's, the other bits are held. -/
def State.hirq (s : State) (h : Nat) : Word :=
  let d := s.dieAt (dieOf h)
  withBits (Tab.get 0 d.hirq (h % 512)) 4 1 (bit (d.head ≠ d.tail))

/-- elogctl (20 R397). -/
def Die.elogctl (d : Die) : Word := word (d.head + d.tail * 2 ^ 16 + d.lost * 2 ^ 32)

/-- A dword of a log record (20 R398). -/
def LogRecord.dword (r : LogRecord) (i : Nat) : Word :=
  match i with
  | 0 => word (r.kind % 256 + bit r.lasting * 256 + r.site % 2 ^ 48 * 2 ^ 16)
  | 1 => r.addr
  | 2 => r.cycle
  | _ => word (r.asid.toNat % 2 ^ 16 + r.hartid % 2 ^ 12 * 2 ^ 16 + r.info % 2 ^ 32 * 2 ^ 32)

/-- An empty log record. -/
def LogRecord.none : LogRecord := ⟨0, false, 0, 0, 0, 0, 0, 0⟩

/-- corerel (20 R394). -/
def Core.corerel (c : Core) : Word :=
  word (c.slane % 16 + bit c.spareUsed * 2 ^ 7 + c.laneRetired.toNat * 2 ^ 8 + bit c.checkRetired * 2 ^ 16)

/-- The number of link `k` of die `d` (log entry 43): that of its end on the die of lower index. -/
def linkId (d k : Nat) : Nat :=
  match Config.linkEnd d k with
  | some (e, m) => if d < e then 8 * d + k else 8 * e + m
  | none => 8 * d + k

/-- The die at the far end of link `k` of die `d`; the die itself where there is no such link. -/
def linkPeer (d k : Nat) : Nat := match Config.linkEnd d k with | some (e, _) => e | none => d

/-- Link `k` of die `d`. -/
def State.link (s : State) (d k : Nat) : Link := Tab.get Link.down s.links (linkId d k)

/-- The direction in which die `d` transmits to die `e` (22 R410). -/
def Link.way (l : Link) (d e : Nat) : LinkWay := if d < e then l.lo else l.hi

/-- The transmit key-index bit of a direction (22 R411): n mod 2, and before the first flit under the new key that of the old one. -/
def LinkWay.txBit (w : LinkWay) : Bool := (if w.old = .kept then w.n + 1 else w.n) % 2 = 1

/-- linkstat of link `k` of die `d` (22 R417): zero while the link carries no data. -/
def State.linkstat (s : State) (d k : Nat) : Word :=
  let l := s.link d k
  if l.up then
    word (linkPeer d k % 16 + bit l.half * 2 ^ 4 + bit (l.way d (linkPeer d k)).txBit * 2 ^ 5 + l.rolls.toNat * 2 ^ 8)
  else 0

/-- What an MMIO register of an admitted die reads; none where no register responds (13 R277; 20, 22, 23). msigen and diectl have no RO or RW
field and read 0 (00 R6). DESIGN CHOICE (log entry 45): a doorbell, for which 23 R423 and R424 give neither an access code nor a read value, reads
0. -/
def State.mmioRead (s : State) (d off : Nat) : Option Word :=
  let die := s.dieAt d
  if !s.admitted d then none
  else if off = 0x01000000 ∧ d < 8 then some die.hbmctl
  else if 0x02000000 ≤ off ∧ off < 0x02000C00 ∧ d < 8 then some (s.hirq (512 * d + (off - 0x02000000) / 8))
  else if 0x03000000 ≤ off ∧ off < 0x03000040 ∧ d < 8 then some (Tab.get 0 die.cycleRecord ((off - 0x03000000) / 8))
  else if 0x04000000 ≤ off ∧ off < 0x04000600 ∧ d < 8 then some (s.coreAt (256 * d + (off - 0x04000000) / 8)).corerel
  else if off = 0x05000000 then some die.elogctl
  else if 0x05000100 ≤ off ∧ off < 0x05000900 then
    some ((Tab.get LogRecord.none die.log ((off - 0x05000100) / 32)).dword ((off - 0x05000100) / 8 % 4))
  else if off = 0x07000000 then some 0
  else if 0x07000100 ≤ off ∧ off < 0x07000140 then some (s.linkstat d ((off - 0x07000100) / 8))
  else if d ≠ 0 then none
  else if off = 0x06000000 then some s.regs.poisonctl
  else if off = 0x08000000 then some s.regs.asidtab
  else if off = 0x08000008 then some s.regs.wqtab
  else if off = 0x08000010 then some s.regs.lvecs
  else if off = 0x08000018 then some s.regs.lvecm
  else if off = 0x08000020 then some s.regs.msictl
  else if off = 0x08000028 then some 0
  else if 0x09000000 ≤ off ∧ off < 0x09010000 then some 0
  else if 0x0A000000 ≤ off ∧ off < 0x0A000080 then some (Tab.get 0 s.regs.decoders ((off - 0x0A000000) / 8))
  else if off = 0x0B000000 then some s.regs.podctl
  else none

/-! ### Translation -/

/-- Bits of a table entry (13 R285). -/
def teV (e : Word) : Bool := bitSet e 0
def teR (e : Word) : Bool := bitSet e 2
def teW (e : Word) : Bool := bitSet e 3
def teX (e : Word) : Bool := bitSet e 4
def teU (e : Word) : Bool := bitSet e 5
def teA (e : Word) : Bool := bitSet e 6
def teD (e : Word) : Bool := bitSet e 7
def teG (e : Word) : Bool := bitSet e 8
def teC (e : Word) : Bool := bitSet e 9
def teH (e : Word) : Bool := bitSet e 57
def teT (e : Word) : Nat := bits e 58 2

/-- PPN x 4096 (13 R285). -/
def tePage (e : Word) : Nat := bits e 12 40 * 4096

/-- A reserved bit of the entry is set (13 R285). -/
def teReserved (e : Word) : Bool := bits e 61 3 ≠ 0 || bits e 52 5 ≠ 0 || bits e 10 2 ≠ 0 || bitSet e 1

/-- Is the entry a leaf that a translation may use (13 R284)? -/
def teLeaf (e : Word) : Bool := teV e && (teR e || teW e || teX e)

/-- What an invalidation tells apart among cached entries (14 R311): leaf entries of one ASID, global ones, and non-leaf ones. -/
inductive CacheKind | leaf | global | pointer
  deriving DecidableEq, Repr

/-- Does an invalidation cover a cached entry of `asid` whose range of 2^(12 + k) bytes holds `va` (14 R311)? -/
def TlbInv.hits (r : TlbInv) (kind : CacheKind) (asid : Word) (va k : Nat) : Bool :=
  let own : Bool := match r.asid with | none => true | some a => decide (a = asid)
  match r.page, kind with
  | none, .pointer => true
  | none, .leaf => own
  | none, .global => r.globals
  | some p, .leaf => decide (p / 2 ^ k = va / 2 ^ (12 + k)) && own
  | some p, _ => decide (p / 2 ^ k = va / 2 ^ (12 + k))

/-- The step of the last invalidation of a die that covers such an entry. -/
def Die.lastInv (d : Die) (kind : CacheKind) (asid : Word) (va k : Nat) : Nat :=
  (d.tlb.filter (fun r => r.hits kind asid va k)).foldl (fun t r => max t r.time) 0

/-- Has the line of a location moved to the new page, and does the old home agent still know (13 R291; 22 R415)? -/
def Moving.moved (m : Moving) (pa : Nat) : Bool :=
  m.old ≤ pa && pa < m.old + m.bytes && !m.lost.any (fun l => pa < Config.hbmBytes && hbmStack pa / 2 = l.1 && pa < m.old + l.2)

/-- Where an access to a location of a migrating page is performed: a line already moved at its new location, while the old home agent, which forwards
it, responds (13 R291; 22 R414). -/
def State.forward (s : State) (pa : Nat) : Nat :=
  match s.moving.find? (fun m => m.moved pa) with
  | some m => if s.responds pa then m.new + (pa - m.old) else pa
  | none => pa

/-- Does a byte of the access belong to a bound stream's strip buffer (17 R339)? -/
def State.inStrip (s : State) (pa n : Nat) : Bool :=
  if 0x0E0000000000 ≤ pa ∧ pa < 0x0E0800000000 then
    let o := pa % 2 ^ 32
    if 0x10000000 ≤ o ∧ o < 0x10000000 + 24 * 0x200000 then
      (s.clusterAt (24 * ((pa - 0x0E0000000000) / 2 ^ 32) + (o - 0x10000000) / 0x200000)).bufs.any
        (fun b => (o - 0x10000000) % 0x200000 < b.ofs + b.size && b.ofs < (o - 0x10000000) % 0x200000 + n)
    else false
  else false

/-- Does an access to the address by way of a port fail its integrity check in this turn, on UALink its retry too (23 R420, R428)? It is dropped, and
does not respond. A host port has five streams. -/
def State.portFails (s : State) (pa : Nat) : Bool :=
  match s.hart.hwError with
  | some (.portFailure a stream _) => a / 64 = pa / 64 && ((inCxlRange pa && stream < 5) || decide (0x100000000000 ≤ pa))
  | _ => false

/-- Does an address of memory respond to an agent other than the stream controller (13 R275; 17 R339; 23 R420, R428)? -/
def State.reaches (s : State) (pa n : Nat) : Bool := s.responds pa && !s.inStrip pa n && !s.portFails pa

/-- A poll of a ring's slot at `pa` by agent `a` that fails at a port is noted (23 R421). -/
def State.notePoll (s : State) (a : AgentId) (pa : Nat) : State :=
  if s.portMet.isNone && s.portFails (s.forward pa) then { s with portMet := some a } else s

/-- Is the address in the boot ROM of an admitted die, every byte of which responds (13 R277)? -/
def State.romAt (s : State) (pa : Nat) : Bool :=
  match mmioOf pa with
  | some (d, off) => off < 0x100000 && s.admitted d
  | none => false

/-- A physical load of a table entry by the translation unit of die `d`, as the entry stood at step `upto` (13 R284); none where nothing responds. -/
def State.tableEntry (s : State) (d upto : Nat) (pa : Nat) : Option Word :=
  let pa := s.forward (canonAt d pa)
  if s.romAt pa then some (word (leNat (s.latestBytes pa 8)))
  else if s.reaches pa 8 then some (word (leNat ((List.range 8).map (fun i => s.tableByte d upto (pa + i)))))
  else none

/-- The entry that covers 2^(12 + k) bytes as a walk may use it: as it is, or as the unit has cached it since the last invalidation that covers what
it then was (13 R288; 14 R311); the device chooses. -/
def State.cachedEntry (s : State) (c : Ctx) (va k pa : Nat) : Option Word :=
  let old (kind : CacheKind) : Option Word :=
    s.tableEntry c.die ((s.dieAt c.die).lastInv kind c.asid va k + (Config.freeWord (s.tick + k)).toNat) pa
  match s.tableEntry c.die s.tick pa, old .global, old .leaf, old .pointer with
  | some e, some g, some l, some p =>
    if g ≠ e && teLeaf g && teG g && Config.choice (s.tick + k) then some g
    else if l ≠ e && teLeaf l && !teG l && Config.choice (s.tick + k + 1) then some l
    else if p ≠ e && !teLeaf p && Config.choice (s.tick + k + 2) then some p
    else some e
  | _, _, _, _ => none

/-- The entry a walk uses `n` levels above level 4; an entry of a 64 KiB page maps sixteen pages (13 R285). -/
def State.walkEntry (s : State) (c : Ctx) (va n pa : Nat) : Option Word :=
  match s.cachedEntry c va (9 * n) pa with
  | some e => if n = 0 && teC e then s.cachedEntry c va 4 pa else some e
  | none => none

/-- Leaf of 13 R286: the physical address, or none for a page fault. -/
def leafPa (e : Word) (lvl : Nat) (va : Nat) (k : Kind) (l : Level) : Option Nat :=
  let size := if lvl = 2 then 2 ^ 30 else if lvl = 3 then 2 ^ 21 else if teC e then 2 ^ 16 else 2 ^ 12
  let pa := tePage e + va % size
  if lvl ≤ 1 || (lvl < 4 && teC e) || tePage e % size ≠ 0 then none
  else if teW e && !teR e then none
  else if (match regionTier pa with | some t => !decide (t = teT e) | none => false) then none
  else if !teA e || (decide (k = .store) && !teD e) then none
  else if (match k with | .fetch => !teX e | .load => !teR e | .store => !teW e) then none
  else if (decide (l = .u) && !teU e) || (decide (k = .fetch) && decide (l = .s) && teU e) then none
  else some pa

/-- A translation: the physical address and whether the page is host-shared (13 R286, R289). -/
structure Xlat where
  pa : Nat
  h : Bool
  deriving DecidableEq, Repr

/-- The walk of 13 R284 from table `a` at level 5 − n to its leaf and that leaf's level. Of the sixteen entries of a 64 KiB page the device may use
any one (13 R286). -/
def State.walk (s : State) (c : Ctx) (va : Nat) : Nat → Nat → Option (Word × Nat)
  | 0, _ => none
  | n + 1, a =>
    let lvl := 4 - n
    let idx := va / 2 ^ (12 + 9 * n) % 512
    match s.walkEntry c va n (a + 8 * idx) with
    | none => none
    | some e =>
      if !teV e || teReserved e then none
      else if !teR e && !teW e && !teX e then
        if lvl = 4 || teC e || teU e || teA e || teD e then none else s.walk c va n (tePage e)
      else if lvl = 4 && teC e then
        match s.walkEntry c va 0 (a + 8 * (idx / 16 * 16 + (Config.freeWord s.tick).toNat % 16)) with
        | none => none
        | some e' => if teLeaf e' && !teReserved e' then some (e', lvl) else none
      else some (e, lvl)

/-- The walk of a virtual address from the root of a context. -/
def State.walkRoot (s : State) (c : Ctx) (va : Nat) : Option (Word × Nat) := s.walk c va 4 (bits c.ptbase 12 40 * 4096)

/-- The entry that covers 2^(12 + k) bytes in a table of a context used last at step `t`, as the unit may have cached it by then, global ones after
the last invalidation that covers them (13 R288; 14 R311); none where that one came later. -/
def State.keptEntry (s : State) (c : Ctx) (t va k pa : Nat) : Option Word :=
  let since := (s.dieAt c.die).lastInv .global c.asid va k
  if t < since then none else s.tableEntry c.die (min t (since + (Config.freeWord (s.tick + k)).toNat)) pa

/-- The walk of 13 R284 through what the unit may have kept of a context used last at step `t`; an entry of a 64 KiB page maps sixteen pages (13
R285). -/
def State.keptWalk (s : State) (c : Ctx) (t va : Nat) : Nat → Nat → Option (Word × Nat)
  | 0, _ => none
  | n + 1, a =>
    let pa := a + 8 * (va / 2 ^ (12 + 9 * n) % 512)
    match s.keptEntry c t va (9 * n) pa with
    | none => none
    | some e =>
      if !teV e || teReserved e then none
      else if teLeaf e then
        (if n = 0 && teC e then s.keptEntry c t va 4 pa else some e).bind (fun e => if teLeaf e && !teReserved e then some (e, 4 - n) else none)
      else if n = 0 || teC e || teU e || teA e || teD e then none
      else s.keptWalk c t va n (tePage e)

/-- The global leaves that the die's unit may hold for the address from other contexts: a cached one matches every ASID (13 R288). They are those of
the contexts its other harts translate under now, and those kept from the contexts translated under before. -/
def State.globalLeaves (s : State) (c : Ctx) (va : Nat) : List (Word × Nat) :=
  ((((s.cur, s.hart) :: s.others).filter
      (fun p => decide (dieOf p.1 = c.die) && bitSet p.2.ptbase 63 && decide (p.2.ptbase ≠ c.ptbase))).filterMap
    (fun p => (s.walkRoot { c with asid := p.2.asid, ptbase := p.2.ptbase } va).filter (fun r => teG r.1)))
  ++ ((s.dieAt c.die).walked.filter (fun w => decide (w.ptbase ≠ c.ptbase))).filterMap
    (fun w => (s.keptWalk { c with asid := w.asid, ptbase := w.ptbase } w.time va 4 (bits w.ptbase 12 40 * 4096)).filter (fun r => teG r.1))

/-- The die's unit may from now on hold entries of the current hart's context, where the hart translates (13 R288). -/
def State.noteContext (s : State) : State :=
  let h := s.hart
  if h.level = .m ∨ bitSet h.ptbase 63 = false then s
  else
    s.modDie (dieOf s.cur) (fun d =>
      { d with walked := ⟨h.asid, h.ptbase, s.tick⟩ :: d.walked.filter (fun w => decide (w.asid ≠ h.asid ∨ w.ptbase ≠ h.ptbase)) })

/-- The leaf a translation uses: that of its own tables, or a global one cached for another ASID (13 R288), as the device chooses. -/
def State.leafFor (s : State) (c : Ctx) (va : Nat) : Option (Word × Nat) :=
  match s.globalLeaves c va with
  | [] => s.walkRoot c va
  | g :: gs =>
    if Config.choice (s.tick + 3) then some ((g :: gs).getD ((Config.freeWord (s.tick + 3)).toNat % (gs.length + 1)) g) else s.walkRoot c va

/-- The translation that a leaf gives an access (13 R286). -/
def leafXlat (r : Word × Nat) (va : Nat) (k : Kind) (l : Level) : Option Xlat := (leafPa r.1 r.2 va k l).map (fun pa => ⟨pa, teH r.1⟩)

/-- Address translation (13 R273, R283, R284): windows first, physical addresses at M or with en = 0, otherwise a walk. -/
def State.translate (s : State) (c : Ctx) (k : Kind) (va : Word) : Except Trap Xlat :=
  if inWindowArea va.toNat then
    match windowPa c va.toNat with
    | some pa => .ok ⟨pa, false⟩
    | none => .error ⟨k.accessFault, va⟩
  else if c.level = .m ∨ bitSet c.ptbase 63 = false then
    if va.toNat < 2 ^ 52 then .ok ⟨canonPa c va.toNat, false⟩ else .error ⟨k.accessFault, va⟩
  else if va.toNat < 2 ^ 48 then
    match (s.leafFor c va.toNat).bind (fun r => leafXlat r va.toNat k c.level) with
    | some x => .ok ⟨canonPa c x.pa, x.h⟩
    | none => .error ⟨k.pageFault, va⟩
  else .error ⟨k.pageFault, va⟩

/-! ### What an access reaches -/

/-- What an access reaches: memory (with H of its page), the boot ROM, or an MMIO register (13 R277). -/
inductive Target
  | mem (pa : Nat) (h : Bool)
  | rom (pa : Nat)
  | reg (die off : Nat)
  deriving DecidableEq, Repr

/-- The access checks of `n` bytes at the translated address `x` of `va` (01 R27; 13 R277; 17 R339). -/
def State.targetAt (s : State) (k : Kind) (va : Word) (x : Xlat) (n : Nat) : Except Trap Target :=
  match mmioOf x.pa with
  | some (d, off) =>
    if off < 0x100000 then (if s.admitted d then .ok (.rom x.pa) else .error ⟨k.accessFault, va⟩)
    else if (s.mmioRead d (off / 8 * 8)).isSome then .ok (.reg d off)
    else .error ⟨k.accessFault, va⟩
  | none =>
    let pa := s.forward x.pa
    if s.reaches pa n then .ok (.mem pa x.h) else .error ⟨k.accessFault, va⟩

/-- Translation and the access checks of one aligned access of `n` bytes (01 R27, R28; 13 R287; 17 R339). -/
def State.target (s : State) (c : Ctx) (k : Kind) (va : Word) (n : Nat) : Except Trap Target :=
  if va.toNat % n ≠ 0 then .error ⟨k.misaligned, va⟩
  else
    match s.translate c k va with
    | .error t => .error t
    | .ok x => s.targetAt k va x n

/-- The locations of the table entries that a walk of `va` reads, from table `a` at level 5 − n on (13 R284). -/
def State.walkReads (s : State) (c : Ctx) (va : Nat) : Nat → Nat → List Nat
  | 0, _ => []
  | n + 1, a =>
    let pa := s.forward (canonPa c (a + 8 * (va / 2 ^ (12 + 9 * n) % 512)))
    pa :: (match s.tableEntry c.die s.tick pa with
      | some e => if teV e && !teLeaf e then s.walkReads c va n (tePage e) else []
      | none => [])

/-- The locations that the translation of `va` reads: none for a window, at M or with en = 0 (13 R273, R283, R284). -/
def State.xlatReads (s : State) (c : Ctx) (va : Word) : List Nat :=
  if inWindowArea va.toNat || decide (c.level = .m) || !bitSet c.ptbase 63 || 2 ^ 48 ≤ va.toNat then []
  else s.walkReads c va.toNat 4 (bits c.ptbase 12 40 * 4096)

/-- The requests that the walk of `va` makes of the HBM channels (13 R280, R281): one for each entry it reads, unless the unit holds them. -/
def State.walkRequests (s : State) (c : Ctx) (va : Word) : State :=
  match s.xlatReads c va with
  | [] => s
  | l => if Config.choice (s.tick + 4) then l.foldl State.touch s else s

/-- The requests that a read at `va` makes of the HBM channels (13 R280, R281): those of its walk, and the one for its location. -/
def State.requests (s : State) (c : Ctx) (k : Kind) (va : Word) : State :=
  match s.translate c k va with
  | .ok x => (s.walkRequests c va).touch (s.forward x.pa)
  | .error _ => s.walkRequests c va

/-- The request of a physical read at `pa`, at its new place on a line that has moved. -/
def State.touchAt (s : State) (pa : Nat) : State := s.touch (s.forward pa)

/-- The requests of the accesses of `n` bytes at each address of a list, up to the first that faults. -/
def State.requestAll (s : State) (c : Ctx) (k : Kind) : List (Word × Nat) → State
  | [] => s
  | (va, n) :: l =>
    match s.target c k va n with
    | .ok _ => (s.requests c k va).requestAll c k l
    | .error _ => s.requests c k va

/-- A scalar load of `n` bytes at scope `sc` (04 R78; 13 R277; 14 R297; 19 R370). -/
def State.load (s : State) (c : Ctx) (sc : Scope) (va : Word) (n : Nat) : Except Trap Nat :=
  match s.target c .load va n with
  | .error t => .error t
  | .ok (.mem pa _) => if s.poisoned pa then .error ⟨33, va⟩ else .ok (leNat (s.viewBytes c.agent sc pa n))
  | .ok (.rom pa) => .ok (leNat (s.latestBytes pa n))
  | .ok (.reg d off) =>
    match s.mmioRead d (off / 8 * 8) with
    | some w => .ok (w.toNat / 2 ^ (8 * (off % 8)) % 2 ^ (8 * n))
    | none => .error ⟨5, va⟩

/-- A load of `n` bytes from memory or the boot ROM: registers are reached by scalar loads only (13 R277). -/
def State.loadMem (s : State) (c : Ctx) (sc : Scope) (va : Word) (n : Nat) : Except Trap Nat :=
  match s.target c .load va n with
  | .ok (.reg _ _) => .error ⟨5, va⟩
  | _ => s.load c sc va n

/-- What a load leaves behind: its requests to the HBM channels (13 R281), and what it read at the agent's own point (15 R317). -/
def State.observeAt (s : State) (c : Ctx) (sc : Scope) (va : Word) (n : Nat) : State :=
  match s.target c .load va n with
  | .ok (.mem pa _) => (s.observe c.agent sc pa n).requests c .load va
  | _ => s

/-- `n` dwords from `va`, read as the hart's own loads in ascending address: a descriptor, a message, an image (10 R218; 11 R252; 17 R337). -/
def State.loadDwords (s : State) (c : Ctx) (sc : Scope) (va : Word) : Nat → Except Trap (List Nat)
  | 0 => .ok []
  | n + 1 =>
    match s.load c sc va 8 with
    | .error t => .error t
    | .ok w =>
      match s.loadDwords c sc (va + 8) n with
      | .error t => .error t
      | .ok ws => .ok (w :: ws)

/-- An instruction fetch of `n` bytes at `va` by the current hart (01 R29, R33; 13 R287; 19 R370). -/
def State.fetch (s : State) (va : Word) (n : Nat) : Except Trap Nat :=
  match s.target s.ctx .fetch va n with
  | .error t => .error t
  | .ok (.mem pa _) => if s.poisoned pa then .error ⟨33, va⟩ else .ok (leNat ((List.range n).map (fun i => s.fetchByte s.cur (pa + i))))
  | .ok (.rom pa) => .ok (leNat (s.latestBytes pa n))
  | .ok (.reg _ _) => .error ⟨1, va⟩

/-- A write of the low `n` bytes of `v` at a memory target, performed at scope `sc` (15 R316). -/
def State.put (s : State) (c : Ctx) (sc : Scope) (pa n : Nat) (v : Nat) : State :=
  s.write c.agent (pointAt c.agent (s.scoped sc)) false 0 pa (leBytes n v)

/-- Physical reads of the device's own agents at scope `sc`: `n` bytes as a number; none where nothing responds (13 R277; 17 R339). -/
def State.physRead (s : State) (a : AgentId) (sc : Scope) (pa n : Nat) : Option Nat :=
  let pa := s.forward pa
  if s.romAt pa then some (leNat (s.latestBytes pa n))
  else if s.reaches pa n then some (leNat (s.viewBytes a sc pa n))
  else none

end Sys2Proof.Machine
end

