-- ==== Sys2Proof/Machine/Report.lean ====
section
/-! DEFINITION. What the device reports: hirq bits (19 R367), MSI-X messages (23 R425), the error log (20 R397, R398), errors of sites
(20 R387, R388), diestate (22 R412); and atomic writes of the device's own agents. -/

namespace Sys2Proof.Machine

/-! ### hirq -/

/-- Set or clear bit `i` of hirq of slot `h` (19 R367). -/
def State.setHirqBit (s : State) (h i : Nat) (b : Bool) : State :=
  s.modDie (dieOf h) (fun d => { d with hirq := Tab.modify 0 d.hirq (h % 512) (fun w => withBits w i 1 (bit b)) })

/-- A hart is placed in the slot: pre and die are cleared (19 R367). -/
def State.clearNotices (s : State) (h : Nat) : State := (s.setHirqBit h 0 false).setHirqBit h 2 false

/-- hirq.die is set in every hart of every admitted die (22 R412). -/
def State.noticeDie (s : State) : State :=
  ((List.range 8).filter s.admitted).foldl (fun s d => (hartsOfDie d).foldl (fun s h => s.setHirqBit h 2 true) s) s

/-! ### MSI-X -/

/-- A vector's MSI-X table entry after reset (23 R418): masked, as the PCIe family resets it (log entry 7). -/
def MsixEntry.reset : MsixEntry := ⟨0, 0, true, false⟩

/-- The host port that messages go out on (23 R425): the named one, or the other where that has not trained. -/
def State.msixPort (s : State) : Nat := if s.portUp (bits s.regs.msictl 24 1) then bits s.regs.msictl 24 1 else 1 - bits s.regs.msictl 24 1

/-- Raise an MSI-X vector (23 R425): the message goes out on the named port, or on the other where that has not trained; a masked vector
sets its pending bit. -/
def State.raiseVector (s : State) (vec : Nat) : State :=
  let e := Tab.get MsixEntry.reset s.msix vec
  if e.masked || !s.portUp s.msixPort then { s with msix := Tab.put MsixEntry.reset s.msix vec { e with pending := true } }
  else { s with hostOut := s.hostOut ++ [.msix s.msixPort vec e.address e.data] }

/-- A pending vector that is no longer masked sends its one message (23 R425). -/
def State.sendPending (s : State) (vec : Nat) : State :=
  let e := Tab.get MsixEntry.reset s.msix vec
  if e.pending && !e.masked && s.portUp s.msixPort then
    { s with
      msix := Tab.put MsixEntry.reset s.msix vec { e with pending := false }
      hostOut := s.hostOut ++ [.msix s.msixPort vec e.address e.data] }
  else s

/-! ### The error log -/

/-- Write a record to the log of die `d`, or count it lost where the log is full (20 R397); tell the host where msictl asks (23 R425). -/
def State.logRecord (s : State) (d : Nat) (r : LogRecord) : State :=
  let die := s.dieAt d
  if die.head = (die.tail + 1) % 64 then s.modDie d (fun x => { x with lost := min 255 (x.lost + 1) })
  else
    let s := s.modDie d (fun x => { x with log := Tab.put LogRecord.none x.log x.tail r, tail := (x.tail + 1) % 64 })
    if bitSet s.regs.msictl 15 then s.raiseVector (bits s.regs.msictl 8 6) else s

/-- A record of the given kind, stamped with the die's cycle count (20 R398). -/
def State.record (s : State) (d kind : Nat) (lasting : Bool) (site : Nat) (addr : Word) (asid : Word) (hartid info : Nat) : State :=
  s.logRecord d ⟨kind, lasting, site, addr, word s.clk, asid, hartid, info⟩

/-- Classes of sites (20 R387), for the keys of Die.sites: class x 2^48 + the site number of 20 R398. -/
inductive SiteClass | lane | macro_ | bank | channel | link | port
  deriving DecidableEq, Repr

/-- The key of a site. -/
def siteKey (c : SiteClass) (n : Nat) : Nat :=
  (match c with | .lane => 0 | .macro_ => 1 | .bank => 2 | .channel => 3 | .link => 4 | .port => 5) * 2 ^ 48 + n

/-- Does an error now make the site lasting: do its three preceding errors all lie at or after t − 2^20 + 1 (20 R388)? -/
def State.becomesLasting (s : State) (d key : Nat) : Bool :=
  let past := Tab.get [] (s.dieAt d).sites key
  past.length = 3 && past.all (fun t => s.clk + 1 ≤ t + 2 ^ 20) && !(s.dieAt d).lasting.contains key

/-- Has the site been retired: a lane, the checking lane, a macro (20 R394, R396)? One that was replaced stands at its number with no history. -/
def State.siteRetired (s : State) (d key : Nat) : Bool :=
  let n := key % 2 ^ 48
  if key / 2 ^ 48 = 0 then
    let k := s.coreAt (256 * d + n / 16)
    if n % 16 = 8 then k.checkRetired else k.laneRetired.toNat.testBit (n % 16)
  else if key / 2 ^ 48 = 1 then (s.clusterAt (24 * d + n / 64)).macroRetired.contains (n % 64)
  else false

/-- Count an error of a site (20 R388): a site that was retired counts no more. -/
def State.siteError (s : State) (d key : Nat) : State :=
  if s.siteRetired d key then s
  else
    s.modDie d (fun x =>
      { x with
        sites := Tab.put [] x.sites key ((s.clk :: Tab.get [] x.sites key).take 3)
        lasting := if s.becomesLasting d key then key :: x.lasting else x.lasting })

/-- A corrected error of a site: logged with kind 4 when it makes the site lasting (20 R388, R398). -/
def State.correctedError (s : State) (d key : Nat) : State :=
  if s.becomesLasting d key then (s.siteError d key).record d 4 true (key % 2 ^ 48) 0 0 0 0 else s.siteError d key

/-- The die and the site that hold a sector (13 R276, R278, R280, R282; 20 R387, R398): the pseudo-channel or channel, the SRAM bank, or the port.
The numbers within the die, and the one bank of a die's Arcade, are log entry 46. -/
def siteOf (pa : Nat) : Nat × SiteClass × Nat :=
  if pa < Config.hbmBytes then (hbmStack pa / 2, .channel, 64 * (hbmStack pa % 2) + 2 * hbmChannel pa + hbmPseudo pa)
  else if 0x040000000000 ≤ pa ∧ pa < 0x080000000000 then (8 + (pa - 0x040000000000) / 4096 % 4, .channel, 0)
  else if 0x0E0000000000 ≤ pa ∧ pa < 0x0E0800000000 then
    let o := pa % 2 ^ 32
    ((pa - 0x0E0000000000) / 2 ^ 32, .bank,
      if 0x20000000 ≤ o then 8 * ((o - 0x20000000) / 0x40000) + o / 8 % 8
      else if 0x10000000 ≤ o then 2 ^ 12 + 32 * ((o - 0x10000000) / 0x200000) + o / 8 % 32
      else 2 ^ 13)
  else if 0x100000000000 ≤ pa then (9, .port, 16)
  else (8, .port, 0)

/-- A sector, or dword `dword` of one of SRAM, is corrected on a read (13 R278, R292; 20 R387): counted for its site on the die that holds it; a port
counts no corrections. -/
def State.correctedSector (s : State) (sector dword : Nat) : State :=
  match siteOf (32 * sector + 8 * (dword % 4)) with
  | (_, .port, _) => s
  | (d, c, n) => s.correctedError d (siteKey c n)

/-- A sector that cannot be corrected, of SRAM for its dword `dword`, becomes poison and is logged for its site on the die that holds it (13 R293;
20 R398 kind 5); CXL memory's at the port's die (20 R400). -/
def State.uncorrectable (s : State) (sector dword : Nat) : State :=
  let (d, _, n) := siteOf (32 * sector + 8 * (dword % 4))
  let site := if inCxlRange (32 * sector) then (match s.decoderOf (32 * sector) with | some i => bits (s.decoder i 0) 56 1 | none => 0) else n
  (s.poisonAt (32 * sector) 1).record d 5 false site (word (32 * sector)) 0 0 0

/-! ### Poison at the ports (20 R399, R400) -/

/-- The UALink port by which package `p` is reached (23 R428), the lowest of several; port 0 where none has its keys. -/
def State.podPort (s : State) (p : Nat) : Nat := ((s.keys.podOf.find? (fun e => e.2 = p + 1)).map (·.1)).getD 0

/-- The port that writes to an address leave by: its die, its site number (23 R421) and whether it forwards poison; none inside the package. -/
def State.portAt (s : State) (pa : Nat) : Option (Nat × Nat × Bool) :=
  if 0x080000000000 ≤ pa ∧ pa < 0x0E0000000000 then
    match s.decoderOf pa with
    | some i => let p := bits (s.decoder i 0) 56 1; some (8, p, bitSet s.regs.poisonctl p)
    | none => none
  else if 0x100000000000 ≤ pa ∧ pa < 0x10000000000000 then some (9, 16 + s.podPort ((pa - 0x100000000000) / 2 ^ 40), false)
  else none

/-- Is poisoned data written to the address stopped at a port (20 R400)? -/
def State.blocksPoison (s : State) (pa : Nat) : Bool := match s.portAt pa with | some (_, _, fwd) => !fwd | none => false

/-- The record of poisoned data that meets a port: kind 6 where it is blocked, kind 5 where it is forwarded, with the ASID and the hart of the access
and the xid of a transfer (20 R398, R400). -/
def State.logPort (s : State) (pa : Nat) (asid : Word) (hartid xid : Nat) : State :=
  match s.portAt pa with
  | some (d, site, fwd) => s.record d (if fwd then 5 else 6) false site (word pa) asid hartid xid
  | none => s

/-! ### diestate -/

/-- A die's state field changes (22 R412): epoch counts it, every hart of every admitted die is told, and the host where msictl asks. -/
def State.setDieState (s : State) (d st : Nat) : State :=
  if (s.dieAt d).st = st then s
  else
    let s := ({ s.modDie d (fun x => { x with st := st }) with epoch := s.epoch + 1 }).noticeDie
    if bitSet s.regs.msictl 23 then s.raiseVector (bits s.regs.msictl 16 6) else s

/-- diestate (22 R412). -/
def State.diestate (s : State) : Word :=
  word (s.epoch.toNat * 2 ^ 48 + ((List.range 12).map (fun i => (s.dieAt i).st % 16 * 2 ^ (4 * i))).sum)

/-! ### Writes of the device's own agents -/

/-- Does the home agent of the address perform the operation (14 R296; 23 R427)? `host` says that a host's completer does. -/
def State.homePerforms (s : State) (pa : Nat) (host : Bool) : Bool := !inCxlRange pa || s.decoderKind pa ≠ 2 || host

/-- An atomic update of `n` bytes at `pa` by agent `a` (14 R296; 15 R316): the write is at every point at once. -/
def State.atomicPut (s : State) (a : AgentId) (pa n v : Nat) : State := s.amoPut a pa (leBytes n v)

/-- A release write at scope `sc` by agent `a` (15 R320): everything a has written or observed is carried first; the write itself appears
when the device lets it. -/
def State.publish (s : State) (a : AgentId) (sc : Scope) (pa n v : Nat) : State :=
  (s.release a sc).write a (pointAt a (s.scoped sc)) false 0 pa (leBytes n v)

/-- `n` bytes from `pa` read zero from now on, for every agent (17 R339; 22 R415): nothing is listed there, and Config.unwritten is zero. -/
def State.zeroRange (s : State) (pa n : Nat) : State :=
  { s with
    mem := s.mem.filter (fun c => !(pa ≤ c.1 && c.1 < pa + n))
    poison := s.poison.filter (fun k => !(pa ≤ 32 * k && 32 * k < pa + n))
    pend := s.pend.filter (fun p => !(pa ≤ p.pa && p.pa + p.new.length ≤ pa + n)) }

end Sys2Proof.Machine
end

