-- ==== Sys2Proof/Machine/Crew.lean ====
section
/-! DEFINITION. What a hart holds and gives back: lanes and grants (11 R245 to R248; 20 R394), channels (09 R191), streams (17 R339), the
vector state (05 R108, R112), user-level entries (17 R353); completion words and the count of a crew (11 R241, R260; 19 R380); a die leaving
service (22 R415). -/

namespace Sys2Proof.Machine

/-! ### Lanes and limits -/

/-- The lanecap field of a slot (11 R245). -/
def Core.field (c : Core) (slot : Nat) : BitVec 8 := if slot = 0 then fld c.lanecap 0 8 else fld c.lanecap 8 8

/-- OwnedLanes() evaluated at a grant point of slot `h` (11 R246; 20 R394): its field's lanes that the other slot does not hold and that
are not retired. -/
def State.lanesFor (s : State) (h : Nat) : BitVec 8 :=
  (s.coreAt (coreOf h)).field (slotOf h) &&& ~~~(s.hartAt (if slotOf h = 0 then h + 1 else h - 1)).held
    &&& ~~~(s.coreAt (coreOf h)).laneRetired

/-- How many lanes a set holds. -/
def laneCount (l : BitVec 8) : Nat := (List.range 8).countP (fun i => l.toNat.testBit i)

/-- pwrcap as a grant point of the core sees it (11 R247): erratum A1-E03 lets it use the p and q fields from before a control-register
write for the 2 clk after that write (24 R439). -/
def State.pwrSeen (s : State) (core : Nat) : Word :=
  let c := s.coreAt core
  match c.pwrAt with
  | some t => if s.clk ≤ t + 2 then withBits (withBits c.pwrcap 0 8 (bits c.pwrOld 0 8)) 13 14 (bits c.pwrOld 13 14) else c.pwrcap
  | none => c.pwrcap

/-- min(p of the slot, gl) of a pwrcap value: LaneLimit() (11 R247). -/
def laneLimitOf (w : Word) (slot : Nat) : Nat := min (bits w (4 * slot) 4) (bits w 27 4)

/-- min(q of the slot, gq) of a pwrcap value: RowLimit() (11 R247). -/
def rowLimitOf (w : Word) (slot : Nat) : Nat := min (bits w (13 + 7 * slot) 7) (bits w 31 7)

/-! ### Vector state -/

/-- ClearVectorState() (05 R108): registers and masks zero, tags i8, poison clear. -/
def Hart.clearVector (h : Hart) : Hart := { h with v := [], vtag := [], vpois := [], m := [] }

/-- vgrant from its fields (05 R101). -/
def vgrantOf (g l p maxvl gmax : Nat) : Word := word (g % 16 + l % 16 * 2 ^ 4 + p % 16 * 2 ^ 8 + maxvl % 2 ^ 14 * 2 ^ 18 + gmax % 2 ^ 14 * 2 ^ 32)

/-- vtype with ill = 1 and the rest zero (05 R104). -/
def vtypeIll : Word := 0x8000000000000000

/-- The vector state of 05 R112, with held lanes `held` and lane limit `p`. -/
def Hart.resetVector (h : Hart) (held : BitVec 8) (p : Nat) : Hart :=
  { h.clearVector with
    vtype := vtypeIll
    vl := 0
    rows := 1
    vstart := 0
    held := held
    vgrant := vgrantOf (min (laneCount held) p) (laneCount held) p 0 0
    loweredGl := none
    throttledV := false }

/-! ### Channels, streams, entries -/

/-- ReleaseChannels(hart) (09 R191). -/
def State.releaseChannels (s : State) (h : Nat) : State :=
  (s.modCluster (clusterOf h) (fun c => { c with chan := Tab.put 0 c.chan (chanKey h) 0 })).modHart h
    (fun x => { x with mgrant := withBits x.mgrant 0 7 0, loweredGq := none, throttledM := false })

/-- Stream `q` of slot `h`. -/
def State.stream (s : State) (h q : Nat) : Stream := Tab.get Stream.unbound (s.hartAt h).streams q

/-- Stream `q` of slot `h` replaced. -/
def State.setStream (s : State) (h q : Nat) (v : Stream) : State :=
  s.modHart h (fun x => { x with streams := Tab.put Stream.unbound x.streams q v })

/-- Unbind stream `q` of slot `h`: its strip buffer returns to the Square, zeroed (17 R339). -/
def State.unbind (s : State) (h q : Nat) : State :=
  let st := s.stream h q
  if st.bound then
    let c := clusterOf h
    ((s.modCluster c (fun x => { x with bufs := x.bufs.filter (fun b => !(b.hart = h && b.q = q)) })).setStream h q Stream.unbound).zeroRange
      (squareAt c st.bufofs) st.bufsize
  else s

/-- Unbind every stream of slot `h`. -/
def State.unbindAll (s : State) (h : Nat) : State := (List.range 16).foldl (fun s q => s.unbind h q) s

/-- Is every bound output stream of slot `h` drained (17 R342)? -/
def State.drained (s : State) (h : Nat) : Bool := (s.hartAt h).streams.all (fun p => !(p.2.bound && p.2.out) || p.2.produced.isEmpty)

/-- Discard the user-level entries queued for slot `h` (17 R353, R356). -/
def State.dropEntries (s : State) (h : Nat) : State :=
  s.modCore (coreOf h) (fun c => { c with uqueue := c.uqueue.filter (fun e => e.slot ≠ slotOf h) })

/-- Does slot `h` have a queued user-level entry? -/
def State.hasEntry (s : State) (h : Nat) : Bool := (s.coreAt (coreOf h)).uqueue.any (fun e => e.slot = slotOf h)

/-! ### Completion words -/

/-- A device AMOOR of `v` into the dword at `va` under context `c`, released at scope `sc`; none where it faults or does not respond, as at a host
whose completer performs no OR (11 R260; 23 R427). -/
def State.amoOr (s : State) (c : Ctx) (sc : Scope) (va : Word) (v : Nat) : Option State :=
  match s.target c .store va 8 with
  | .ok (.mem pa _) =>
    if s.poisoned pa || !s.homePerforms pa false then none
    else some ((((s.walkRequests c va).release c.agent sc).amoObserve c.agent pa 8).atomicPut c.agent pa 8 (leNat (s.amoBytesAt c.agent pa 8) ||| v))
  | _ => none

/-- The flags END reports, at the positions of 11 R241. -/
def Hart.reportFlags (h : Hart) : Nat :=
  bits h.fflags 0 5 + bits h.iflags 0 2 * 2 ^ 5 + bits h.vxflags 0 3 * 2 ^ 7 + bits h.vpoison 63 1 * 2 ^ 10

/-- The placed launch of a given number. -/
def State.crewOf (s : State) (n : Nat) : Option Crew := s.crews.find? (fun c => c.number = n)

/-- The placed launch of a given number changed. -/
def State.modCrew (s : State) (n : Nat) (f : Crew → Crew) : State :=
  { s with crews := s.crews.map (fun c => if c.number = n then f c else c) }

/-- A launch has ended: its record and its outstanding pieces go (19 R380). -/
def State.dropCrew (s : State) (n : Nat) : State :=
  { s with crews := s.crews.filter (fun c => c.number ≠ n), pieces := s.pieces.filter (fun p => p.launch ≠ n) }

/-- The launcher as an agent: it acts on C-die 0 (log entry 8). -/
def launcher : AgentId := .unit 0

/-- The package root of trust as an agent, on I-die 0 (22 R407; log entry 8). -/
def root : AgentId := .unit 8

/-- The launcher's context for the virtual addresses of a record of ASID `asid` (11 R239): level U. -/
def launchCtx (asid ptbase : Word) : Ctx := ⟨launcher, .u, asid, ptbase, 0, 0, 0⟩

/-- Where entry `q` of the work-queue table lies (23 R423). -/
def State.queueEntry (s : State) (q : Nat) : Nat := bits s.regs.wqtab 12 40 * 4096 + 32 * q

/-- A byte of entry `q` of the work-queue table, zero where it cannot be read (23 R423). -/
def State.queueByte (s : State) (q o : Nat) : Nat := (s.physRead launcher .system (s.queueEntry q + o) 1).getD 0

/-- A launch from queue `q` has received done = 1: the host is told where ien of the entry asks (23 R425), which the launcher reads (13 R281). -/
def State.tellQueue (s : State) (queue : Option Nat) : State :=
  match queue with
  | some q =>
    let t := s.touchAt (s.queueEntry q)
    if (s.queueByte q 12).testBit 7 then t.raiseVector (s.queueByte q 12 % 64) else t
  | none => s

/-- done = 1 with a status, for a completion word (11 R241). -/
def doneWord (status : Nat) : Nat := 2 ^ 63 + status * 2 ^ 60

/-- The launcher gives a launch its completion word: done and a status, a write with a system-scope release, which has been performed when the host is
told (23 R425); where the write faults the refusal is logged with kind 9 (11 R242; 20 R398). -/
def State.finishLaunch (s : State) (asid ptbase cword : Word) (queue : Option Nat) (status : Nat) : State :=
  let c := launchCtx asid ptbase
  match s.target c .store cword 8 with
  | .ok (.mem pa _) => (((s.walkRequests c cword).publish launcher .system pa 8 (doneWord status)).performNow launcher pa 8).tellQueue queue
  | _ => s.record 0 9 false 0 cword asid 0 0

/-- Step 2 of END for a hart context (11 R260): the flags are ORed into the completion word at device scope; a lost write is logged. -/
def State.reportEnd (s : State) (c : Ctx) (cr : Crew) (hartid : Nat) (flags : Nat) : State :=
  match s.amoOr c .device cr.cword flags with
  | some s => s
  | none => s.record (dieOf hartid) 9 false 0 cr.cword c.asid hartid 0

/-- Steps 3 and 4 of END (11 R260; 22 R415): one hart fewer; the last one sets done, with status 1 where the crew lost a hart with a die. It has
acquired what every other hart released with its contribution, so that its .system release carries the stores of all (15 R326). -/
def State.countOut (s : State) (c : Ctx) (cr : Crew) (hartid : Nat) : State :=
  if cr.left ≤ 1 then
    (match (s.acquire c.agent .device).amoOr c .system cr.cword (doneWord (bit cr.dieLost)) with
     | some s => s.tellQueue cr.queue
     | none => s.record (dieOf hartid) 9 false 0 cr.cword c.asid hartid 0).dropCrew cr.number
  else s.modCrew cr.number (fun x => { x with left := x.left - 1 })

/-- Step 5 of END: the slot gives back channels, lanes, streams, entries and itself (11 R260; 17 R360); the slices of its lanes are zeroed (19 R383).
Its registers stand as they are. -/
def State.freeSlot (s : State) (h : Nat) : State :=
  ((((s.releaseChannels h).unbindAll h).dropEntries h).modHart h (fun x =>
    { x with
      v := [], vpois := [], held := 0, loweredGl := none, throttledV := false, run := .empty, tag := none, ov := false, ahead := none
      block := none, partials := [], stopped := [], lastSend := none, stopIn := none, stay := newStay h s.tick }))

/-! ### A die leaves service (22 R415) -/

/-- The die that holds a physical address: its alias, stacks, or second-tier granules. -/
def dieHolding (pa : Nat) : Option Nat :=
  if pa < Config.hbmBytes then some (pa / 2 ^ 14 % 16 / 2)
  else if 0x040000000000 ≤ pa ∧ pa < 0x040000000000 + Config.tier2Bytes then some (8 + (pa - 0x040000000000) / 4096 % 4)
  else if 0x0E0000000000 ≤ pa ∧ pa < 0x0E0800000000 then some ((pa - 0x0E0000000000) / 2 ^ 32)
  else none

/-- The die that a write to the address must reach: the one that holds it, or whose port it leaves by (22 R414). -/
def dieToward (pa : Nat) : Option Nat :=
  if inCxlRange pa then some 8 else if 0x100000000000 ≤ pa ∧ pa < 0x10000000000000 then some 9 else dieHolding pa

/-- The transfers accepted by a die's engines: its edge queues and its clusters' copy queues. -/
def State.transfersOf (s : State) (d : Nat) : List Transfer :=
  (s.dieAt d).edge.flatMap (·.2) ++ (List.range 24).flatMap (fun c => (s.clusterAt (24 * d + c)).copies)

/-- The mailbox words of an ended transfer (17 R349). -/
def Transfer.mailbox (t : Transfer) (code : Nat) : List Nat :=
  [2 ^ 63 + code * 2 ^ 60 + t.xid.toNat, t.written, if code = 1 then t.faddr.toNat else 0, 0]

/-- Store a mailbox at its virtual address, dword 0 last with a release at `sc` (17 R349). DESIGN CHOICE (log entry 84): nothing where the address
faults or does not respond. -/
def State.storeMailbox (s : State) (c : Ctx) (sc : Scope) (t : Transfer) (code : Nat) : State :=
  match s.target c .store t.mbox 8, t.mailbox code with
  | .ok (.mem pa _), w0 :: ws =>
    ((((s.put c .hart (pa + 8) 8 (ws.getD 0 0)).put c .hart (pa + 16) 8 (ws.getD 1 0)).put c .hart (pa + 24) 8 0).publish c.agent sc pa 8 w0)
  | _, _ => s

/-- The context of a transfer run by agent `a` (17 R345): translation as at its SKICK, the windows of its issuing hart. -/
def Transfer.ctx (t : Transfer) (a : AgentId) : Ctx := ctxAt t.hart a t.level t.asid t.ptbase

/-- The root of trust abandons a transfer of a die that leaves: code 3 in a mailbox outside the die (22 R415). -/
def State.abandon (s : State) (d : Nat) (t : Transfer) : State :=
  match s.target (t.ctx root) .store t.mbox 8 with
  | .ok (.mem pa _) => if dieHolding pa = some d then s else s.storeMailbox (t.ctx root) .device t 3
  | _ => s

/-- The harts of launch `n` on die `d`, with its accepted children that have not started (11 R260). -/
def State.crewHartsOn (s : State) (d n : Nat) : Nat :=
  (hartsOfDie d).countP (fun h => match (s.hartAt h).tag with | some (k, _) => decide (k = n) && decide ((s.hartAt h).run ≠ .empty) | none => false)
    + ((List.range 192).map (fun i => (s.coreAt (256 * d + i)).children.countP (fun k => k.launch = n))).sum

/-- The root gives status 1 to a crew with harts on the leaving die and counts those harts out (22 R415). -/
def State.loseCrew (s : State) (d : Nat) (cr : Crew) : State :=
  let n := s.crewHartsOn d cr.number
  if n = 0 then s
  else if cr.left ≤ n then
    (match (s.acquire root .device).amoOr { launchCtx cr.asid cr.ptbase with agent := root, die := 0 } .system cr.cword (doneWord 1) with
     | some s => s.tellQueue cr.queue
     | none => s).dropCrew cr.number
  else
    (match s.amoOr { launchCtx cr.asid cr.ptbase with agent := root, die := 0 } .device cr.cword (2 ^ 60) with
     | some s => s
     | none => s).modCrew cr.number (fun x => { x with left := x.left - n, dieLost := true })

/-- Writes still under way to the die, or to a port of it, are lost and logged with kind 10 (22 R415): their bytes stand as before them. -/
def State.loseWrites (s : State) (d : Nat) : State :=
  let lost (p : PendWrite) : Bool :=
    decide (dieToward p.pa = some d) && !p.everywhere && !p.reached.any (fun q => decide (q = .die d) || decide (q = .device))
  ((s.pend.filter lost).foldl (fun s p => s.record 0 10 false 0 (word p.pa) 0 0 0) s).dropWrites lost

/-- Every byte a die holds reads zero, and its sectors are clean (22 R415: stacks are written with zero sectors; its SRAM has its reset
content, log entry 2). -/
def State.wipeDie (s : State) (d : Nat) : State :=
  { s with
    mem := s.mem.filter (fun c => dieHolding c.1 ≠ some d)
    poison := s.poison.filter (fun k => dieHolding (32 * k) ≠ some d)
    pend := s.pend.filter (fun p => dieHolding p.pa ≠ some d) }

/-- The harts, cores and clusters of a C-die take their reset state (01 R30; 22 R415, R416): no hart is resident. -/
def State.resetUnits (s : State) (d : Nat) : State :=
  let s := (hartsOfDie d).foldl (fun s h =>
    s.setHart h { Hart.reset (h % 2) with run := .empty, held := 0, cycleBase := word s.clk, stay := newStay h s.tick }) s
  let s := ((List.range 192).map (fun i => 256 * d + i)).foldl (fun s c => s.modCore c (fun _ => Core.reset)) s
  ((List.range 24).map (fun i => 24 * d + i)).foldl (fun s c => s.modCluster c (fun _ => Cluster.reset)) s

/-- The key of the site of link `k` of die `d`, counted on its die of lower index (20 R387; log entry 43). -/
def linkKeyOf (d k : Nat) : Nat := siteKey .link (linkId d k % 8)

/-- The links of a die carry no data, their keys erased at both ends (22 R415). A link declared lasting is so no more: trained and keyed afresh, it
serves again (20 R388; 22 R410; log entry 76). -/
def State.cutLinks (s : State) (d : Nat) : State :=
  (List.range 8).foldl (fun s k => s.modDie (linkId d k / 8) (fun x => { x with lasting := x.lasting.erase (linkKeyOf d k) }))
    { s with links := (List.range 8).foldl (fun t k => Tab.drop t (linkId d k)) s.links }

/-- The sessions and keys of an I-die's ports go with its reset (22 R415; 23 R418, R420, R428): host ports on I-die 0, UALink ports on I-die 1. -/
def State.dropPortKeys (s : State) (d : Nat) : State :=
  if d = 8 then { s with keys := { s.keys with ide := [], session := [], trained := [], insecure := [] } }
  else if d = 9 then { s with keys := { s.keys with ualink := [], podOf := [] } }
  else s

/-- A die that is reset: its state, its log and the queue of its records stand; its translation unit and its home agents start afresh, so that what
they held is invalid from now on (13 R288, R291). -/
def State.freshDie (s : State) (d : Nat) : State :=
  { s.modDie d (fun x =>
      { Die.reset with st := x.st, log := x.log, head := x.head, tail := x.tail, lost := x.lost, tlb := [⟨none, none, true, s.tick⟩] }) with
    moving := s.moving.map (fun m => { m with lost := (d, m.bytes) :: m.lost }) }

/-- An admitted die leaves service (22 R415): state 7, links cut, work in flight ended, transfers abandoned, crews counted, and it is reset. -/
def State.leaveService (s : State) (d : Nat) : State :=
  if s.admitted d = false then s else
  let s := (s.setDieState d 7).cutLinks d
  let s := s.loseWrites d
  let s := (s.transfersOf d).foldl (fun s t => s.abandon d t) s
  let s := s.crews.foldl (fun s cr => s.loseCrew d cr) s
  let s := if d < 8 then s.resetUnits d else s
  ((s.wipeDie d).dropPortKeys d).freshDie d

end Sys2Proof.Machine
end

