-- ==== Sys2Proof/Machine/Mmio.lean ====
section
/-! DEFINITION. Writes to MMIO registers (13 R277): hirq, elogctl, the cycle record, hbmctl, diectl, poisonctl, the registers of 23 R422 and
R426, doorbells (23 R424), msigen; and the scalar store that reaches memory or a register (04 R78). -/

namespace Sys2Proof.Machine

/-- The bits of `new` where `mask` is set, those of `old` elsewhere: a write of RW fields among reserved ones (00 R6, R7). -/
def merge (mask old new : Word) : Word := (old &&& ~~~mask) ||| (new &&& mask)

/-! ### Work queues (23 R423, R424) -/

/-- Bytes of the ring descriptor of queue `q` at offset `o`; none where the queue table is off or nothing responds. -/
def State.ringField (s : State) (q o n : Nat) : Option Nat :=
  if bitSet s.regs.wqtab 0 then
    match s.physRead launcher .system (s.queueEntry q) 8 with
    | some ring => s.physRead launcher .system (ring + o) n
    | none => none
  else none

/-- The requests of the launcher's reads of the entry and the ring descriptor of queue `q` (13 R281; 23 R423). -/
def State.queueRequests (s : State) (q : Nat) : State :=
  if bitSet s.regs.wqtab 0 then
    let t := s.touchAt (s.queueEntry q)
    match s.physRead launcher .system (s.queueEntry q) 8 with
    | some ring => t.touchAt ring
    | none => t
  else s

/-- en of queue `q`, and not err (23 R423). -/
def State.queueOn (s : State) (q : Nat) : Bool := bitSet s.regs.wqtab 0 && (s.queueByte q 11).testBit 0 && !(s.queueByte q 11).testBit 1

/-- The launcher's record of a queue. -/
def WorkQueue.reset : WorkQueue := ⟨0, 0, none, []⟩

/-- The step at which the flags byte of entry `q` was last written by another agent, as the launcher sees it: software's last setting of en. -/
def State.enableTime (s : State) (q : Nat) : Nat :=
  match s.pend.find? (fun p => p.covers (s.forward (s.queueEntry q + 11)) && decide (p.owner ≠ launcher) && p.atAny (s.upTo launcher .system)) with
  | some p => p.time
  | none => 0

/-- Queue `q` as the launcher holds it: whenever en is set, it starts from the descriptor's head with target equal to it (23 R424). -/
def State.syncQueue (s : State) (q : Nat) : State :=
  let w := Tab.get WorkQueue.reset s.queues q
  if s.queueOn q then
    if w.started = some (s.enableTime q) then s
    else
      match s.ringField q 16 4 with
      | some h => { s with queues := Tab.put WorkQueue.reset s.queues q ⟨BitVec.ofNat 32 h, BitVec.ofNat 32 h, some (s.enableTime q), []⟩ }
      | none => s
  else { s with queues := Tab.put WorkQueue.reset s.queues q WorkQueue.reset }

/-- What `f` does at the location of physical address `pa`, at its new one on a line of a migrating page that has moved (13 R291); nothing where its
`n` bytes do not respond (13 R277; 17 R339). -/
def State.atPhys (s : State) (pa n : Nat) (f : State → Nat → State) : State := if s.reaches (s.forward pa) n then f s (s.forward pa) else s

/-- The queue stops: err is set, the error is logged with kind 12, and the host is told where msictl asks (23 R421, R424, R425). -/
def State.queueError (s : State) (q : Nat) (tail : Nat) : State :=
  let ring := (s.physRead launcher .system (s.queueEntry q) 8).getD 0
  let s := s.atPhys (s.queueEntry q + 11) 1 (fun s pa => s.atomicPut launcher pa 1 (s.queueByte q 11 ||| 2))
  let s := s.record 0 12 false q (word ring) 0 0 tail
  if bitSet s.regs.msictl 7 then s.raiseVector (bits s.regs.msictl 0 6) else s

/-- A doorbell write of `v` for queue `q` (23 R424). -/
def State.doorbell (s : State) (q : Nat) (v : Word) : State :=
  let s := (s.syncQueue q).queueRequests q
  if s.queueOn q then
    match s.ringField q 8 1 with
    | none => s
    | some lg =>
      let w := Tab.get WorkQueue.reset s.queues q
      let t : BitVec 32 := BitVec.ofNat 32 v.toNat
      let n := 2 ^ (lg % 32)
      if (t - w.head).toNat ≤ n then
        if (w.target - w.head).toNat < (t - w.head).toNat then
          { s with queues := Tab.put WorkQueue.reset s.queues q { w with target := t, bells := w.bells ++ [(t, s.clk)] } }
        else s
      else if (w.head - t).toNat ≤ n then s
      else s.queueError q t.toNat
  else s

/-! ### Registers -/

/-- A write of hirq of slot `h` (19 R367): pre and the enables. -/
def State.writeHirq (s : State) (h : Nat) (v : Word) : State :=
  s.modDie (dieOf h) (fun d => { d with hirq := Tab.modify 0 d.hirq (h % 512) (fun w => merge 0x1500000001 w v) })

/-- A write of elogctl (20 R397): head and lost. -/
def State.writeElogctl (s : State) (d : Nat) (v : Word) : State := s.modDie d (fun x => { x with head := bits v 0 6, lost := bits v 32 8 })

/-- A write of hbmctl (13 R281). -/
def State.writeHbmctl (s : State) (d : Nat) (v : Word) : State := s.modDie d (fun x => { x with hbmctl := word (bits v 0 2) })

/-- A write of zero to the first dword of the cycle record frees it (19 R385); other writes leave it (log entry 21). -/
def State.freeCycleRecord (s : State) (d : Nat) (v : Word) : State :=
  if v = 0 then s.modDie d (fun x => { x with cycleRecord := Tab.put 0 x.cycleRecord 0 0 }) else s

/-- diectl command 1 (22 R413): the named die leaves service; C-die 0 and I-die 0 are refused with a log record; a die held in reset boots. -/
def State.resetDie (s : State) (d : Nat) : State :=
  if d = 0 ∨ d = 8 then s.record 0 11 false d 0 0 0 0
  else if 12 ≤ d then s
  else if (s.dieAt d).st = 5 then s.leaveService d
  else if (s.dieAt d).st = 0 ∧ s.powered ∧ s.held = false ∧ Config.noPower d = false then s.setDieState d 1
  else s

/-- A link with the keys of both directions due to roll (22 R411). -/
def Link.rollBoth (l : Link) : Link := if l.up then { l with lo := { l.lo with due := true }, hi := { l.hi with due := true } } else l

/-- diectl command 2 (22 R413): every key of the die's links, of either direction, is due to roll (22 R411). -/
def State.rollKeys (s : State) (d : Nat) : State :=
  if d < 12 ∧ s.admitted d then
    { s with links := (List.range 8).foldl (fun t k => Tab.modify Link.down t (linkId d k) Link.rollBoth) s.links }
  else s

/-- A write of diectl (22 R413). -/
def State.writeDiectl (s : State) (v : Word) : State :=
  if bits v 8 4 = 1 then s.resetDie (bits v 0 4) else if bits v 8 4 = 2 then s.rollKeys (bits v 0 4) else s

/-- An 8-byte write of MMIO register `off` of die `d` (13 R277), field by field; a read-only register keeps its value. -/
def State.writeReg (s : State) (d off : Nat) (v : Word) : State :=
  if off = 0x01000000 then s.writeHbmctl d v
  else if 0x02000000 ≤ off ∧ off < 0x02000C00 then s.writeHirq (512 * d + (off - 0x02000000) / 8) v
  else if off = 0x03000000 then s.freeCycleRecord d v
  else if off = 0x05000000 then s.writeElogctl d v
  else if off = 0x07000000 then s.writeDiectl v
  else if off = 0x06000000 then { s with regs := { s.regs with poisonctl := v &&& 3 } }
  else if off = 0x08000000 then { s with regs := { s.regs with asidtab := v &&& 0xFFFFFFFFFF001 } }
  else if off = 0x08000008 then { s with regs := { s.regs with wqtab := v &&& 0xFFFFFFFFFF001 } }
  else if off = 0x08000010 then { s with regs := { s.regs with lvecs := v } }
  else if off = 0x08000018 then { s with regs := { s.regs with lvecm := v } }
  else if off = 0x08000020 then { s with regs := { s.regs with msictl := v &&& 0x1BFBFBF } }
  else if off = 0x08000028 then s.raiseVector (bits v 0 6)
  else if 0x09000000 ≤ off ∧ off < 0x09010000 then s.doorbell ((off - 0x09000000) / 8) v
  else if 0x0A000000 ≤ off ∧ off < 0x0A000080 then
    { s with
      regs := { s.regs with
        decoders := Tab.put 0 s.regs.decoders ((off - 0x0A000000) / 8)
          (v &&& (if off % 16 = 0 then 0xF10FFFFFC0000000 else 0x3FFFFF)) } }
  else if off = 0x0B000000 then { s with regs := { s.regs with podctl := v &&& 0x80000000000003FF } }
  else s

/-! ### Stores -/

/-- A register store of the current hart is seen at once: a pending VFETCH retires before it (05 R122). -/
def State.settleFor (s : State) (c : Ctx) : State := if c.agent = .hart s.cur then s.withHart Hart.settle else s

/-- A scalar store of the low `n` bytes of `v` at `va`, performed at scope `sc` (04 R78; 13 R277; 14 R297): memory, an MMIO register, or the
trap. -/
def State.store (s : State) (c : Ctx) (sc : Scope) (va : Word) (n v : Nat) : Except Trap State :=
  match s.target c .store va n with
  | .error t => .error t
  | .ok (.mem pa _) => .ok ((s.walkRequests c va).put c sc pa n v)
  | .ok (.rom _) => .error ⟨7, va⟩
  | .ok (.reg d off) =>
    if n ≠ 8 then .error ⟨7, va⟩
    else if off = 0x07000000 ∧ c.level = .u then .error ⟨7, va⟩
    else .ok ((s.settleFor c).writeReg d off (word v))

end Sys2Proof.Machine
end

