-- ==== Sys2Proof/Machine/Cr.lean ====
section
/-! DEFINITION. The control-register space (01 R16 to R26; 03 R63; 04 R89): what each number reads, what a write stores, which accesses are
refused. -/

namespace Sys2Proof.Machine

/-- A control register of 03 R63. -/
inductive Cr
  | fflags | frm | iflags | hartid | cycle | retired | vtype | vl | rows | vgrant | vstart | vxflags | vxtrap | vpoison | mgrant | zrdone
  | amiss | adbase | uxid | uhandler | ushadow0 | ushadow1 | ushadow2 | ushadow3 | eshadow | eword | statusS | tvecS | epcS | causeS | tvalS
  | scratchS | asid | ptbase | lanecap | pwrcap | recvto | zstate | ebase | mseq | coremap | routemap | diestate | statusM | tvecM | epcM
  | causeM | tvalM | scratchM
  deriving DecidableEq, Repr

/-- The register a number names (03 R63); none where it is unassigned. -/
def crOf (n : Nat) : Option Cr :=
  match n with
  | 0x001 => some .fflags | 0x002 => some .frm | 0x003 => some .iflags | 0x010 => some .hartid | 0x020 => some .cycle
  | 0x021 => some .retired | 0x030 => some .vtype | 0x031 => some .vl | 0x032 => some .rows | 0x033 => some .vgrant
  | 0x034 => some .vstart | 0x035 => some .vxflags | 0x036 => some .vxtrap | 0x037 => some .vpoison | 0x040 => some .mgrant
  | 0x041 => some .zrdone | 0x042 => some .amiss | 0x043 => some .adbase | 0x050 => some .uxid | 0x051 => some .uhandler
  | 0x052 => some .ushadow0 | 0x053 => some .ushadow1 | 0x054 => some .ushadow2 | 0x055 => some .ushadow3 | 0x060 => some .eshadow
  | 0x061 => some .eword | 0x100 => some .statusS | 0x101 => some .tvecS | 0x102 => some .epcS | 0x103 => some .causeS
  | 0x104 => some .tvalS | 0x105 => some .scratchS | 0x110 => some .asid | 0x111 => some .ptbase | 0x112 => some .lanecap
  | 0x113 => some .pwrcap | 0x114 => some .recvto | 0x120 => some .zstate | 0x130 => some .ebase | 0x131 => some .mseq
  | 0x140 => some .coremap | 0x141 => some .routemap | 0x150 => some .diestate | 0x400 => some .statusM | 0x401 => some .tvecM
  | 0x402 => some .epcM | 0x403 => some .causeM | 0x404 => some .tvalM | 0x405 => some .scratchM
  | _ => none

/-- Is the access code RO (03 R63)? -/
def Cr.readOnly : Cr → Bool
  | .hartid => true | .cycle => true | .retired => true | .vtype => true | .vl => true | .rows => true | .vgrant => true
  | .mgrant => true | .zrdone => true | .eword => true | .diestate => true
  | _ => false

/-- May level `l` access number `n` (01 R16)? -/
def crLevelOk (l : Level) (n : Nat) : Bool :=
  if n < 0x100 then true else if n < 0x400 then decide (l ≠ .u) else if n < 0x800 then decide (l = .m) else false

/-- The register an access reaches, none where 01 R17 refuses it. -/
def crAccess (l : Level) (n : Nat) (writes : Bool) : Option Cr :=
  if crLevelOk l n then
    match crOf n with
    | some r => if writes && r.readOnly then none else some r
    | none => none
  else none

/-- What a read returns (04 R89). -/
def State.readCr (s : State) (r : Cr) : Word :=
  match r with
  | .fflags => s.hart.fflags
  | .frm => s.hart.frm
  | .iflags => s.hart.iflags
  | .hartid => word s.cur
  | .cycle => s.cycle
  | .retired => s.hart.retired
  | .vtype => s.hart.vtype
  | .vl => s.hart.vl
  | .rows => s.hart.rows
  | .vgrant => s.hart.vgrant
  | .vstart => s.hart.vstart
  | .vxflags => s.hart.vxflags
  | .vxtrap => s.hart.vxtrap
  | .vpoison => s.hart.vpoison
  | .mgrant => s.hart.mgrant
  | .zrdone => s.core.zrdone
  | .amiss => s.hart.amiss
  | .adbase => s.hart.adbase
  | .uxid => s.hart.uxid
  | .uhandler => s.hart.uhandler
  | .ushadow0 => s.hart.ushadow0
  | .ushadow1 => s.hart.ushadow1
  | .ushadow2 => s.hart.ushadow2
  | .ushadow3 => s.hart.ushadow3
  | .eshadow => s.hart.eshadow
  | .eword => s.hart.eword
  | .statusS => s.hart.trapS.status
  | .tvecS => s.hart.trapS.tvec
  | .epcS => s.hart.trapS.epc
  | .causeS => s.hart.trapS.cause
  | .tvalS => s.hart.trapS.tval
  | .scratchS => s.hart.trapS.scratch
  | .asid => s.hart.asid
  | .ptbase => s.hart.ptbase
  | .lanecap => s.core.lanecap
  | .pwrcap => s.core.pwrcap
  | .recvto => s.hart.recvto
  | .zstate => s.core.zstate
  | .ebase => s.hart.ebase
  | .mseq => s.hart.mseq
  | .coremap => s.hart.coremap
  | .routemap => s.hart.routemap
  | .diestate => s.diestate
  | .statusM => s.hart.trapM.status
  | .tvecM => s.hart.trapM.tvec
  | .epcM => s.hart.trapM.epc
  | .causeM => s.hart.trapM.cause
  | .tvalM => s.hart.trapM.tval
  | .scratchM => s.hart.trapM.scratch

/-- What a read does beside returning the value: diestate clears the reading hart's hirq.die (22 R412); a read of pwrcap ends the
exposure to erratum A1-E03 (24 R439): of both harts of the core, whichever reads (log entry 66). -/
def State.afterCrRead (s : State) (r : Cr) : State :=
  match r with
  | .diestate => s.setHirqBit s.cur 2 false
  | .pwrcap => s.withCore (fun c => { c with pwrAt := none })
  | _ => s

/-- What status stores (01 R24): ppriv 0b10 as 0b00, and in status_s 0b11 as 0b01. -/
def statusStore (supervisor : Bool) (v : Word) : Word :=
  let p := bits v 2 2
  withBits (v &&& 0x1F) 2 2 (if p = 2 then 0 else if supervisor && p = 3 then 1 else p)

/-- What tvec stores (01 R25): mode 0b10 and 0b11 as 0b00. -/
def tvecStore (v : Word) : Word := if bits v 1 1 = 1 then withBits v 0 2 0 else v

/-- What cause stores (01 R26). -/
def causeStore (v : Word) : Word := v &&& 0x800000000000FFFF

/-- What lanecap stores (11 R245): a lane named in both fields is not stored in h1. -/
def lanecapStore (v : Word) : Word := withBits (v &&& 0xFFFF) 8 8 (bits v 8 8 - (bits v 8 8 &&& bits v 0 8))

/-- What pwrcap stores (11 R247): p above 8 as 8, q above 64 as 64; gl and gq stay. -/
def pwrcapStore (old v : Word) : Word :=
  withBits (withBits (withBits (withBits old 0 4 (min (bits v 0 4) 8)) 4 4 (min (bits v 4 4) 8)) 13 7 (min (bits v 13 7) 64)) 20 7
    (min (bits v 20 7) 64)

/-- A write of `v` (04 R89): RW fields only. DESIGN CHOICE (log entry 78): of two writes of pwrcap within the 2 clk of 24 R439, A1-E03, the second
notes what the first left. -/
def State.writeCr (s : State) (r : Cr) (v : Word) : State :=
  let h := s.hart
  match r with
  | .fflags => { s with hart := { h with fflags := v &&& 0x1F } }
  | .frm => { s with hart := { h with frm := v &&& 7 } }
  | .iflags => { s with hart := { h with iflags := v &&& 0x303 } }
  | .vstart => { s with hart := { h with vstart := v &&& 0x3FFF } }
  | .vxflags => { s with hart := { h with vxflags := v &&& 7 } }
  | .vxtrap => { s with hart := { h with vxtrap := v &&& 3 } }
  | .vpoison => { s with hart := { h with vpoison := merge 0x8000000000000000 h.vpoison v } }
  | .amiss => { s with hart := { h with amiss := v } }
  | .adbase => { s with hart := { h with adbase := v } }
  | .uxid => { s with hart := { h with uxid := v &&& 0xF0000000FFFFFFFF } }
  | .uhandler => { s with hart := { h with uhandler := v } }
  | .ushadow0 => { s with hart := { h with ushadow0 := v } }
  | .ushadow1 => { s with hart := { h with ushadow1 := v } }
  | .ushadow2 => { s with hart := { h with ushadow2 := v } }
  | .ushadow3 => { s with hart := { h with ushadow3 := v } }
  | .eshadow => { s with hart := { h with eshadow := withBits v 0 2 0 } }
  | .statusS => { s with hart := { h with trapS := { h.trapS with status := statusStore true v } } }
  | .tvecS => { s with hart := { h with trapS := { h.trapS with tvec := tvecStore v } } }
  | .epcS => { s with hart := { h with trapS := { h.trapS with epc := withBits v 0 2 0 } } }
  | .causeS => { s with hart := { h with trapS := { h.trapS with cause := causeStore v } } }
  | .tvalS => { s with hart := { h with trapS := { h.trapS with tval := v } } }
  | .scratchS => { s with hart := { h with trapS := { h.trapS with scratch := v } } }
  | .asid => { s with hart := { h with asid := v &&& 0x7FF } }
  | .ptbase => { s with hart := { h with ptbase := v &&& 0x800FFFFFFFFFF000 } }
  | .lanecap => s.withCore (fun c => { c with lanecap := lanecapStore v })
  | .pwrcap => s.withCore (fun c => { c with pwrOld := c.pwrcap, pwrAt := some s.clk, pwrcap := pwrcapStore c.pwrcap v })
  | .recvto => { s with hart := { h with recvto := v &&& 0xFFFFFFFF } }
  | .zstate => s.withCore (fun c => { c with zstate := v &&& 0xC01F0007FF000001 })
  | .ebase => { s with hart := { h with ebase := v &&& 0xFFFFFFFFFFFFFFFD } }
  | .mseq => { s with hart := { h with mseq := v &&& 0x8000000000000003 } }
  | .coremap => { s with hart := { h with coremap := v &&& 0x800FFFFFFFFFF000, coremapAt := s.tick } }
  | .routemap => { s with hart := { h with routemap := v &&& 0x800FFFFFFFFFFFFF, routemapAt := s.tick } }
  | .statusM => { s with hart := { h with trapM := { h.trapM with status := statusStore false v } } }
  | .tvecM => { s with hart := { h with trapM := { h.trapM with tvec := tvecStore v } } }
  | .epcM => { s with hart := { h with trapM := { h.trapM with epc := withBits v 0 2 0 } } }
  | .causeM => { s with hart := { h with trapM := { h.trapM with cause := causeStore v } } }
  | .tvalM => { s with hart := { h with trapM := { h.trapM with tval := v } } }
  | .scratchM => { s with hart := { h with trapM := { h.trapM with scratch := v } } }
  | _ => s

/-- A control-register instruction (04 R89): `new` is what it writes, from the old value, if it writes. -/
def crInstr (i : Instr) (s : State) (d : Reg) (crn : BitVec 12) (new : Option (Word → Word)) : Result :=
  match crAccess s.hart.level crn.toNat new.isSome with
  | none => illegal s i
  | some r =>
    let old := s.readCr r
    let s := s.afterCrRead r
    match new with
    | some f => done ((s.writeCr r (f old)).setX d old)
    | none => done (s.setX d old)

/-- CRRW (04 R89). -/
def execCrrw (d a : Reg) (crn : BitVec 12) (s : State) : Result := crInstr (.crrw d a crn) s d crn (some (fun _ => s.x a))

/-- CRRS (04 R89): xs1 = x0 does not write. -/
def execCrrs (d a : Reg) (crn : BitVec 12) (s : State) : Result :=
  crInstr (.crrs d a crn) s d crn (if a = 0 then none else some (fun old => old ||| s.x a))

/-- CRRC (04 R89): xs1 = x0 does not write. -/
def execCrrc (d a : Reg) (crn : BitVec 12) (s : State) : Result :=
  crInstr (.crrc d a crn) s d crn (if a = 0 then none else some (fun old => old &&& ~~~s.x a))

/-- DIESTATE_READ (22 R412): the current hart reads diestate, which clears its hirq.die. -/
def execDiestateRead (s : State) : Result := .next (s.afterCrRead .diestate)

end Sys2Proof.Machine
end

