-- ==== Sys2Proof/Machine/Scalar.lean ====
section
/-! DEFINITION. Integer register operations, multiplication and division, immediates (04 R73 to R77) and RNGX (04 R96). -/

namespace Sys2Proof.Machine

/-- The instruction writes `v` to xd and completes. -/
def setDone (s : State) (d : Reg) (v : Word) : Result := done (s.setX d v)

/-! ### INT (04 R73) -/

/-- ADD (04 R73). -/
def execAdd (w : Width) (d a b : Reg) (s : State) : Result := setDone s d (w.sx (w.u (s.x a) + w.u (s.x b)))

/-- SUB (04 R73). -/
def execSub (w : Width) (d a b : Reg) (s : State) : Result := setDone s d (w.sx (w.u (s.x a) - w.u (s.x b)))

/-- AND (04 R73). -/
def execAnd (w : Width) (d a b : Reg) (s : State) : Result := setDone s d (w.sx ((w.u (s.x a) &&& w.u (s.x b) : Nat)))

/-- OR (04 R73). -/
def execOr (w : Width) (d a b : Reg) (s : State) : Result := setDone s d (w.sx ((w.u (s.x a) ||| w.u (s.x b) : Nat)))

/-- XOR (04 R73). -/
def execXor (w : Width) (d a b : Reg) (s : State) : Result := setDone s d (w.sx ((w.u (s.x a) ^^^ w.u (s.x b) : Nat)))

/-- The left shift of R73. -/
def shiftLeft (w : Width) (a : Word) (sh : Nat) : Word := w.sx (w.u a * 2 ^ sh : Nat)

/-- The logical right shift of R73. -/
def shiftRight (w : Width) (a : Word) (sh : Nat) : Word := w.zx (w.u a / 2 ^ sh : Nat)

/-- The arithmetic right shift of R73. -/
def shiftArith (w : Width) (a : Word) (sh : Nat) : Word := w.sx ((w.i a).fdiv (2 ^ sh))

/-- SLL (04 R73). -/
def execSll (w : Width) (d a b : Reg) (s : State) : Result := setDone s d (shiftLeft w (s.x a) (w.shift (s.x b)))

/-- SRL (04 R73). -/
def execSrl (w : Width) (d a b : Reg) (s : State) : Result := setDone s d (shiftRight w (s.x a) (w.shift (s.x b)))

/-- SRA (04 R73). -/
def execSra (w : Width) (d a b : Reg) (s : State) : Result := setDone s d (shiftArith w (s.x a) (w.shift (s.x b)))

/-- SLT (04 R73). -/
def execSlt (w : Width) (d a b : Reg) (s : State) : Result := setDone s d (boolWord (w.i (s.x a) < w.i (s.x b)))

/-- SLTU (04 R73). -/
def execSltu (w : Width) (d a b : Reg) (s : State) : Result := setDone s d (boolWord (w.u (s.x a) < w.u (s.x b)))

/-- MIN (04 R73). -/
def execMin (w : Width) (d a b : Reg) (s : State) : Result := setDone s d (w.sx (min (w.i (s.x a)) (w.i (s.x b))))

/-- MAX (04 R73). -/
def execMax (w : Width) (d a b : Reg) (s : State) : Result := setDone s d (w.sx (max (w.i (s.x a)) (w.i (s.x b))))

/-- MINU (04 R73). -/
def execMinu (w : Width) (d a b : Reg) (s : State) : Result := setDone s d (w.zx (min (w.u (s.x a)) (w.u (s.x b)) : Nat))

/-- MAXU (04 R73). -/
def execMaxu (w : Width) (d a b : Reg) (s : State) : Result := setDone s d (w.zx (max (w.u (s.x a)) (w.u (s.x b)) : Nat))

/-- Zero bits of an n-bit number above its highest set bit; n where it is zero (04 R73). -/
def clzN (n v : Nat) : Nat := if v = 0 then n else n - 1 - v.log2

/-- Zero bits of an n-bit number below its lowest set bit; n where it is zero (04 R73). -/
def ctzN (n v : Nat) : Nat := ((List.range n).find? (fun i => v.testBit i)).getD n

/-- Set bits of an n-bit number (04 R73). -/
def popcN (n v : Nat) : Nat := (List.range n).countP (fun i => v.testBit i)

/-- CLZ (04 R73). -/
def execClz (w : Width) (d a : Reg) (s : State) : Result := setDone s d (word (clzN w.bits (w.u (s.x a))))

/-- CTZ (04 R73). -/
def execCtz (w : Width) (d a : Reg) (s : State) : Result := setDone s d (word (ctzN w.bits (w.u (s.x a))))

/-- POPC (04 R73). -/
def execPopc (w : Width) (d a : Reg) (s : State) : Result := setDone s d (word (popcN w.bits (w.u (s.x a))))

/-! ### MULDIV (04 R74; 02 R36, R37) -/

/-- MUL (04 R74). -/
def execMul (w : Width) (d a b : Reg) (s : State) : Result := setDone s d (w.sx (w.u (s.x a) * w.u (s.x b)))

/-- MULH (04 R74). -/
def execMulh (w : Width) (d a b : Reg) (s : State) : Result := setDone s d (w.sx ((w.i (s.x a) * w.i (s.x b)).fdiv (2 ^ w.bits)))

/-- MULHU (04 R74). -/
def execMulhu (w : Width) (d a b : Reg) (s : State) : Result := setDone s d (w.zx (w.u (s.x a) * w.u (s.x b) / 2 ^ w.bits : Nat))

/-- A division of `a` by `b` writes `v`, or traps (02 R37). -/
def divide (s : State) (d : Reg) (signed : Bool) (n : Nat) (a b : Int) (v : Word) : Result :=
  match divTrap s.hart.iflags (divCase signed n a b) with
  | some t => .next (s.trap t)
  | none => done ((s.raiseI (divFlag (divCase signed n a b))).setX d v)

/-- DIV (04 R74). -/
def execDiv (w : Width) (d a b : Reg) (s : State) : Result :=
  divide s d true w.bits (w.i (s.x a)) (w.i (s.x b)) (w.sx (divQuot true w.bits (w.i (s.x a)) (w.i (s.x b))))

/-- DIVU (04 R74). -/
def execDivu (w : Width) (d a b : Reg) (s : State) : Result :=
  divide s d false w.bits (w.u (s.x a)) (w.u (s.x b)) (w.zx (divQuot false w.bits (w.u (s.x a)) (w.u (s.x b))))

/-- REM (04 R74). -/
def execRem (w : Width) (d a b : Reg) (s : State) : Result :=
  divide s d true w.bits (w.i (s.x a)) (w.i (s.x b)) (w.sx (divRem true w.bits (w.i (s.x a)) (w.i (s.x b))))

/-- REMU (04 R74). -/
def execRemu (w : Width) (d a b : Reg) (s : State) : Result :=
  divide s d false w.bits (w.u (s.x a)) (w.u (s.x b)) (w.zx (divRem false w.bits (w.u (s.x a)) (w.u (s.x b))))

/-! ### Immediates (04 R75 to R77) -/

/-- LIH (04 R77). -/
def execLih (d : Reg) (imm : BitVec 20) (s : State) : Result := setDone s d (imm20 imm)

/-- ADDPC (04 R77). -/
def execAddpc (d : Reg) (imm : BitVec 20) (s : State) : Result := setDone s d (s.hart.pc + imm20 imm)

/-- ADDI (04 R75). -/
def execAddi (d a : Reg) (imm : BitVec 15) (s : State) : Result := setDone s d (s.x a + imm15 imm)

/-- ANDI (04 R75). -/
def execAndi (d a : Reg) (imm : BitVec 15) (s : State) : Result := setDone s d (s.x a &&& imm15 imm)

/-- ORI (04 R75). -/
def execOri (d a : Reg) (imm : BitVec 15) (s : State) : Result := setDone s d (s.x a ||| imm15 imm)

/-- XORI (04 R75). -/
def execXori (d a : Reg) (imm : BitVec 15) (s : State) : Result := setDone s d (s.x a ^^^ imm15 imm)

/-- SLTI (04 R75). -/
def execSlti (d a : Reg) (imm : BitVec 15) (s : State) : Result := setDone s d (boolWord ((s.x a).slt (imm15 imm)))

/-- SLTIU (04 R75). -/
def execSltiu (d a : Reg) (imm : BitVec 15) (s : State) : Result := setDone s d (boolWord ((s.x a).ult (imm15 imm)))

/-- SLLI (04 R76). -/
def execSlli (w : Width) (d a : Reg) (sh : BitVec 6) (s : State) : Result := setDone s d (shiftLeft w (s.x a) sh.toNat)

/-- SRLI (04 R76). -/
def execSrli (w : Width) (d a : Reg) (sh : BitVec 6) (s : State) : Result := setDone s d (shiftRight w (s.x a) sh.toNat)

/-- SRAI (04 R76). -/
def execSrai (w : Width) (d a : Reg) (sh : BitVec 6) (s : State) : Result := setDone s d (shiftArith w (s.x a) sh.toNat)

/-! ### RNGX (04 R96) -/

/-- One pass of the loop of R96: (s0, s1, k). -/
def rngPass (p : Word × Word × Word) : Word × Word × Word :=
  let s0 := (p.1 ^^^ p.2.2).rotateLeft 23 * 0xB3C17E5A94F26D2B
  let s1 := p.2.1 + s0
  (s0, s1 ^^^ (s1 >>> 29), p.2.2 + 0x7A4F1C93E6B82D55)

/-- The generator of R96 on key `k`, counter `c` and a stream. -/
def rng (k c : Word) (stream : BitVec 10) : Word :=
  let p := (List.range 10).foldl (fun p _ => rngPass p) (c, (zext 10 stream <<< 54) ^^^ 0x5E0BA7C419D38F61, k)
  p.1 ^^^ p.2.1.rotateLeft 41

/-- RNGX (04 R96). -/
def execRngx (d a b : Reg) (stream : BitVec 10) (s : State) : Result := setDone s d (rng (s.x a) (s.x b) stream)

end Sys2Proof.Machine
end

