-- ==== Sys2Proof/Machine/ScalarFp.lean ====
section
/-! DEFINITION. Scalar floating point: FPOP, FCVT, FMA (04 R83 to R87). -/

namespace Sys2Proof.Machine

/-- A rounding operation (04 R83): the mode first, then one rounding of `op`'s exact value; an invalid dynamic mode is code 2 (01 R20). -/
def fpRound (i : Instr) (s : State) (f : SFmt) (rm : RMode) (d : Reg) (op : Bool → FVal × Nat) : Result :=
  match s.mode rm with
  | none => illegal s i
  | some m =>
    let (v, fl) := op (m = .rdn)
    let (r, fr) := f.fmt.round m v
    done ((s.raiseF (fl ||| fr)).setX d (word r))

/-- FADD (04 R83). -/
def execFadd (f : SFmt) (rm : RMode) (d a b : Reg) (s : State) : Result :=
  fpRound (.fadd f rm d a b) s f rm d (fun rdn => fAdd rdn (s.f f a) (s.f f b))

/-- FSUB (04 R83). -/
def execFsub (f : SFmt) (rm : RMode) (d a b : Reg) (s : State) : Result :=
  fpRound (.fsub f rm d a b) s f rm d (fun rdn => fAdd rdn (s.f f a) (s.f f b).negate)

/-- FMUL (04 R83). -/
def execFmul (f : SFmt) (rm : RMode) (d a b : Reg) (s : State) : Result :=
  fpRound (.fmul f rm d a b) s f rm d (fun _ => fMul (s.f f a) (s.f f b))

/-- FDIV (04 R83). -/
def execFdiv (f : SFmt) (rm : RMode) (d a b : Reg) (s : State) : Result :=
  fpRound (.fdiv f rm d a b) s f rm d (fun _ => fDiv (s.f f a) (s.f f b))

/-- FSQRT (04 R83). -/
def execFsqrt (f : SFmt) (rm : RMode) (d a : Reg) (s : State) : Result :=
  fpRound (.fsqrt f rm d a) s f rm d (fun _ => fSqrt (s.f f a))

/-- An operation that does not round writes `r.1` and raises `r.2` (04 R84). -/
def fpMove (s : State) (d : Reg) (r : Nat × Nat) : Result := done ((s.raiseF r.2).setX d (word r.1))

/-- FMIN (04 R84). -/
def execFmin (f : SFmt) (d a b : Reg) (s : State) : Result := fpMove s d (f.fmt.minMax false (s.fbits f a) (s.fbits f b))

/-- FMAX (04 R84). -/
def execFmax (f : SFmt) (d a b : Reg) (s : State) : Result := fpMove s d (f.fmt.minMax true (s.fbits f a) (s.fbits f b))

/-- The magnitude bits of `x` under the sign `neg` (04 R84). -/
def withSign (f : FFmt) (neg : Bool) (x : Nat) : Nat := f.sign neg + x % 2 ^ (f.width - 1)

/-- The sign bit of an encoding. -/
def signOf (f : FFmt) (x : Nat) : Bool := x.testBit (f.width - 1)

/-- FSGNJ (04 R84). -/
def execFsgnj (f : SFmt) (d a b : Reg) (s : State) : Result :=
  fpMove s d (withSign f.fmt (signOf f.fmt (s.fbits f b)) (s.fbits f a), 0)

/-- FSGNJN (04 R84). -/
def execFsgnjn (f : SFmt) (d a b : Reg) (s : State) : Result :=
  fpMove s d (withSign f.fmt (!signOf f.fmt (s.fbits f b)) (s.fbits f a), 0)

/-- FSGNJX (04 R84). -/
def execFsgnjx (f : SFmt) (d a b : Reg) (s : State) : Result :=
  fpMove s d (withSign f.fmt (signOf f.fmt (s.fbits f a) != signOf f.fmt (s.fbits f b)) (s.fbits f a), 0)

/-- FCMP.eq (04 R84). -/
def execFcmpEq (f : SFmt) (d a b : Reg) (s : State) : Result :=
  fpMove s d (bit (fEqual (s.f f a) (s.f f b)), sigFlag [s.f f a, s.f f b])

/-- NV of an ordered comparison: any NaN (02 R44). -/
def orderFlag (a b : FVal) : Nat := if a.isNan || b.isNan then NV else 0

/-- FCMP.lt (04 R84). -/
def execFcmpLt (f : SFmt) (d a b : Reg) (s : State) : Result :=
  fpMove s d (bit (!(s.f f a).isNan && !(s.f f b).isNan && fLess (s.f f a) (s.f f b)), orderFlag (s.f f a) (s.f f b))

/-- FCMP.le (04 R84). -/
def execFcmpLe (f : SFmt) (d a b : Reg) (s : State) : Result :=
  fpMove s d (bit (!(s.f f a).isNan && !(s.f f b).isNan && !fLess (s.f f b) (s.f f a)), orderFlag (s.f f a) (s.f f b))

/-- The class number of R85. -/
def FFmt.classOf (f : FFmt) (x : Nat) : Nat :=
  match f.value x with
  | .inf true => 0
  | .inf false => 7
  | .nan true => 8
  | .nan false => 9
  | .fin neg m _ =>
    if m = 0 then (if neg then 3 else 4)
    else if m < 2 ^ f.fbits then (if neg then 2 else 5)
    else (if neg then 1 else 6)

/-- FCLASS (04 R85). -/
def execFclass (f : SFmt) (d a : Reg) (s : State) : Result := fpMove s d (2 ^ f.fmt.classOf (s.fbits f a), 0)

end Sys2Proof.Machine

namespace Sys2Proof

open Machine

/-- The operand of FCVT (04 R86). -/
def CvtType.operand (t : CvtType) (x : Word) : FVal :=
  match t with
  | .i32 => .ofInt (Width.i .w32 x)
  | .n32 => .ofInt (Width.u .w32 x)
  | .i64 => .ofInt x.toInt
  | .n64 => .ofInt x.toNat
  | .f16 => fmtF16.value (x.toNat % 2 ^ 16)
  | .f32 => fmtF32.value (x.toNat % 2 ^ 32)
  | .f64 => fmtF64.value x.toNat

/-- The result of FCVT (04 R86): xd and the flags. -/
def CvtType.result (t : CvtType) (m : RMode) (v : FVal) : Word × Nat :=
  match t with
  | .i32 => let (r, fl) := v.toInt m true 32; (BitVec.ofInt 64 r, fl)
  | .n32 => let (r, fl) := v.toInt m false 32; (BitVec.ofInt 64 r, fl)
  | .i64 => let (r, fl) := v.toInt m true 64; (BitVec.ofInt 64 r, fl)
  | .n64 => let (r, fl) := v.toInt m false 64; (BitVec.ofInt 64 r, fl)
  | .f16 => let (r, fl) := fmtF16.round m v; (word r, fl)
  | .f32 => let (r, fl) := fmtF32.round m v; (word r, fl)
  | .f64 => let (r, fl) := fmtF64.round m v; (word r, fl)

end Sys2Proof

namespace Sys2Proof.Machine

/-- FCVT (04 R86). -/
def execFcvt (dst src : CvtType) (rm : RMode) (d a : Reg) (s : State) : Result :=
  match s.mode rm with
  | none => illegal s (.fcvt dst src rm d a)
  | some m =>
    let r := dst.result m (src.operand (s.x a))
    done ((s.raiseF r.2).setX d r.1)

/-- ±a × b ± c with one rounding (04 R87). -/
def fma (i : Instr) (s : State) (f : SFmt) (np na : Bool) (rm : RMode) (d a b c : Reg) : Result :=
  fpRound i s f rm d (fun rdn =>
    fFma rdn (if np then (s.f f a).negate else s.f f a) (s.f f b) (if na then (s.f f c).negate else s.f f c))

/-- FMA.f16 (04 R87). -/
def execFmaF16 (np na : Bool) (rm : RMode) (d a b c : Reg) (s : State) : Result :=
  fma (.fmaF16 np na rm d a b c) s .f16 np na rm d a b c

/-- FMA.f32 (04 R87). -/
def execFmaF32 (np na : Bool) (rm : RMode) (d a b c : Reg) (s : State) : Result :=
  fma (.fmaF32 np na rm d a b c) s .f32 np na rm d a b c

/-- FMA.f64 (04 R87). -/
def execFmaF64 (np na : Bool) (rm : RMode) (d a b c : Reg) (s : State) : Result :=
  fma (.fmaF64 np na rm d a b c) s .f64 np na rm d a b c

end Sys2Proof.Machine
end

