-- ==== Sys2Proof/Machine/Memory.lean ====
section
/-! DEFINITION. Scalar loads and stores (04 R78), LDS and STS (14 R297), AMOs (14 R299 to R301), FENCE (14 R305, R306), PREF, IPREF, CFLUSH
and TLBINV (14 R308 to R312). -/

namespace Sys2Proof.Machine

/-! ### Loads and stores (04 R78) -/

/-- `n` bytes as a signed or unsigned number in a register: Ext(v, 8n, k) (04 R71). -/
def extBytes (signed : Bool) (n v : Nat) : Word := if signed then BitVec.ofInt 64 ((v : Int).bmod (2 ^ (8 * n))) else word v

/-- A load of `n` bytes into xd (04 R78). -/
def loadInstr (s : State) (d : Reg) (va : Word) (n : Nat) (signed : Bool) : Result :=
  orTrap s (s.load s.ctx .hart va n) (fun v => setDone (s.observeAt s.ctx .hart va n) d (extBytes signed n v))

/-- LB (04 R78). -/
def execLb (d a : Reg) (imm : BitVec 15) (s : State) : Result := loadInstr s d (s.ea a imm) 1 true

/-- LBU (04 R78). -/
def execLbu (d a : Reg) (imm : BitVec 15) (s : State) : Result := loadInstr s d (s.ea a imm) 1 false

/-- LH (04 R78). -/
def execLh (d a : Reg) (imm : BitVec 15) (s : State) : Result := loadInstr s d (s.ea a imm) 2 true

/-- LHU (04 R78). -/
def execLhu (d a : Reg) (imm : BitVec 15) (s : State) : Result := loadInstr s d (s.ea a imm) 2 false

/-- LW (04 R78). -/
def execLw (d a : Reg) (imm : BitVec 15) (s : State) : Result := loadInstr s d (s.ea a imm) 4 true

/-- LWU (04 R78). -/
def execLwu (d a : Reg) (imm : BitVec 15) (s : State) : Result := loadInstr s d (s.ea a imm) 4 false

/-- LD (04 R78). -/
def execLd (d a : Reg) (imm : BitVec 15) (s : State) : Result := loadInstr s d (s.ea a imm) 8 false

/-- A store of the low `n` bytes of X(b) (04 R78). -/
def storeInstr (s : State) (b : Reg) (va : Word) (n : Nat) : Result :=
  orTrap s (s.store s.ctx .hart va n ((s.x b).toNat % 2 ^ (8 * n))) done

/-- SB (04 R78). -/
def execSb (b a : Reg) (imm : BitVec 15) (s : State) : Result := storeInstr s b (s.ea a imm) 1

/-- SH (04 R78). -/
def execSh (b a : Reg) (imm : BitVec 15) (s : State) : Result := storeInstr s b (s.ea a imm) 2

/-- SW (04 R78). -/
def execSw (b a : Reg) (imm : BitVec 15) (s : State) : Result := storeInstr s b (s.ea a imm) 4

/-- SD (04 R78). -/
def execSd (b a : Reg) (imm : BitVec 15) (s : State) : Result := storeInstr s b (s.ea a imm) 8

/-! ### Scoped loads and stores (14 R297) -/

/-- The reads a scoped load leaves behind, and its acquire (14 R297; 15 R317, R321), at `sc` on an MMIO register too (DESIGN CHOICE, log entry 81). -/
def State.afterLds (s : State) (sc : Scope) (va : Word) (n : Nat) (acq : Bool) : State :=
  let s := s.observeAt s.ctx sc va n
  if acq then s.acquire (.hart s.cur) sc else s

/-- LDS (14 R297). -/
def execLds (w : Width) (d a : Reg) (imm : BitVec 10) (sc : Scope) (acq : Bool) (s : State) : Result :=
  orTrap s (s.load s.ctx sc (s.ea10 a imm) (w.bits / 8)) (fun v =>
    setDone (s.afterLds sc (s.ea10 a imm) (w.bits / 8) acq) d (extBytes true (w.bits / 8) v))

/-- STS (14 R297): with rel, everything before is carried to `sc` first, on an MMIO register too (DESIGN CHOICE, log entry 81). -/
def execSts (w : Width) (b a : Reg) (imm : BitVec 10) (sc : Scope) (rel : Bool) (s : State) : Result :=
  orTrap s
    ((if rel then s.release (.hart s.cur) sc else s).store s.ctx sc (s.ea10 a imm) (w.bits / 8) (w.u (s.x b))) done

/-! ### AMOs (14 R296, R299 to R301) -/

/-- The bytes of a scalar AMO. -/
def amoBytes (dbl : Bool) : Nat := if dbl then 8 else 4

/-- The address checks of an AMO of `n` bytes (14 R300, R301): its physical address, or the trap; `host` as above. -/
def State.amoTarget (s : State) (c : Ctx) (va : Word) (n : Nat) (host : Bool) : Except Trap Nat :=
  match s.target c .store va n with
  | .error t => .error t
  | .ok (.mem pa _) => if s.homePerforms pa host then .ok pa else .error ⟨7, va⟩
  | .ok _ => .error ⟨7, va⟩

/-- Does the order release, does it acquire (03 R62)? -/
def ordRel : Ord → Bool | .rel => true | .acqrel => true | _ => false

/-- Does the order acquire (03 R62)? -/
def ordAcq : Ord → Bool | .acq => true | .acqrel => true | _ => false

/-- The memory effect of one AMO of `n` bytes at `pa`: it has observed what it read (15 R317), and `new` is what it writes, if it does. -/
def State.amoWrite (s : State) (a : AgentId) (pa n : Nat) (new : Option Nat) : State :=
  match new with
  | some v => (s.amoObserve a pa n).atomicPut a pa n v
  | none => (s.amoObserve a pa n).touch pa

/-- Does a write of `v` to `n` bytes at `pa` set bit 63 of the dword at `p`? -/
def setsTop (pa n v p : Nat) : Bool := pa ≤ p + 7 && p + 7 < pa + n && v.testBit (8 * (p + 7 - pa) + 7)

/-- An AMO has written `new` to `n` bytes at `pa`: a crew whose completion word it sets done in is terminated, and its pieces go with it (19 R380,
R384). -/
def State.endTerminated (s : State) (pa n : Nat) (new : Option Nat) : State :=
  match new with
  | some v =>
    match s.crews.find? (fun cr =>
        match s.target (launchCtx cr.asid cr.ptbase) .load cr.cword 8 with
        | .ok (.mem p _) => setsTop pa n v p
        | _ => false) with
    | some cr => s.dropCrew cr.number
    | none => s
  | none => s

/-- A scalar AMO (14 R300): `f` gives the new value from the old one, none where it does not write; `signed` how xd receives the old one. -/
def amo (s : State) (dbl : Bool) (d a : Reg) (sc : Scope) (ord : Ord) (host signed : Bool) (f : Nat → Option Nat) : Result :=
  let n := amoBytes dbl
  orTrap s (s.amoTarget s.ctx (s.x a) n host) (fun pa =>
    if s.poisoned pa then raise s 33 (s.x a)
    else
      let ag := AgentId.hart s.cur
      let old := leNat (s.amoBytesAt ag pa n)
      let s := if ordRel ord then (s.walkRequests s.ctx (s.x a)).release ag sc else s.walkRequests s.ctx (s.x a)
      let s := (s.amoWrite ag pa n (f old)).endTerminated pa n (f old)
      let s := if ordAcq ord then s.acquire ag sc else s
      setDone s d (extBytes signed n old))

/-- The operand of an AMO, the low bytes of a register (14 R299). -/
def amoOperand (s : State) (dbl : Bool) (r : Reg) : Nat := (s.x r).toNat % 2 ^ (8 * amoBytes dbl)

/-- The signed reading of an AMO's value. -/
def amoSigned (dbl : Bool) (v : Nat) : Int := (v : Int).bmod (2 ^ (8 * amoBytes dbl))

/-- The format of the floating AMOs (14 R299). -/
def amoFmt (dbl : Bool) : FFmt := if dbl then fmtF64 else fmtF32

/-- AMOADD (14 R299). -/
def execAmoadd (dbl : Bool) (d a b : Reg) (sc : Scope) (ord : Ord) (s : State) : Result :=
  amo s dbl d a sc ord true true (fun old => some ((old + amoOperand s dbl b) % 2 ^ (8 * amoBytes dbl)))

/-- AMOAND (14 R299). -/
def execAmoand (dbl : Bool) (d a b : Reg) (sc : Scope) (ord : Ord) (s : State) : Result :=
  amo s dbl d a sc ord false true (fun old => some (old &&& amoOperand s dbl b))

/-- AMOOR (14 R299). -/
def execAmoor (dbl : Bool) (d a b : Reg) (sc : Scope) (ord : Ord) (s : State) : Result :=
  amo s dbl d a sc ord false true (fun old => some (old ||| amoOperand s dbl b))

/-- AMOXOR (14 R299). -/
def execAmoxor (dbl : Bool) (d a b : Reg) (sc : Scope) (ord : Ord) (s : State) : Result :=
  amo s dbl d a sc ord false true (fun old => some (old ^^^ amoOperand s dbl b))

/-- AMOMIN (14 R299). -/
def execAmomin (dbl : Bool) (d a b : Reg) (sc : Scope) (ord : Ord) (s : State) : Result :=
  amo s dbl d a sc ord false true (fun old => some (if amoSigned dbl (amoOperand s dbl b) < amoSigned dbl old then amoOperand s dbl b else old))

/-- AMOMAX (14 R299). -/
def execAmomax (dbl : Bool) (d a b : Reg) (sc : Scope) (ord : Ord) (s : State) : Result :=
  amo s dbl d a sc ord false true (fun old => some (if amoSigned dbl old < amoSigned dbl (amoOperand s dbl b) then amoOperand s dbl b else old))

/-- AMOMINU (14 R299). -/
def execAmominu (dbl : Bool) (d a b : Reg) (sc : Scope) (ord : Ord) (s : State) : Result :=
  amo s dbl d a sc ord false true (fun old => some (min old (amoOperand s dbl b)))

/-- AMOMAXU (14 R299). -/
def execAmomaxu (dbl : Bool) (d a b : Reg) (sc : Scope) (ord : Ord) (s : State) : Result :=
  amo s dbl d a sc ord false true (fun old => some (max old (amoOperand s dbl b)))

/-- AMOSWAP (14 R299). -/
def execAmoswap (dbl : Bool) (d a b : Reg) (sc : Scope) (ord : Ord) (s : State) : Result :=
  amo s dbl d a sc ord true true (fun _ => some (amoOperand s dbl b))

/-- AMOCAS (14 R299): it compares with X(xd). -/
def execAmocas (dbl : Bool) (d a b : Reg) (sc : Scope) (ord : Ord) (s : State) : Result :=
  amo s dbl d a sc ord true true (fun old => if old = amoOperand s dbl d then some (amoOperand s dbl b) else none)

/-- AMOFMAX (14 R299). -/
def execAmofmax (dbl : Bool) (d a b : Reg) (sc : Scope) (ord : Ord) (s : State) : Result :=
  amo s dbl d a sc ord false false (fun old => some ((amoFmt dbl).minMax true old (amoOperand s dbl b)).1)

/-- AMOFMIN (14 R299). -/
def execAmofmin (dbl : Bool) (d a b : Reg) (sc : Scope) (ord : Ord) (s : State) : Result :=
  amo s dbl d a sc ord false false (fun old => some ((amoFmt dbl).minMax false old (amoOperand s dbl b)).1)

/-- The sum AMOFADD writes (14 R299): rounded to nearest even, its flags discarded. -/
def amoFadd (dbl : Bool) (x y : Nat) : Nat :=
  ((amoFmt dbl).round .rne (fAdd false ((amoFmt dbl).value x) ((amoFmt dbl).value y)).1).1

/-- AMOFADD (14 R299). -/
def execAmofadd (dbl : Bool) (d a b : Reg) (sc : Scope) (ord : Ord) (s : State) : Result :=
  amo s dbl d a sc ord false false (fun old => some (amoFadd dbl old (amoOperand s dbl b)))

/-! ### FENCE (14 R306; 15 R322) -/

/-- FENCE (14 R306). -/
def execFence (sc : Scope) (i pr pw sr _sw : Bool) (s : State) : Result :=
  let a := AgentId.hart s.cur
  let s := if pw then s.release a sc else s
  let s := if pr || sr then s.acquire a sc else s
  let s := if i then s.orderFetch s.cur else s
  done s

/-! ### MEMX (14 R308 to R312) -/

/-- PREF (14 R309): a hint without architectural effect. -/
def execPref (_a _b : Reg) (s : State) : Result := done s

/-- IPREF (14 R309): a hint without architectural effect. -/
def execIpref (_a _b : Reg) (s : State) : Result := done s

/-- CFLUSH of `n` bytes at `pa` (14 R310): what agent `a` wrote or observed there is performed at `sc`, and what is performed at `sc` is seen; an
element of an ordered vector store takes the lower ones with it (15 R324). -/
def State.flushRange (s : State) (a : AgentId) (sc : Scope) (pa n : Nat) : State :=
  let s := s.appear a
  let ps := carry (fun p => p.touches pa n && p.appeared && p.heldBy a [.own a]) (s.upTo a sc) s.pend
  { s with pend := bringTo (.own a) (ps.map (fun p => (p.touches pa n && p.atAny (s.upTo a sc), p))) }

/-- CFLUSH of `n` bytes at `pa` within a page: of a page that migrates, the lines already moved lie at their new place (13 R291). -/
def State.flushPage (s : State) (a : AgentId) (sc : Scope) (pa n : Nat) : State :=
  let s := s.flushRange a sc pa n
  match s.moving.find? (fun m => m.moved pa) with
  | some m => if s.responds pa then s.flushRange a sc (m.new + (pa - m.old)) (min n (m.old + m.bytes - pa)) else s
  | none => s

/-- CFLUSH page by page from `va` on, `m` bytes left (14 R310): the state reached, and the trap of a page that faults. -/
def State.flushPages (s : State) (sc : Scope) : Nat → Word → Nat → State × Option Trap
  | 0, _, _ => (s, none)
  | k + 1, va, m =>
    if m = 0 then (s, none)
    else
      let n := min m (4096 - va.toNat % 4096)
      match s.translate s.ctx .load va with
      | .error t => (s, some t)
      | .ok x => (s.flushPage (.hart s.cur) sc x.pa n).flushPages sc k (va + word n) (m - n)

/-- CFLUSH (14 R310). -/
def execCflush (d a b : Reg) (sc : Scope) (s : State) : Result :=
  let m := min (s.x b).toNat (2 ^ 20)
  match s.flushPages sc 257 (s.x a) m with
  | (s, some t) => .next (s.trap t)
  | (s, none) => setDone s d (word m)

/-- The dies whose translation units a TLBINV names (14 R311). -/
def tlbDies (sc : Scope) (die : Nat) : List Nat :=
  if scopeRank sc ≤ 4 then [die] else if scopeRank sc = 5 then [die / 2 * 2, die / 2 * 2 + 1] else List.range 8

/-- What a TLBINV invalidates (14 R311). -/
def tlbRecord (addr sel : Word) (time : Nat) : TlbInv where
  asid := if bitSet sel 11 then none else some (word (bits sel 0 11))
  page := if bitSet sel 12 then none else some (bits addr 12 36)
  globals := !bitSet sel 12 || bitSet sel 13
  time := time

/-- The die an agent of the device acts on (15 R313, R314). -/
def agentDie : AgentId → Option Nat
  | .hart h => some (dieOf h)
  | .ctl c => some (dieOfCluster c)
  | .engine d _ => some d
  | .die d => some d
  | .unit d => some d
  | .host _ => none
  | .pod _ => none

/-- TLBINV (14 R311, R312): earlier stores are performed at `sc`, the entries are invalidated, and the word waits for the accesses that used
them. -/
def execTlbinv (a b : Reg) (sc : Scope) (s : State) : Result :=
  if s.hart.level = .u then illegal s (.tlbinv a b sc)
  else
    let s := s.release (.hart s.cur) sc
    let r := tlbRecord (s.x a) (s.x b) s.tick
    let s := (tlbDies sc (dieOf s.cur)).foldl (fun s d => s.modDie d (fun x => { x with tlb := r :: x.tlb })) s
    .next (s.withHart (fun h => { h with run := .waiting (.tlbinv a b sc s.tick) }))

/-- Has every write made by step `time` from the dies `ds` been performed (14 R312)? -/
def State.performedFrom (s : State) (ds : List Nat) (time : Nat) : Bool :=
  s.pend.all (fun p => p.appeared || decide (time < p.time) || match agentDie p.owner with | some d => !ds.contains d | none => true)

/-- TLBINV_COMPLETE (14 R312): once every access that used an invalidated translation has been performed, the TLBINV retires. -/
def execTlbinvComplete (s : State) : Result :=
  match s.hart.run with
  | .waiting (.tlbinv _ _ sc time) =>
    if s.performedFrom (tlbDies sc (dieOf s.cur)) time then done (s.withHart (fun h => { h with run := .running })) else .next s
  | _ => .next s

/-- WRITE_MOVE (15 R316): a write appears at its first point, or moves to one more point, where it may. -/
def execWriteMove (n : Nat) (q : Point) (s : State) : Result := .next (s.moveAt n q)

end Sys2Proof.Machine
end

