-- ==== Sys2Proof/Machine/System.lean ====
section
/-! DEFINITION. System instructions (04 R91 to R95), asynchronous and user-level interrupt entry (17 R354, R355; 19 R367 to R369), the emulation
of undefined words (19 R372, R373), hart reset (01 R30). -/

namespace Sys2Proof.Machine

/-! ### Calls, breakpoints, returns -/

/-- SYSC (04 R92). -/
def execSysc (s : State) : Result := raise s (match s.hart.level with | .u => 8 | .s => 9 | .m => 11) 0

/-- BRK (04 R92). -/
def execBrk (s : State) : Result := raise s 3 s.hart.pc

/-- TRET (01 R32; 04 R93); at U it is code 2. -/
def execTret (s : State) : Result :=
  if s.hart.level = .u then illegal s .tret else .next { s with hart := (s.hart.retireTo s.hart.pc).tret }

/-- Is an interrupt pending for slot `h`, enabled or not (04 R94; 17 R354; 19 R368)? -/
def State.interruptPending (s : State) (h : Nat) : Bool := s.hirq h &&& 0x15 ≠ 0 || s.hasEntry h

/-- WAITI (04 R94). -/
def execWaiti (s : State) : Result :=
  if s.interruptPending s.cur then done s else .next (s.retire.withHart (fun h => { h with run := .waiting .waiti }))

/-- WAITI_WAKE (04 R94): a pending interrupt wakes the waiting hart. -/
def execWaitiWake (s : State) : Result :=
  if s.hart.run = .waiting .waiti ∧ s.interruptPending s.cur then .next (s.withHart (fun h => { h with run := .running })) else .next s

/-- HALT (04 R95); below M it is code 2. -/
def execHalt (s : State) : Result :=
  if s.hart.level = .m then .next (s.retire.withHart (fun h => { h with run := .halted })) else illegal s .halt

/-! ### Asynchronous interrupts (19 R368, R369) -/

/-- Is the interrupt of code `c` pending and enabled at slot `h` (19 R367, R368)? -/
def State.asyncOn (s : State) (h c : Nat) : Bool := bitSet (s.hirq h) (c - 1) && bitSet (s.hirq h) (31 + c)

/-- Does the hart's level let it take asynchronous interrupts (19 R368)? -/
def Hart.takesAsync (h : Hart) : Bool :=
  match h.level with
  | .u => true
  | .s => bitSet h.trapS.status 0
  | .m => false

/-- The interrupt the current hart takes: the highest code (19 R368). -/
def State.asyncDue (s : State) : Option Nat :=
  if s.hart.takesAsync then [5, 3, 1].find? (fun c => s.asyncOn s.cur c) else none

/-- Is the hart at a point where an asynchronous interrupt can be taken (19 R369)? RPUT, RTAKE and the other waiting words complete first. -/
def Run.stopPoint : Run → Bool
  | .running => true
  | .waiting (.recv _ _ _) => true
  | .waiting (.pnwait _ _ _) => true
  | .waiting (.swait _ _ _) => true
  | .waiting (.skick _ _ _ _) => true
  | .waiting .waiti => true
  | .waiting (.vldq _ _ _) => true
  | .waiting (.vstq _ _) => true
  | .waiting (.drained i) => decide (i = .endHart)
  | .waiting (.slot _) => true
  | .waiting (.fill _ _) => true
  | .waiting (.boundary _) => true
  | _ => false

/-- The serial inside its next convoy at which an interrupt stops a hart that waits at that convoy's start; 0 where there is none (08 R165). -/
def Run.inner : Run → Nat
  | .waiting (.boundary e) => e
  | _ => 0

/-- Does the run state say that a matrix word waits, whose progress a stop keeps (09 R210; 19 R369)? -/
def Run.matrixWait : Run → Bool
  | .waiting (.slot _) => true
  | .waiting (.fill _ _) => true
  | _ => false

/-- A core whose matrix word stops while it waits (09 R210): rv is set; one that waits for its slot and was not a resumed one has completed no
row. -/
def Core.stopWait (k : Core) (w : Run) : Core :=
  match w with
  | .waiting (.slot _) =>
    { k with zrdone := if bitSet k.zstate 62 then k.zrdone else 0, zstate := withBits k.zstate 62 1 1 }
  | .waiting (.fill _ _) => { k with zstate := withBits k.zstate 62 1 1 }
  | _ => k

/-- Entry of asynchronous interrupt `c` (19 R368): hirq.pre is cleared by code 1; a matrix word that waits stops with rv set (09 R210). -/
def State.takeAsync (s : State) (c : Nat) : State :=
  let s := if s.hart.run.matrixWait then s.withCore (fun k => k.stopWait s.hart.run) else s
  let s := s.withHart (fun h => h.asyncEntry c h.pc)
  if c = 1 then s.setHirqBit s.cur 0 false else s

/-- ASYNC_INTERRUPT_ENTRY (19 R368). -/
def execAsyncInterruptEntry (s : State) : Result :=
  match s.asyncDue with
  | some c => if s.hart.run.stopPoint then .next (s.takeAsync c) else .next s
  | none => .next s

/-! ### User-level entries (17 R354, R355) -/

/-- The oldest entry queued for the current hart (17 R353). -/
def State.nextEntry (s : State) : Option UEntry := s.core.uqueue.find? (fun e => e.slot = slotOf s.cur)

/-- May the current hart take a user-level entry now (17 R354; 19 R373)? -/
def State.userDue (s : State) : Option UEntry :=
  if s.hart.level = .u && bitSet s.hart.uhandler 0 && !bitSet s.hart.uhandler 1 && !s.hart.emu
      && (match s.hart.run with
          | .running => true
          | .waiting (.vldq _ _ _) => true
          | .waiting (.vstq _ _) => true
          | .waiting .waiti => true
          | _ => false)
  then s.nextEntry else none

/-- uxid of an entry (17 R352, R354). -/
def UEntry.uxid (e : UEntry) (ov : Bool) : Word := word (e.xid.toNat + e.status % 8 * 2 ^ 60 + bit ov * 2 ^ 63)

/-- The hart after it takes entry `e` (17 R354). -/
def Hart.userEntry (h : Hart) (e : UEntry) : Hart :=
  let h := h.settle
  { (h.setReg 5 (e.uxid h.ov)).setReg 6 e.mbox with
    ushadow0 := h.pc
    ushadow1 := h.reg 5
    ushadow2 := h.reg 6
    ushadow3 := h.reg 13
    uxid := e.uxid h.ov
    ov := false
    uhandler := withBits h.uhandler 1 1 1
    run := .running
    pc := if e.handler ≠ 0 then withBits e.handler 0 2 0 else withBits h.uhandler 0 2 0 }

/-- USER_INTERRUPT_ENTRY (17 R354): the oldest entry is taken, with the acquire of its mailbox. -/
def execUserInterruptEntry (s : State) : Result :=
  match s.userDue with
  | none => .next s
  | some e =>
    .next (((s.withCore (fun c => { c with uqueue := c.uqueue.erase e })).withHart (fun h => h.userEntry e)).acquire (.hart s.cur) .device)

/-- UIRET (17 R355); a ushadow0 that is not word-aligned is a misaligned target (01 R14). -/
def execUiret (s : State) : Result :=
  if bitSet s.hart.uhandler 1 then
    if bits s.hart.ushadow0 0 2 ≠ 0 then raise s 0 s.hart.ushadow0
    else
      .next (s.withHart (fun h =>
        { (((h.setReg 5 h.ushadow1).setReg 6 h.ushadow2).setReg 13 h.ushadow3).retireTo h.ushadow0 with
          uhandler := withBits h.uhandler 1 1 0 }))
  else raise s 32 0

/-! ### Undefined words (19 R372, R373) -/

/-- UNDEFINED_WORD (19 R372). -/
def execUndefinedWord (w : Word32) (s : State) : Result :=
  if s.hart.level = .u ∧ bitSet s.hart.ebase 0 then
    (if s.hart.emu then raise s 34 (zext 32 w) else .next (s.withHart (fun h => h.emulate w)))
  else raise s 2 (zext 32 w)

/-- EMRET (19 R373). -/
def execEmret (s : State) : Result :=
  if s.hart.emu then .next (s.withHart (fun h => (h.retireTo h.eshadow).setEmu false)) else illegal s .emret

/-! ### Hart reset (01 R30) -/

/-- The state of slot `h` of 01 R30: its grant fields as lanecap and pwrcap stand (05 R101), its cycle from now on. -/
def State.freshHart (s : State) (h : Nat) : Hart :=
  let c := s.coreAt (coreOf h)
  let held := s.lanesFor h
  let p := laneLimitOf c.pwrcap (slotOf h)
  { Hart.reset (slotOf h) with
    held := held
    vgrant := vgrantOf (min (laneCount held) p) (laneCount held) p 0 0
    cycleBase := word s.clk
    stay := newStay h s.tick }

/-- HART_RESET (01 R30): one slot of an admitted die takes its reset state; what its core shares stays, and the cores of a quarantined die stay as
they are until its admission (22 R416). DESIGN CHOICE (log entry 47): its hirq stays too, for 19 R367 names no hart reset among what clears it. -/
def execHartReset (hart : Nat) (s : State) : Result :=
  if isHart hart && s.admitted (dieOf hart) then
    let s := ((s.releaseChannels hart).unbindAll hart).dropEntries hart
    .next (s.setHart hart (s.freshHart hart))
  else .next s

end Sys2Proof.Machine
end

