-- ==== Sys2Proof/Machine/VectorConfig.lean ====
section
/-! DEFINITION. The vector configuration: its fields, VCONFIG, VSETVL and VSETROWS (05 R101, R104 to R110; 11 R246 to R248). -/

namespace Sys2Proof.Machine

/-! ### Fields -/

/-- The register count (05 R104). -/
def Hart.vcount (h : Hart) : Nat := 8 * 2 ^ bits h.vtype 4 2

/-- The widest width W in bits (05 R104). -/
def Hart.vwidth (h : Hart) : Nat := 8 * 2 ^ bits h.vtype 6 2

/-- The granted lanes G as the hart's last grant point left them (05 R101). -/
def Hart.g (h : Hart) : Nat := bits h.vgrant 0 4

/-- MAXVL (05 R101). -/
def Hart.maxvl (h : Hart) : Nat := bits h.vgrant 18 14

/-- rows (05 R105). -/
def Hart.nrows (h : Hart) : Nat := bits h.rows 0 7

/-- vl (05 R105). -/
def Hart.ncols (h : Hart) : Nat := bits h.vl 0 14

/-- vstart (05 R105). -/
def Hart.start (h : Hart) : Nat := bits h.vstart 0 14

/-- vtype.rep (05 R104). -/
def Hart.rep (h : Hart) : Nat := bits h.vtype 24 12

/-- vtype.wofs (05 R104). -/
def Hart.wofs (h : Hart) : Nat := bits h.vtype 40 6

/-- vgrant with maxvl and gmax replaced (05 R101). -/
def Hart.setMaxvl (h : Hart) (maxvl gmax : Nat) : Hart := { h with vgrant := withBits (withBits h.vgrant 18 14 maxvl) 32 14 gmax }

/-- vtype with a field replaced (05 R104). -/
def Hart.setVtype (h : Hart) (lo len v : Nat) : Hart := { h with vtype := withBits h.vtype lo len v }

/-! ### Grants -/

/-- LaneLimit() of the current hart (11 R247). -/
def State.laneLimit (s : State) : Nat := laneLimitOf s.core.pwrcap (slotOf s.cur)

/-- LaneLimit() as a VSETVL sees it: erratum A1-E03 lets it use the p field from before a late write (24 R439). -/
def State.laneLimitSeen (s : State) : Nat := laneLimitOf (s.pwrSeen (coreOf s.cur)) (slotOf s.cur)

/-- What a grant point of the lanes ends: a throttle for a lowered gl (11 R248). -/
def Hart.grantPoint (h : Hart) (held : BitVec 8) : Hart := { h with held := held, loweredGl := none, throttledV := false }

/-- Relayout(G) of 05 R109: the register file is cleared, and MAXVL follows G. -/
def Hart.relayout (h : Hart) (g : Nat) : Hart :=
  let mv := g * 65536 / (h.vcount * h.vwidth)
  let h := ({ h with vgrant := withBits h.vgrant 0 4 g } : Hart).clearVector.setVtype 17 1 1
  if mv < 16 then (h.setMaxvl 0 0).setVtype 63 1 1
  else { h.setMaxvl mv (bits h.vgrant 32 14) with rows := word (min h.nrows mv) }

/-! ### VCTL -/

/-- Is the number a register count or a width of 05 R108? -/
def vcfgOk (n : Nat) : Bool := n = 8 || n = 16 || n = 32 || n = 64

/-- VCONFIG (05 R108). -/
def execVconfig (d a b : Reg) (s : State) : Result :=
  let held := s.lanesFor s.cur
  let p := s.laneLimit
  let g := min (laneCount held) p
  let cnt := (s.x a).toNat
  let wid := (s.x b).toNat
  let mv := if vcfgOk cnt && vcfgOk wid then g * 65536 / (cnt * wid) else 0
  let h := (s.hart.grantPoint held).clearVector
  let h := if mv < 16 then
      { h with vl := 0, rows := 1, vstart := 0, vtype := vtypeIll, vgrant := vgrantOf g (laneCount held) p 0 0 }
    else
      { h with
        vl := 0
        rows := 1
        vstart := 0
        vtype := word ((cnt.log2 - 3) * 2 ^ 4 + (wid.log2 - 3) * 2 ^ 6)
        vgrant := vgrantOf g (laneCount held) p mv mv }
  setDone { s with hart := h } d (word (if mv < 16 then 0 else mv))

/-- The hart after VSETVL up to the new vl: the grant evaluated afresh, with a relayout where it changed (05 R109). -/
def Hart.regrant (h : Hart) (held : BitVec 8) (p : Nat) : Hart :=
  let g := min (laneCount held) p
  let h := h.grantPoint held
  let h := { h with vgrant := withBits (withBits h.vgrant 4 4 (laneCount held)) 8 4 p }
  let h := if g = h.g then h.setVtype 17 1 0 else h.relayout g
  { h.setVtype 16 1 0 with vstart := 0 }

/-- Fetching of the hart's input streams resumes (17 R340). -/
def Hart.resumeStreams (h : Hart) : Hart :=
  { h with streams := Tab.mapVals Stream.unbound h.streams (fun t => if t.bound && !t.out then { t with resume := true } else t) }

/-- VSETVL (05 R109; 17 R340). -/
def execVsetvl (d a : Reg) (s : State) : Result :=
  if s.hart.ill then raise s 16 0
  else
    let h := s.hart.regrant (s.lanesFor s.cur) s.laneLimitSeen
    if h.ill then setDone { s with hart := { h.resumeStreams with vl := 0 } } d 0
    else
      let gmax := h.maxvl / h.nrows
      let n := min (s.x a).toNat gmax
      setDone { s with hart := { h.resumeStreams with vl := word n, vgrant := withBits h.vgrant 32 14 gmax } } d (word n)

/-- VSETROWS (05 R110). -/
def execVsetrows (d a : Reg) (s : State) : Result :=
  if s.hart.ill then raise s 16 0
  else
    let q := (s.x a).toNat
    if q = 0 ∨ 64 < q ∨ s.hart.maxvl < q then
      setDone { s with hart := { (s.hart.setMaxvl 0 0).setVtype 63 1 1 with vl := 0 } } d 0
    else
      let gmax := s.hart.maxvl / q
      setDone { s with
        hart := { s.hart with rows := word q, vl := word (min s.hart.ncols gmax), vgrant := withBits s.hart.vgrant 32 14 gmax } } d (word q)

end Sys2Proof.Machine
end

