-- ==== Sys2Proof/Machine/Vector.lean ====
section
/-! DEFINITION. Vector elements: tags, values and delivery under a result tag (05 R102, R103, R113; 06 R126 to R136; 07 R160), registers, masks
and poison, and a block word prepared at the start of its convoy (05 R114, R118; 07 R159, R160, R189). -/

namespace Sys2Proof.Machine

/-! ### Tags (06 R126) -/

/-- Storage bits of a tag (05 R103); 0 for a code that is no tag. -/
def tagBits (t : Nat) : Nat :=
  match t with
  | 0 => 8 | 1 => 8 | 2 => 16 | 3 => 16 | 4 => 32 | 5 => 32 | 6 => 64 | 7 => 64 | 8 => 16 | 9 => 16 | 10 => 32 | 11 => 64
  | 12 => 8 | 13 => 8 | 14 => 4 | 15 => 8 | 16 => 8 | 17 => 4 | 18 => 8
  | _ => 0

/-- Is the code a tag (06 R126)? -/
def isTag (t : Nat) : Bool := t < 19

/-- Integer tags (06 R126). -/
def isIntTag (t : Nat) : Bool := t < 8 || t = 17

/-- Signed integer tags (06 R126). -/
def isSignedTag (t : Nat) : Bool := t = 0 || t = 2 || t = 4 || t = 6 || t = 17

/-- f16, bf16, f32 and f64. -/
def isWideFloat (t : Nat) : Bool := 8 ≤ t && t ≤ 11

/-- Narrow floats (05 R113). -/
def isNarrow (t : Nat) : Bool := 12 ≤ t && t ≤ 16

/-- Floating tags other than e8m0. -/
def isFloatTag (t : Nat) : Bool := isWideFloat t || isNarrow t

/-- The format of a floating tag (02 R38; 06 R128). -/
def tagFmt (t : Nat) : FFmt :=
  match t with
  | 8 => fmtF16 | 9 => fmtBf16 | 10 => fmtF32 | 11 => fmtF64 | 12 => fmtE4m3 | 13 => fmtE5m2 | 14 => fmtE2m1 | 15 => fmtE2m3
  | _ => fmtE3m2

/-- The bits of an element that its tag uses (06 R127): six of the eight of e2m3 and e3m2. -/
def usedBits (t : Nat) : Nat := if t = 15 ∨ t = 16 then 6 else tagBits t

/-- An operand's exact value: an integer, or a floating value (07 R159). -/
inductive Val
  | int (v : Int)
  | flt (v : FVal)
  deriving DecidableEq, Repr

/-- The value as a floating value. -/
def Val.f : Val → FVal | .int v => FVal.ofInt v | .flt v => v

/-- The value of element bits under a tag (07 R159; 06 R128 to R131). -/
def valueOf (t b : Nat) : Val :=
  if isIntTag t then .int (if isSignedTag t then (b : Int).bmod (2 ^ tagBits t) else b)
  else if t = 18 then .flt (valueE8m0 b)
  else .flt ((tagFmt t).value (b % 2 ^ usedBits t))

/-- Delivery of a value under result tag `t` (07 R160): the element bits and the floating flags. -/
def deliver (t : Nat) (m : RMode) (ovf : Bool) (v : Val) : Nat × Nat :=
  if isIntTag t then
    match v with
    | .int x => ((x % 2 ^ tagBits t).toNat, 0)
    | .flt x => let (r, fl) := x.toInt m (isSignedTag t) (tagBits t); ((r % 2 ^ tagBits t).toNat, fl)
  else if t = 18 then narrowE8m0 v.f
  else if isNarrow t then (tagFmt t).narrow ovf v.f
  else (tagFmt t).round m v.f

/-- The integer tag of a width and signedness. -/
def intTag (n : Nat) (signed : Bool) : Nat := (if n = 8 then 0 else if n = 16 then 2 else if n = 32 then 4 else 6) + (if signed then 0 else 1)

/-- The result tag of two source tags (05 R113); none for e8m0 and for codes that are no tags. -/
def joinTags (a b : Nat) : Option Nat :=
  let a := if a = 17 then 0 else a
  let b := if b = 17 then 0 else b
  if 18 ≤ a ∨ 18 ≤ b then none
  else if isIntTag a && isIntTag b then some (intTag (max (tagBits a) (tagBits b)) (isSignedTag a || isSignedTag b))
  else if a = b ∧ isNarrow a = false then some a
  else if a = 11 ∨ b = 11 then some 11
  else if isIntTag a then some (if isNarrow b then 10 else b)
  else if isIntTag b then some (if isNarrow a then 10 else a)
  else some 10

/-! ### Registers, masks, poison (05 R102, R103, R116) -/

/-- Bits of element `e` of register `r` under tag `t` (05 R103; 06 R127). -/
def Hart.elem (h : Hart) (r t e : Nat) : Nat := Tab.get 0 h.v r / 2 ^ (e * tagBits t) % 2 ^ usedBits t

/-- The poison bit of element `e` of register `r`. -/
def Hart.poisonBit (h : Hart) (r e : Nat) : Bool := (Tab.get 0 h.vpois r).testBit e

/-- The tag of register `r`. -/
def Hart.tagOf (h : Hart) (r : Nat) : Nat := Tab.get 0 h.vtag r

/-- The tag a word of a convoy reads register `r` under: that of the last earlier word that writes it, if one does (05 R118). -/
def Hart.tagVia (h : Hart) (tags : List (Nat × Nat)) (r : Nat) : Nat :=
  match tags.find? (fun p => p.1 = r) with
  | some p => p.2
  | none => h.tagOf r

/-- Element `e` of register `r` written under tag `t`, with its poison bit. -/
def Hart.setElem (h : Hart) (r t e b : Nat) (p : Bool) : Hart :=
  { h with
    v := Tab.modify 0 h.v r (fun x => putBits x (e * tagBits t) (tagBits t) (b % 2 ^ usedBits t))
    vpois := Tab.modify 0 h.vpois r (fun x => putBits x e 1 (bit p)) }

/-- Bit `e` of mask register `m`; m0 reads as all ones (05 R116). -/
def Hart.maskBit (h : Hart) (m e : Nat) : Bool := m = 0 || (Tab.get 0 h.m m).testBit e

/-- Bit `e` of mask register `m` written. -/
def Hart.setMaskBit (h : Hart) (m e : Nat) (b : Bool) : Hart := { h with m := Tab.modify 0 h.m m (fun x => putBits x e 1 (bit b)) }

/-- Does the predicate of a word select serial `e` (07 R148)? -/
def Hart.selects (h : Hart) (f : Fields) (e : Nat) : Bool := h.maskBit f.pm.toNat e != f.pn

/-- rows × vl (05 R106). -/
def Hart.total (h : Hart) : Nat := h.nrows * h.ncols

/-! ### A word prepared at the start of its convoy -/

/-- A block word as its convoy runs it: the instruction and fields under the repetition's renaming, its offset in the block, the tags its operands
are read under (05 R118), the scalars read at the start (07 R159), its result tag and mode, the registers, and whether the predicate mask, whose
content at the convoy's start it reads (07 R159, R164), a check mismatch that strikes it (20 R390), the first serial and the number of serials,
whether a reduction finds an active element among them (08 R179), and how far it came below the first serial, where it was stopped there (08 R165).
-/
structure Prep where
  i : Instr
  f : Fields
  off : Nat
  t1 : Nat
  t2 : Nat
  t3 : Nat
  td : Nat
  rt : Nat
  x : Word
  x2 : Word
  mode : RMode
  old : List Nat
  oldMask : Bool
  mism : Option (Nat × Nat)
  start : Nat
  total : Nat
  cols : Nat
  rowsN : Nat
  maxvl : Nat
  hpage : Bool
  wtag : Nat
  live : Bool
  part : Option Partial
  deriving DecidableEq, Repr

/-- What a word has done so far in its convoy: an active element was met, elements were written, the serial it was trimmed at, its poisoned
elements, its running value and whether it holds one. -/
structure WordRun where
  met : Bool
  wrote : Bool
  trimmed : Option Nat
  pcount : Nat
  pfirst : Nat
  acc : Nat
  held : Bool
  deriving DecidableEq, Repr

/-- A word that has done nothing yet. -/
def WordRun.fresh : WordRun := ⟨false, false, none, 0, 0, 0, false⟩

/-- A word as it starts: one resumed goes on from where it was below the stop (08 R165). -/
def Prep.begun (p : Prep) : WordRun :=
  match p.part with
  | some q => { WordRun.fresh with acc := q.acc, held := q.held, trimmed := q.trimmed, pcount := q.pcount, pfirst := q.pfirst }
  | none => WordRun.fresh

/-- Did the word meet an active element before it was stopped (08 R165)? -/
def Prep.wasMet (p : Prep) : Bool := match p.part with | some q => q.met | none => false

/-- What a word makes of one element: it writes vd[e] or md[e], with poison, floating flags and vxflags; it writes vd at serial k; it goes on
to a new running value; nothing; or it stops. -/
inductive Eff
  | write (b : Nat) (p : Bool) (fl vx : Nat)
  | mask (b : Bool) (p : Bool) (fl : Nat)
  | writeAt (k b : Nat) (p : Bool) (fl : Nat)
  | acc (v : Nat) (fl : Nat)
  | none
  | stop (t : Trap)
  deriving DecidableEq, Repr

/-- Element `e` of a vector source register: bits and poison, from the convoy's start `h0` where the word itself or a later one of its convoy writes
the register (08 R159). -/
def Prep.src (p : Prep) (h0 h : Hart) (r : BitVec 6) (t e : Nat) : Nat × Bool :=
  let hh := if p.old.contains r.toNat then h0 else h
  (hh.elem r.toNat t e, hh.poisonBit r.toNat e)

/-- Operand a, element `e` of vs1 (07 R159). -/
def Prep.a (p : Prep) (h0 h : Hart) (e : Nat) : Val × Bool :=
  let s := p.src h0 h p.f.vs1 p.t1 e
  (valueOf p.t1 s.1, s.2)

/-- Operand b: element `e` of vs2, or X(xs) under the tag of vs1 (07 R159). -/
def Prep.b (p : Prep) (h0 h : Hart) (e : Nat) : Val × Bool :=
  if p.f.sx then (valueOf p.t1 (p.x.toNat % 2 ^ tagBits p.t1), false)
  else let s := p.src h0 h p.f.vs2 p.t2 e; (valueOf p.t2 s.1, s.2)

/-- Operand c, element `e` of vs3. -/
def Prep.c (p : Prep) (h0 h : Hart) (e : Nat) : Val × Bool :=
  let s := p.src h0 h p.f.vs3 p.t3 e
  (valueOf p.t3 s.1, s.2)

/-- Is the mode RDN? -/
def Prep.rdn (p : Prep) : Bool := decide (p.mode = .rdn)

/-- A value and its flags delivered under the word's result tag. -/
def Prep.give (p : Prep) (r : Val × Nat) (poison : Bool) (vx : Nat) : Eff :=
  let (b, fl) := deliver p.rt p.mode p.f.ovf r.1
  .write b poison (r.2 ||| fl) vx

/-- A word of one operand: its value. -/
def Prep.unary (p : Prep) (h0 h : Hart) (e : Nat) (op : Val → Val × Nat) : Eff :=
  let (a, pa) := p.a h0 h e
  p.give (op a) pa 0

/-- A word of two operands: its value. -/
def Prep.binary (p : Prep) (h0 h : Hart) (e : Nat) (op : Val → Val → Val × Nat) : Eff :=
  let (a, pa) := p.a h0 h e
  let (b, pb) := p.b h0 h e
  p.give (op a b) (pa || pb) 0

/-- tval of code 18 (05 R114): the stated tag, and the tags of vs3, vs2 and vs1 where they name vector registers. -/
def tagTval (stated t3 t2 t1 : Nat) : Word := word (t1 + t2 * 2 ^ 8 + t3 * 2 ^ 16 + stated * 2 ^ 24)

/-- row and column of a serial (05 R106). -/
def Prep.row (p : Prep) (e : Nat) : Nat := e / p.cols
/-- Column of a serial (05 R106). -/
def Prep.col (p : Prep) (e : Nat) : Nat := e % p.cols

end Sys2Proof.Machine
end

