-- ==== Sys2Proof/Machine/VectorArith.lean ====
section
/-! DEFINITION. What the arithmetic words make of one element (08 R166 to R174). -/

namespace Sys2Proof.Machine

/-! ### Values -/

/-- a + b (08 R167). -/
def vAddV (rdn : Bool) (a b : Val) : Val × Nat :=
  match a, b with
  | .int x, .int y => (.int (x + y), 0)
  | _, _ => let (v, fl) := fAdd rdn a.f b.f; (.flt v, fl)

/-- a − b (08 R167). -/
def vSubV (rdn : Bool) (a b : Val) : Val × Nat :=
  match a, b with
  | .int x, .int y => (.int (x - y), 0)
  | _, _ => let (v, fl) := fAdd rdn a.f b.f.negate; (.flt v, fl)

/-- a × b (08 R167). -/
def vMulV (a b : Val) : Val × Nat :=
  match a, b with
  | .int x, .int y => (.int (x * y), 0)
  | _, _ => let (v, fl) := fMul a.f b.f; (.flt v, fl)

/-- ±a × b ± c (08 R167). -/
def vFmaV (rdn np na : Bool) (a b c : Val) : Val × Nat :=
  match a, b, c with
  | .int x, .int y, .int z => (.int ((if np then -1 else 1) * x * y + (if na then -1 else 1) * z), 0)
  | _, _, _ =>
    let (v, fl) := fFma rdn (if np then a.f.negate else a.f) b.f (if na then c.f.negate else c.f)
    (.flt v, fl)

/-- minimumNumber or maximumNumber on values (02 R43). -/
def fMinMax (mx : Bool) (a b : FVal) : FVal × Nat :=
  let fl := sigFlag [a, b]
  if a.isNan && b.isNan then (.nan false, fl)
  else if a.isNan then (b, fl)
  else if b.isNan then (a, fl)
  else if mx then (if fBelow a b then b else a, fl)
  else (if fBelow b a then b else a, fl)

/-- The smaller or larger of two values (08 R167). -/
def vMinMaxV (mx : Bool) (a b : Val) : Val × Nat :=
  match a, b with
  | .int x, .int y => (.int (if mx then max x y else min x y), 0)
  | _, _ => let (v, fl) := fMinMax mx a.f b.f; (.flt v, fl)

/-- A floating operation of one operand on a value. -/
def fltOp (op : FVal → FVal × Nat) (a : Val) : Val × Nat := let (v, fl) := op a.f; (.flt v, fl)

/-- The integer width of a word (08 R167, R168): that of T where T is an integer tag, else that of the sources' result tag. -/
def Prep.intTagOf (p : Prep) : Nat :=
  if isIntTag p.rt then p.rt else (joinTags p.t1 (if p.f.sx then p.t1 else p.t2)).getD 0

/-- An integer value as an integer tag reads its low bits (02 R36). -/
def readAs (t : Nat) (v : Int) : Int := if isSignedTag t then v.bmod (2 ^ tagBits t) else v % 2 ^ tagBits t

/-- The integer of a value; floating values have none. -/
def Val.i : Val → Int | .int v => v | .flt _ => 0

/-! ### Elements, word by word -/

/-- An operand as a word under T takes it (08 R167, R160): under a floating T an integer is the floating value equal to it, so that zero
results have the signs of 02 R45. Log entry 26. -/
def Prep.under (p : Prep) (v : Val) : Val := if isIntTag p.rt then v else .flt v.f

/-- VADD (08 R167). -/
def elemVadd (p : Prep) (h0 h : Hart) (e : Nat) : Eff := p.binary h0 h e (fun a b => vAddV p.rdn (p.under a) (p.under b))

/-- VSUB (08 R167). -/
def elemVsub (p : Prep) (h0 h : Hart) (e : Nat) : Eff := p.binary h0 h e (fun a b => vSubV p.rdn (p.under a) (p.under b))

/-- VMUL (08 R167). -/
def elemVmul (p : Prep) (h0 h : Hart) (e : Nat) : Eff := p.binary h0 h e (fun a b => vMulV (p.under a) (p.under b))

/-- VMULH (08 R167): bits [2n−1:n] of the exact product. DESIGN CHOICE (log entry 68): a floating result receives them as the number that the
signedness of R113's tag makes of them. -/
def elemVmulh (p : Prep) (h0 h : Hart) (e : Nat) : Eff :=
  let t := p.intTagOf
  p.binary h0 h e (fun a b => (.int (readAs t ((a.i * b.i).fdiv (2 ^ tagBits t))), 0))

/-- What a case of R36 does to the word (08 R168): it stops where the vxtrap enable is set and no operand is poisoned. -/
def divStop (h : Hart) (poison : Bool) : DivCase → Option Trap
  | .normal => none
  | .byZero => if bitSet h.vxtrap 1 && !poison then some ⟨12, 1⟩ else none
  | .overflow => if bitSet h.vxtrap 0 && !poison then some ⟨12, 2⟩ else none

/-- An integer division of one element (08 R168): `rem` asks for the remainder. -/
def divElem (p : Prep) (h0 h : Hart) (e : Nat) (rem : Bool) : Eff :=
  let t := p.intTagOf
  let sg := isSignedTag t
  let n := tagBits t
  let (a, pa) := p.a h0 h e
  let (b, pb) := p.b h0 h e
  let x := readAs t a.i
  let y := readAs t b.i
  let c := divCase sg n x y
  match divStop h (pa || pb) c with
  | some t' => .stop t'
  | none => p.give (.int (if rem then divRem sg n x y else divQuot sg n x y), 0) (pa || pb) (divFlag c)

/-- The case of R36 that two exact values meet at width n (08 R168). -/
def divCaseV (signed : Bool) (n : Nat) (a b : FVal) : DivCase :=
  if fEqual b (FVal.ofInt 0) then .byZero
  else if signed && fEqual a (FVal.ofInt (-2 ^ (n - 1))) && fEqual b (FVal.ofInt (-1)) then .overflow
  else .normal

/-- The quotient of R36 of two exact values at the width of integer tag `t`, truncated toward zero (08 R168); one without an integer of that width
is delivered as 02 R46 has it. -/
def divQuotV (t : Nat) (a b : FVal) : Int × Nat :=
  let sg := isSignedTag t
  let n := tagBits t
  match divCaseV sg n a b with
  | .byZero => (if sg then -1 else 2 ^ n - 1, 0)
  | .overflow => (-2 ^ (n - 1), 0)
  | .normal =>
    let (q, fl) := fDiv a b
    let (v, fl2) := q.toInt .rtz sg n
    (v, fl ||| (fl2 &&& NV))

/-- A division with an integer T of which a source is floating (08 R167, R168). DESIGN CHOICE (log entry 57): R36 is taken on the exact values. -/
def divFloatElem (p : Prep) (h0 h : Hart) (e : Nat) : Eff :=
  let (a, pa) := p.a h0 h e
  let (b, pb) := p.b h0 h e
  let c := divCaseV (isSignedTag p.rt) (tagBits p.rt) a.f b.f
  match divStop h (pa || pb) c with
  | some t => .stop t
  | none => let (v, fl) := divQuotV p.rt a.f b.f; p.give (.int v, fl) (pa || pb) (divFlag c)

/-- VDIV (08 R167, R168): R36 where T is an integer tag, else the quotient of the exact values. -/
def elemVdiv (p : Prep) (h0 h : Hart) (e : Nat) : Eff :=
  if isIntTag p.rt then
    (if isIntTag p.t1 && (p.f.sx || isIntTag p.t2) then divElem p h0 h e false else divFloatElem p h0 h e)
  else p.binary h0 h e (fun a b => let (v, fl) := fDiv a.f b.f; (.flt v, fl))

/-- VREM (08 R168). -/
def elemVrem (p : Prep) (h0 h : Hart) (e : Nat) : Eff := divElem p h0 h e true

/-- VMIN (08 R167). -/
def elemVmin (p : Prep) (h0 h : Hart) (e : Nat) : Eff := p.binary h0 h e (vMinMaxV false)

/-- VMAX (08 R167). -/
def elemVmax (p : Prep) (h0 h : Hart) (e : Nat) : Eff := p.binary h0 h e (vMinMaxV true)

/-- A word that changes only the sign (08 R167): on the bits of a float without override, else on the value, which is delivered under the result tag
(DESIGN CHOICE, log entry 50). -/
def signElem (p : Prep) (h0 h : Hart) (e : Nat) (onInt : Int → Int) (onSign : Bool → Bool) : Eff :=
  let s := p.src h0 h p.f.vs1 p.t1 e
  let fm := tagFmt p.t1
  if isFloatTag p.t1 && !p.f.to then
    .write (s.1 % 2 ^ (fm.width - 1) + fm.sign (onSign (s.1.testBit (fm.width - 1)))) s.2 0 0
  else
    match valueOf p.t1 s.1 with
    | .int v => p.give (.int (onInt v), 0) s.2 0
    | .flt v => p.give (.flt (if onSign v.neg = v.neg then v else v.negate), 0) s.2 0

/-- VABS (08 R167). -/
def elemVabs (p : Prep) (h0 h : Hart) (e : Nat) : Eff := signElem p h0 h e (fun v => (v.natAbs : Int)) (fun _ => false)

/-- VNEG (08 R167). -/
def elemVneg (p : Prep) (h0 h : Hart) (e : Nat) : Eff := signElem p h0 h e (fun v => -v) (fun n => !n)

/-- VFMA (08 R167). -/
def elemVfma (p : Prep) (h0 h : Hart) (e : Nat) : Eff :=
  let (a, pa) := p.a h0 h e
  let (b, pb) := p.b h0 h e
  let (c, pc) := p.c h0 h e
  p.give (vFmaV p.rdn (p.f.fn.testBit 1) (p.f.fn.testBit 0) (p.under a) (p.under b) (p.under c)) (pa || pb || pc) 0

/-- A bitwise word on the two's-complement forms at the width of T (08 R167). -/
def bitElem (p : Prep) (h0 h : Hart) (e : Nat) (op : Nat → Nat → Nat) : Eff :=
  let n := tagBits p.rt
  p.binary h0 h e (fun a b => (.int (op (a.i % 2 ^ n).toNat (b.i % 2 ^ n).toNat), 0))

/-- VAND (08 R167). -/
def elemVand (p : Prep) (h0 h : Hart) (e : Nat) : Eff := bitElem p h0 h e (fun a b => a &&& b)

/-- VOR (08 R167). -/
def elemVor (p : Prep) (h0 h : Hart) (e : Nat) : Eff := bitElem p h0 h e (fun a b => a ||| b)

/-- VXOR (08 R167). -/
def elemVxor (p : Prep) (h0 h : Hart) (e : Nat) : Eff := bitElem p h0 h e (fun a b => a ^^^ b)

/-- A shift at the width n of T, by the low log2(n) bits of b (08 R167; 04 R73). -/
def shiftElem (p : Prep) (h0 h : Hart) (e : Nat) (op : Int → Nat → Int) : Eff :=
  let n := tagBits p.rt
  p.binary h0 h e (fun a b => (.int (op a.i ((b.i % n).toNat)), 0))

/-- VSLL (08 R167). -/
def elemVsll (p : Prep) (h0 h : Hart) (e : Nat) : Eff := shiftElem p h0 h e (fun a k => a * 2 ^ k)

/-- VSRL (08 R167): zeros enter. -/
def elemVsrl (p : Prep) (h0 h : Hart) (e : Nat) : Eff := shiftElem p h0 h e (fun a k => a % 2 ^ tagBits p.rt / 2 ^ k)

/-- VSRA (08 R167): the sign of the n-bit value enters. -/
def elemVsra (p : Prep) (h0 h : Hart) (e : Nat) : Eff := shiftElem p h0 h e (fun a k => (a.bmod (2 ^ tagBits p.rt)).fdiv (2 ^ k))

/-- vxflags.sat (08 R162). -/
def vxSat : Nat := 4

/-- An integer clamped to the range of an integer tag, and vxflags.sat where that changed it (08 R167, R172). -/
def clampTo (t : Nat) (v : Int) : Int × Nat :=
  let lo : Int := if isSignedTag t then -2 ^ (tagBits t - 1) else 0
  let hi : Int := if isSignedTag t then 2 ^ (tagBits t - 1) - 1 else 2 ^ tagBits t - 1
  if v < lo then (lo, vxSat) else if hi < v then (hi, vxSat) else (v, 0)

/-- A saturating word (08 R167). -/
def satElem (p : Prep) (h0 h : Hart) (e : Nat) (op : Int → Int → Int) : Eff :=
  let (a, pa) := p.a h0 h e
  let (b, pb) := p.b h0 h e
  let (v, sat) := clampTo p.rt (op a.i b.i)
  p.give (.int v, 0) (pa || pb) sat

/-- VSADD (08 R167). -/
def elemVsadd (p : Prep) (h0 h : Hart) (e : Nat) : Eff := satElem p h0 h e (fun a b => a + b)

/-- VSSUB (08 R167). -/
def elemVssub (p : Prep) (h0 h : Hart) (e : Nat) : Eff := satElem p h0 h e (fun a b => a - b)

/-- VCLZ (08 R167). -/
def elemVclz (p : Prep) (h0 h : Hart) (e : Nat) : Eff :=
  p.unary h0 h e (fun a => (.int (clzN (tagBits p.rt) (a.i % 2 ^ tagBits p.rt).toNat), 0))

/-- VPOPC (08 R167). -/
def elemVpopc (p : Prep) (h0 h : Hart) (e : Nat) : Eff :=
  p.unary h0 h e (fun a => (.int (popcN (tagBits p.rt) (a.i % 2 ^ tagBits p.rt).toNat), 0))

/-- VSQRT (08 R167). -/
def elemVsqrt (p : Prep) (h0 h : Hart) (e : Nat) : Eff := p.unary h0 h e (fltOp fSqrt)

/-- VRCP (08 R167). -/
def elemVrcp (p : Prep) (h0 h : Hart) (e : Nat) : Eff := p.unary h0 h e (fltOp fRcp)

/-- VRSQ (08 R167). -/
def elemVrsq (p : Prep) (h0 h : Hart) (e : Nat) : Eff := p.unary h0 h e (fltOp fRsq)

/-- VEXP2 (08 R167). -/
def elemVexp2 (p : Prep) (h0 h : Hart) (e : Nat) : Eff := p.unary h0 h e (fltOp fExp2)

/-- VLOG2 (08 R167). -/
def elemVlog2 (p : Prep) (h0 h : Hart) (e : Nat) : Eff := p.unary h0 h e (fltOp fLog2)

/-- The conditions of R169 on two values: the bit and NV. -/
def vcmpV (cond : Nat) (a b : Val) : Bool × Nat :=
  let x := a.f
  let y := b.f
  let nan := x.isNan || y.isNan
  let fl := if cond ≤ 1 then sigFlag [x, y] else if nan then NV else 0
  let r := match cond with
    | 0 => fEqual x y
    | 1 => !fEqual x y
    | 2 => !nan && fLess x y
    | 3 => !nan && !fLess y x
    | 4 => !nan && fLess y x
    | _ => !nan && !fLess x y
  (r, fl)

/-- VCMP (08 R169): a poisoned result is written 0 (08 R163). -/
def elemVcmp (p : Prep) (h0 h : Hart) (e : Nat) : Eff :=
  let (a, pa) := p.a h0 h e
  let (b, pb) := p.b h0 h e
  let (r, fl) := vcmpV (p.f.fn % 8) a b
  .mask (r && !(pa || pb)) (pa || pb) fl

/-- VSEL (08 R170): only the selected operand is read. -/
def elemVsel (p : Prep) (h0 h : Hart) (e : Nat) : Eff :=
  let (a, pa) := if h.maskBit (p.f.fn % 8) e then p.a h0 h e else p.b h0 h e
  p.give (a, 0) pa 0

/-- The serial of the scale of element (row, col), row × B + floor(col / 32) (08 R171). -/
def Prep.scaleSerial (p : Prep) (e : Nat) : Nat := p.row e * ((p.cols + 31) / 32) + p.col e / 32

/-- The scale of an element: the exponent of e8m0, or none for 255 (06 R131); and its poison. -/
def Prep.scale (p : Prep) (h0 h : Hart) (r : BitVec 6) (e : Nat) : Option Int × Bool :=
  let s := p.src h0 h r 18 (p.scaleSerial e)
  (if s.1 = 255 then none else some ((s.1 : Int) - 127), s.2)

/-- A value times 2^k (06 R137). -/
def FVal.scaled (v : FVal) (k : Int) : FVal := match v with | .fin n m e => .fin n m (e + k) | v => v

/-- The canonical NaN of a tag, or where it has none its largest finite value, with NV (06 R138, R139). -/
def nanOrMax (t : Nat) : Nat × Nat :=
  if isIntTag t then (2 ^ (tagBits t - bit (isSignedTag t)) - 1, NV)
  else if t = 18 then (255, 0)
  else if (tagFmt t).specials = .none then ((tagFmt t).maxMag, NV) else ((tagFmt t).canonNan, 0)

/-- An element converted out of its MX block (06 R138). -/
def mxIn (t : Nat) (m : RMode) (ovf : Bool) (v : FVal) : Option Int → Nat × Nat
  | none => nanOrMax t
  | some k => deliver t m ovf (.flt (v.scaled k))

/-- An element narrowed into its MX block (06 R139). DESIGN CHOICE (log entry 67): a NaN scale narrows a signalling NaN without NV. -/
def mxOut (t : Nat) (m : RMode) (ovf : Bool) (v : FVal) : Option Int → Nat × Nat
  | none => nanOrMax t
  | some k => deliver t m ovf (.flt (v.scaled (-k)))

/-- VCVT (08 R171). -/
def elemVcvt (p : Prep) (h0 h : Hart) (e : Nat) : Eff :=
  let (a, pa) := p.a h0 h e
  if p.f.fn % 4 = 0 then p.give (a, 0) pa 0
  else
    let (k, pk) := p.scale h0 h p.f.vs2 e
    let (b, fl) := if p.f.fn % 4 = 1 then mxIn p.rt p.mode p.f.ovf a.f k else mxOut p.rt p.mode p.f.ovf a.f k
    .write b (pa || pk) fl 0

/-- VSAT (08 R172). -/
def elemVsat (p : Prep) (h0 h : Hart) (e : Nat) : Eff :=
  let (a, pa) := p.a h0 h e
  let (v, sat) := clampTo p.rt a.i
  p.give (.int v, 0) pa sat

/-- VRNG (08 R173). -/
def elemVrng (p : Prep) (h0 h : Hart) (e : Nat) : Eff :=
  let s := p.src h0 h p.f.vs1 p.t1 e
  .write (rng (word s.1) (p.x + word e) (BitVec.ofNat 10 p.f.fn)).toNat s.2 0 0

/-- VID (08 R174). -/
def elemVid (p : Prep) (_h0 _h : Hart) (e : Nat) : Eff :=
  p.give (.int (if p.f.fn % 4 = 0 then e else if p.f.fn % 4 = 1 then p.row e else p.col e : Nat), 0) false 0

/-- VMV (08 R167): the bits without override, else the value converted. -/
def elemVmv (p : Prep) (h0 h : Hart) (e : Nat) : Eff :=
  let s := p.src h0 h p.f.vs1 p.t1 e
  if p.f.to then p.give (valueOf p.t1 s.1, 0) s.2 0 else .write s.1 s.2 0 0

/-- VBCAST (08 R174). -/
def elemVbcast (p : Prep) (_h0 _h : Hart) (_e : Nat) : Eff := .write p.x.toNat false 0 0

end Sys2Proof.Machine
end

