-- ==== Sys2Proof/Machine/VectorMove.lean ====
section
/-! DEFINITION. What the data-motion words, the reductions and the mask words make of one element (08 R175 to R182). -/

namespace Sys2Proof.Machine

/-! ### Data motion (08 R175 to R177) -/

/-- A copy of element `k` of vs1, with its poison and that of the index. -/
def Prep.copyOf (p : Prep) (h0 h : Hart) (k : Nat) (pi : Bool) : Eff :=
  let s := p.src h0 h p.f.vs1 p.t1 k
  .write s.1 (s.2 || pi) 0 0

/-- The offset of a slide: fn, or X(xs) (08 R175). -/
def Prep.slideBy (p : Prep) : Nat := if p.f.sx then p.x.toNat else p.f.fn

/-- VSLIDEUP (08 R175). -/
def elemVslideup (p : Prep) (h0 h : Hart) (e : Nat) : Eff :=
  if p.slideBy ≤ p.col e then p.copyOf h0 h (e - p.slideBy) false else .none

/-- VSLIDEDN (08 R175). -/
def elemVslidedn (p : Prep) (h0 h : Hart) (e : Nat) : Eff :=
  if p.col e + p.slideBy < p.cols then p.copyOf h0 h (e + p.slideBy) false else .write 0 false 0 0

/-- VGATHERR (08 R175): out of range, zero bits with the poison of the index. -/
def elemVgatherr (p : Prep) (h0 h : Hart) (e : Nat) : Eff :=
  let (ix, pi) := p.b h0 h e
  let i := ix.i
  if p.f.fn % 2 = 1 then
    if 0 ≤ i ∧ i < p.cols then p.copyOf h0 h (p.row e * p.cols + i.toNat) pi else .write 0 pi 0 0
  else if 0 ≤ i ∧ i < p.maxvl then p.copyOf h0 h i.toNat pi
  else .write 0 pi 0 0

/-- c(e): the serials below `e` that the predicate selects (08 R176). -/
def Prep.selectedBelow (p : Prep) (h : Hart) (e : Nat) : Nat := (List.range e).countP (fun k => h.selects p.f k)

/-- The hart whose masks give a word's predicate: that of the convoy's start where a later word writes it (08 R159). -/
def Prep.maskFrom (p : Prep) (h0 h : Hart) : Hart := if p.oldMask then h0 else h

/-- VCOMPRESS (08 R176). -/
def elemVcompress (p : Prep) (h0 h : Hart) (e : Nat) : Eff :=
  let s := p.src h0 h p.f.vs1 p.t1 e
  .writeAt (p.selectedBelow (p.maskFrom h0 h) e) s.1 s.2 0

/-- VEXPAND (08 R176). -/
def elemVexpand (p : Prep) (h0 h : Hart) (e : Nat) : Eff := p.copyOf h0 h (p.selectedBelow (p.maskFrom h0 h) e) false

/-- VINS (08 R177). -/
def elemVins (p : Prep) (_h0 _h : Hart) (e : Nat) : Eff := if e = p.f.fn then .write p.x.toNat false 0 0 else .none

/-- An element as a scalar register holds it (08 R177, R178): an integer extended by its tag, other bits zero-extended. -/
def writeAs (t b : Nat) : Word := if isSignedTag t then BitVec.ofInt 64 ((b : Int).bmod (2 ^ tagBits t)) else word b

/-- VEXT (08 R177): a poisoned element does not enter a scalar register (08 R163). -/
def elemVext (p : Prep) (h0 h : Hart) (e : Nat) : Eff :=
  if e = p.f.fn then
    let s := p.src h0 h p.f.vs1 p.t1 e
    if s.2 then .stop ⟨33, 0⟩ else .acc s.1 0
  else .none

/-- VROWB (08 R175). -/
def elemVrowb (p : Prep) (h0 h : Hart) (e : Nat) : Eff :=
  if p.f.fn % 64 < p.rowsN then p.copyOf h0 h (p.f.fn % 64 * p.cols + p.col e) false else .write 0 false 0 0

/-! ### Reductions (08 R178 to R181) -/

/-- One combination of a reduction over X(xs) (08 R178): `acc` is the running value's bits under T; the first one is read from X(xs). -/
def redElem (p : Prep) (h0 h : Hart) (e acc : Nat) (held : Bool) (op : Val → Val → Val × Nat) : Eff :=
  let (a, pa) := p.a h0 h e
  if pa then .stop ⟨33, 0⟩
  else
    let s := if held then acc else p.x.toNat % 2 ^ tagBits p.rt
    let (v, fl) := op (valueOf p.rt s) a
    let (b, fr) := deliver p.rt p.mode false v
    .acc b (fl ||| fr)

/-- VREDSUM (08 R179): the ordered sum. DESIGN CHOICE (log entry 51): with an integer T over floating elements each exact sum becomes an integer by
02 R46. -/
def elemVredsum (p : Prep) (h0 h : Hart) (e acc : Nat) (held : Bool) : Eff := redElem p h0 h e acc held (vAddV p.rdn)

/-- VREDMAX (08 R181). -/
def elemVredmax (p : Prep) (h0 h : Hart) (e acc : Nat) (held : Bool) : Eff := redElem p h0 h e acc held (vMinMaxV true)

/-- VREDMIN (08 R181). -/
def elemVredmin (p : Prep) (h0 h : Hart) (e acc : Nat) (held : Bool) : Eff := redElem p h0 h e acc held (vMinMaxV false)

/-- VREDAND (08 R181). -/
def elemVredand (p : Prep) (h0 h : Hart) (e acc : Nat) (held : Bool) : Eff :=
  let n := tagBits p.rt
  redElem p h0 h e acc held (fun a b => (.int ((a.i % 2 ^ n).toNat &&& (b.i % 2 ^ n).toNat : Nat), 0))

/-- VREDOR (08 R181). -/
def elemVredor (p : Prep) (h0 h : Hart) (e acc : Nat) (held : Bool) : Eff :=
  let n := tagBits p.rt
  redElem p h0 h e acc held (fun a b => (.int ((a.i % 2 ^ n).toNat ||| (b.i % 2 ^ n).toNat : Nat), 0))

/-- A node of the reduction tree: absent, or its bits and its flags so far (08 R180). -/
def treeNode (t : Nat) (m : RMode) (a b : Option (Nat × Nat)) : Option (Nat × Nat) :=
  match a, b with
  | some (x, fx), some (y, fy) =>
    let (v, fl) := vAddV (m = .rdn) (valueOf t x) (valueOf t y)
    let (r, fr) := deliver t m false v
    some (r, fx ||| fy ||| fl ||| fr)
  | some x, none => some x
  | none, y => y

/-- One level of the tree: nodes 2i and 2i + 1 combined (08 R180). -/
def treeLevel (t : Nat) (m : RMode) : List (Option (Nat × Nat)) → List (Option (Nat × Nat))
  | a :: b :: rest => treeNode t m a b :: treeLevel t m rest
  | l => l

/-- The root over `n` levels (08 R180). -/
def treeRoot (t : Nat) (m : RMode) : Nat → List (Option (Nat × Nat)) → Option (Nat × Nat)
  | 0, l => l.head?.join
  | n + 1, l => treeRoot t m n (treeLevel t m l)

/-- VREDTSUM at the first serial of a row (08 R180). -/
def elemVredtsum (p : Prep) (h0 h : Hart) (e : Nat) : Eff :=
  let k := e / p.cols
  let selects (c : Nat) : Bool := (p.maskFrom h0 h).selects p.f (k * p.cols + c)
  let leaf (c : Nat) : Option (Nat × Nat) :=
    if selects c then some (deliver p.rt p.mode false (p.a h0 h (k * p.cols + c)).1) else none
  let poison := (List.range p.cols).any (fun c => selects c && (p.a h0 h (k * p.cols + c)).2)
  match treeRoot p.rt p.mode (p.cols.log2 + 1) ((List.range p.cols).map leaf) with
  | some (b, fl) => .writeAt e b poison fl
  | none => .writeAt e 0 false 0

/-! ### Masks (08 R182) -/

/-- A mask word of two sources. -/
def maskElem (p : Prep) (h0 h : Hart) (e : Nat) (op : Bool → Bool → Bool) : Eff :=
  let _ := h0
  .mask (op (h.maskBit (p.f.vs1.toNat % 8) e) (h.maskBit (p.f.vs2.toNat % 8) e)) false 0

/-- MAND (08 R182). -/
def elemMand (p : Prep) (h0 h : Hart) (e : Nat) : Eff := maskElem p h0 h e (fun a b => a && b)

/-- MOR (08 R182). -/
def elemMor (p : Prep) (h0 h : Hart) (e : Nat) : Eff := maskElem p h0 h e (fun a b => a || b)

/-- MXOR (08 R182). -/
def elemMxor (p : Prep) (h0 h : Hart) (e : Nat) : Eff := maskElem p h0 h e (fun a b => a != b)

/-- MANDN (08 R182). -/
def elemMandn (p : Prep) (h0 h : Hart) (e : Nat) : Eff := maskElem p h0 h e (fun a b => a && !b)

/-- MPOPC (08 R182). -/
def elemMpopc (p : Prep) (_h0 h : Hart) (e acc : Nat) : Eff := .acc (acc + bit (h.maskBit (p.f.vs1.toNat % 8) e)) 0

/-- MFIRST (08 R182): the running value is the serial, once there is one. -/
def elemMfirst (p : Prep) (_h0 h : Hart) (e : Nat) (held : Bool) : Eff :=
  if held || !h.maskBit (p.f.vs1.toNat % 8) e then .none else .acc e 0

/-- MFROMP (08 R182): it sets no poison of its own. -/
def elemMfromp (p : Prep) (h0 h : Hart) (e : Nat) : Eff := .mask (p.src h0 h p.f.vs1 p.t1 e).2 false 0

end Sys2Proof.Machine
end

