-- ==== Sys2Proof/Machine/VectorMem.lean ====
section
/-! DEFINITION. What the memory words make of one element (08 R183 to R186; 13 R274, R289; 14 R302 to R304; 15 R324). -/

namespace Sys2Proof.Machine

/-- A scope by its code; 10 to 15 are refused by decode (07 R151). -/
def scopeOf (n : Nat) : Scope :=
  match n with
  | 0 => .hart | 1 => .core | 2 => .cluster | 3 => .quad | 4 => .die | 5 => .pair | 6 => .device | 7 => .system | 8 => .pod
  | _ => .durable

/-- The scope an element access is performed at: that of the word, or .system on an H page (13 R289; 15 R324). -/
def Prep.scope (p : Prep) : Scope := if p.hpage then .system else scopeOf p.f.sc

/-- Bytes of one element access (08 R183): a four-bit element's access is its byte. -/
def Prep.size (p : Prep) : Nat := max 1 (tagBits p.f.etag / 8)

/-- The signed 32-bit stride in bits `lo` on of X(xs + 1) (08 R183). -/
def Prep.stride (p : Prep) (lo : Nat) : Word := BitVec.ofInt 64 ((bits p.x2 lo 32 : Int).bmod (2 ^ 32))

/-- Does the word index by vs2? -/
def isIndexed : Instr → Bool
  | .vldx _ => true | .vstx _ => true | .vamo _ => true | .vamocas _ => true | _ => false

/-- The address of element `e` (08 R183; 14 R303). -/
def Prep.addr (p : Prep) (h0 h : Hart) (e : Nat) : Word :=
  match p.i with
  | .vlds _ => p.x + word (p.col e) * p.stride 0 + word (p.row e) * p.stride 32
  | .vsts _ => p.x + word (p.col e) * p.stride 0 + word (p.row e) * p.stride 32
  | i =>
    if isIndexed i then p.x + BitVec.ofInt 64 (valueOf p.t2 (p.src h0 h p.f.vs2 p.t2 e).1 |>.i)
    else p.x + word (if tagBits p.f.etag = 4 then e / 2 else e * p.size)

/-- The poison of the index element (08 R163). -/
def Prep.indexPoison (p : Prep) (h0 h : Hart) (e : Nat) : Bool := isIndexed p.i && (p.src h0 h p.f.vs2 p.t2 e).2

/-- How the access of an element ends: with its target, outside the window and trimming the word, or with a trap (13 R274). -/
inductive Reach
  | at (pa : Nat)
  | trim
  | trap (t : Trap)
  deriving DecidableEq, Repr

/-- The checks of an element access in the order of 08 R189: alignment, the scratchpad range, translation and access. `first` says that no
active element of the word came before. -/
def Prep.reach (p : Prep) (s : State) (k : Kind) (va : Word) (first : Bool) : Reach :=
  if va.toNat % p.size ≠ 0 then .trap ⟨k.misaligned, va⟩
  else if scratchOut va.toNat then (if first || 1 < p.rowsN then .trap ⟨k.accessFault, va⟩ else .trim)
  else
    match s.target s.ctx k va p.size with
    | .ok (.mem pa _) => .at pa
    | .ok _ => .trap ⟨k.accessFault, va⟩
    | .error t => .trap t

/-- What a memory element leaves: the machine, an effect on vd, or a trim. -/
inductive MemEff
  | done (s : State) (e : Eff)
  | trim
  deriving DecidableEq, Repr

/-- An element of a load (08 R183, R184). -/
def loadElem (p : Prep) (h0 : Hart) (e : Nat) (first : Bool) (s : State) : MemEff :=
  let va := p.addr h0 s.hart e
  match p.reach s .load va first with
  | .trim => .trim
  | .trap t => .done s (.stop t)
  | .at pa =>
    let s := s.walkRequests s.ctx va
    let v := leNat (s.viewBytes (.hart s.cur) p.scope pa p.size)
    let b := if tagBits p.f.etag = 4 then v / 16 ^ (e % 2) % 16 else v
    let poison := s.poisoned pa || p.indexPoison h0 s.hart e
    .done ((if p.scope = .hart then s else s.observe (.hart s.cur) p.scope pa p.size).touch pa) (.write b poison 0 0)

/-- Is an active element of the store that goes to sector `k` poisoned (20 R400)? -/
def Prep.poisonsSector (p : Prep) (h0 : Hart) (s : State) (k : Nat) : Bool :=
  (List.range p.total).any (fun e =>
    p.start ≤ e && s.hart.selects p.f e && ((p.src h0 s.hart p.f.vs1 p.t1 e).2 || p.indexPoison h0 s.hart e)
      && match s.target s.ctx .store (p.addr h0 s.hart e) p.size with | .ok (.mem pa _) => pa / 32 = k | _ => false)

/-- What word `w` has written in this step to sector `k`, and no other agent has seen, is not written (20 R400). -/
def State.retract (s : State) (w k : Nat) : State :=
  s.dropWrites (fun q => decide (q.owner = .hart s.cur) && q.time = s.tick && q.word = w && q.pa / 32 = k && !q.appeared)

/-- An element of a store (08 R183, R184; 13 R293; 19 R370; 20 R400): a poisoned element poisons the sector it is written to; at a port that stops it,
no byte of that sector leaves. On an H page an element is performed at .system before the next one (15 R324). -/
def storeElem (p : Prep) (h0 : Hart) (e : Nat) (first : Bool) (s : State) : MemEff :=
  let va := p.addr h0 s.hart e
  match p.reach s .store va first with
  | .trim => .trim
  | .trap t => .done s (.stop t)
  | .at pa =>
    let s := s.walkRequests s.ctx va
    let (b, pb) := p.src h0 s.hart p.f.vs1 p.t1 e
    let a := AgentId.hart s.cur
    let poison := pb || p.indexPoison h0 s.hart e
    let w := if p.f.u && !p.hpage then 0 else p.wtag
    if s.blocksPoison pa && (poison || p.poisonsSector h0 s (pa / 32)) then
      .done (if poison then (s.retract w (pa / 32)).logPort pa s.hart.asid s.cur 0 else s) .none
    else
      let first := pointAt a (s.scoped p.scope)
      let s' := if tagBits p.f.etag = 4 then s.writeNibble a first w pa (e % 2) b else s.write a first false w pa (leBytes p.size b)
      let s' := if p.hpage then s'.performNow a pa p.size else s'
      .done (if poison then (s'.poisonAt pa p.size).logPort pa s.hart.asid s.cur 0 else s') .none

/-- The new value an element of VAMO writes (14 R299, R302). -/
def vamoNew (op n : Nat) (old v : Nat) : Nat :=
  let m := 2 ^ (8 * n)
  let sg (x : Nat) : Int := (x : Int).bmod m
  let dbl := n = 8
  match op with
  | 0 => (old + v) % m
  | 1 => old &&& v
  | 2 => old ||| v
  | 3 => old ^^^ v
  | 4 => if sg v < sg old then v else old
  | 5 => if sg old < sg v then v else old
  | 6 => min old v
  | 7 => max old v
  | 8 => v
  | 10 => ((amoFmt dbl).minMax true old v).1
  | 11 => ((amoFmt dbl).minMax false old v).1
  | _ => amoFadd dbl old v

/-- An element of VAMO or VAMOCAS (14 R303, R304): `new` gives what it writes from the old value. DESIGN CHOICE (log entry 74): tval is 0 where the
poison is that of an operand, a compare value or an index element. -/
def amoElem (p : Prep) (h0 : Hart) (e : Nat) (first : Bool) (s : State) (nr host : Bool) (operandPoison : Bool) (new : Nat → Option Nat) :
    MemEff :=
  let va := p.addr h0 s.hart e
  match p.reach s .store va first with
  | .trim => .trim
  | .trap t => .done s (.stop t)
  | .at pa =>
    let s := s.walkRequests s.ctx va
    if !s.homePerforms pa host then .done s (.stop ⟨7, va⟩)
    else if operandPoison || p.indexPoison h0 s.hart e then .done s (.stop ⟨33, 0⟩)
    else
      let old := leNat (s.amoBytesAt (.hart s.cur) pa p.size)
      if s.poisoned pa then (if nr then .done s (.stop ⟨33, va⟩) else .done s (.write old true 0 0))
      else .done ((s.amoWrite (.hart s.cur) pa p.size (new old)).endTerminated pa p.size (new old))
        (if nr then .none else .write old false 0 0)

/-- VLD (08 R183). -/
def elemVld (p : Prep) (h0 : Hart) (e : Nat) (first : Bool) (s : State) : MemEff := loadElem p h0 e first s

/-- VLDS (08 R183). -/
def elemVlds (p : Prep) (h0 : Hart) (e : Nat) (first : Bool) (s : State) : MemEff := loadElem p h0 e first s

/-- VLDX (08 R183). -/
def elemVldx (p : Prep) (h0 : Hart) (e : Nat) (first : Bool) (s : State) : MemEff := loadElem p h0 e first s

/-- VST (08 R183). -/
def elemVst (p : Prep) (h0 : Hart) (e : Nat) (first : Bool) (s : State) : MemEff := storeElem p h0 e first s

/-- VSTS (08 R183). -/
def elemVsts (p : Prep) (h0 : Hart) (e : Nat) (first : Bool) (s : State) : MemEff := storeElem p h0 e first s

/-- VSTX (08 R183). -/
def elemVstx (p : Prep) (h0 : Hart) (e : Nat) (first : Bool) (s : State) : MemEff := storeElem p h0 e first s

/-- VAMO (14 R302, R303). -/
def elemVamo (p : Prep) (h0 : Hart) (e : Nat) (first : Bool) (s : State) : MemEff :=
  let (v, pv) := p.src h0 s.hart p.f.vs1 p.t1 e
  let op := p.f.mfn % 16
  amoElem p h0 e first s p.f.nr (op = 0 || op = 8) pv (fun old => some (vamoNew op p.size old v))

/-- VAMOCAS (14 R302, R303): it compares with vd[e]. -/
def elemVamocas (p : Prep) (h0 : Hart) (e : Nat) (first : Bool) (s : State) : MemEff :=
  let (v, pv) := p.src h0 s.hart p.f.vs1 p.t1 e
  let (c, pc) := p.src h0 s.hart p.f.vd p.td e
  amoElem p h0 e first s false true (pv || pc) (fun old => if old = c then some v else none)

end Sys2Proof.Machine
end

