-- ==== Sys2Proof/Machine/VectorPrep.lean ====
section
/-! DEFINITION. The checks a block word makes before any element (08 R189): its mode (07 R160), its tags and its result tag (05 R113, R114;
08 R166 to R183; 14 R302). -/

namespace Sys2Proof.Machine

/-- `t` if the condition holds. -/
def tagIf (c : Bool) (t : Nat) : Option Nat := if c then some t else none

/-- The override tag where the word states one, else `t` (05 R114). -/
def overTag (f : Fields) (t : Option Nat) : Option Nat :=
  if f.to then (if t.isSome then tagIf (isTag f.ttag) f.ttag else none) else t

/-- The result tag over vs1 and vs2 or the scalar (05 R113). -/
def joined (f : Fields) (t1 t2 : Nat) : Option Nat := joinTags t1 (if f.sx then t1 else t2)

/-- Are both operands integers? -/
def bothInt (f : Fields) (t1 t2 : Nat) : Bool := isIntTag t1 && (f.sx || isIntTag t2)

/-- The tag of a memory word that accepts no four-bit elements (08 R183). -/
def wideEtag (f : Fields) : Bool := isTag f.etag && tagBits f.etag ≠ 4

/-- The etags of the vector AMOs (14 R302). -/
def amoEtag (f : Fields) (cas : Bool) : Bool :=
  let op := f.mfn % 16
  let flt := f.etag = 10 || f.etag = 11
  let int := 4 ≤ f.etag && f.etag ≤ 7
  if cas then flt || int else if 10 ≤ op then flt else if op = 8 then flt || int else int

/-- The tags MX blocks hold (06 R137). -/
def mxTag (t : Nat) : Bool := isNarrow t || t = 17

/-- The result tag of a word over the tags of its operands; none where the word does not accept them (code 18). Words without a result in a
vector register answer the tag of vs1. -/
def resultTag (i : Instr) (f : Fields) (t1 t2 t3 td : Nat) : Option Nat :=
  match i with
  | .vadd _ => overTag f (joined f t1 t2)
  | .vsub _ => overTag f (joined f t1 t2)
  | .vmul _ => overTag f (joined f t1 t2)
  | .vmulh _ => if bothInt f t1 t2 then overTag f (joined f t1 t2) else none
  | .vdiv _ => overTag f (joined f t1 t2)
  | .vrem _ => if bothInt f t1 t2 then overTag f (joined f t1 t2) else none
  | .vmin _ => overTag f (joined f t1 t2)
  | .vmax _ => overTag f (joined f t1 t2)
  | .vabs _ => overTag f (tagIf (t1 ≠ 18) t1)
  | .vneg _ => overTag f (tagIf (t1 ≠ 18) t1)
  | .vfma _ => overTag f ((joinTags t1 t2).bind (fun t => joinTags t t3))
  | .vand _ => if bothInt f t1 t2 then joined f t1 t2 else none
  | .vor _ => if bothInt f t1 t2 then joined f t1 t2 else none
  | .vxor _ => if bothInt f t1 t2 then joined f t1 t2 else none
  | .vsll _ => tagIf (bothInt f t1 t2) t1
  | .vsrl _ => tagIf (bothInt f t1 t2) t1
  | .vsra _ => tagIf (bothInt f t1 t2) t1
  | .vsadd _ => if bothInt f t1 t2 then joined f t1 t2 else none
  | .vssub _ => if bothInt f t1 t2 then joined f t1 t2 else none
  | .vclz _ => tagIf (isIntTag t1) t1
  | .vpopc _ => tagIf (isIntTag t1) t1
  | .vsqrt _ => if isFloatTag t1 then overTag f (joinTags t1 t1) else none
  | .vrcp _ => if isFloatTag t1 then overTag f (joinTags t1 t1) else none
  | .vrsq _ => if isFloatTag t1 then overTag f (joinTags t1 t1) else none
  | .vexp2 _ => if isFloatTag t1 then overTag f (joinTags t1 t1) else none
  | .vlog2 _ => if isFloatTag t1 then overTag f (joinTags t1 t1) else none
  | .vcmp _ => if (joined f t1 t2).isSome then some t1 else none
  | .vsel _ => overTag f (joined f t1 t2)
  | .vcvt _ =>
    if f.fn % 4 = 0 then overTag f (some t1)
    else if t2 ≠ 18 then none
    else if f.fn % 4 = 1 then overTag f (tagIf (mxTag t1) t1)
    else overTag f (tagIf (mxTag f.ttag) t1)
  | .vsat _ => overTag f (tagIf (isIntTag t1 && isIntTag f.ttag) t1)
  | .vrng _ => tagIf (t1 = 6 || t1 = 7) 7
  | .vid _ => overTag f (some 5)
  | .vmv _ => overTag f (some t1)
  | .vbcast _ => overTag f (some 0)
  | .vslideup _ => some t1
  | .vslidedn _ => some t1
  | .vgatherr _ => tagIf (isIntTag t2) t1
  | .vcompress _ => some t1
  | .vexpand _ => some t1
  | .vins _ => some td
  | .vext _ => some t1
  | .vrowb _ => some t1
  | .vredsum _ => (overTag f (joinTags t1 t1)).bind (fun t => tagIf (!isNarrow t && t ≠ 18) t)
  | .vredtsum _ => (overTag f (joinTags t1 t1)).bind (fun t => tagIf (!isNarrow t && t ≠ 18) t)
  | .vredmax _ => joinTags t1 t1
  | .vredmin _ => joinTags t1 t1
  | .vredand _ => (joinTags t1 t1).bind (fun t => tagIf (isIntTag t) t)
  | .vredor _ => (joinTags t1 t1).bind (fun t => tagIf (isIntTag t) t)
  | .mand _ => some 0
  | .mor _ => some 0
  | .mxor _ => some 0
  | .mandn _ => some 0
  | .mpopc _ => some 0
  | .mfirst _ => some 0
  | .mfromp _ => some t1
  | .vld _ => tagIf (isTag f.etag) f.etag
  | .vlds _ => tagIf (wideEtag f) f.etag
  | .vldx _ => tagIf (wideEtag f && isIntTag t2) f.etag
  | .vst _ => tagIf (isTag f.etag && f.etag = t1) t1
  | .vsts _ => tagIf (wideEtag f && f.etag = t1) t1
  | .vstx _ => tagIf (wideEtag f && f.etag = t1 && isIntTag t2) t1
  | .vamo _ => tagIf (amoEtag f false && f.etag = t1 && isIntTag t2) t1
  | .vamocas _ => tagIf (amoEtag f true && f.etag = t1 && isIntTag t2 && f.etag = td) t1
  | .vdot8 _ => tagIf (t1 < 2 && t2 < 2 && (td = 4 || td = 5)) td
  | .xmuls _ => if t1 < 6 && t2 < 6 && tagBits t1 = tagBits t2 then joinTags t1 t2 else none
  | _ => some 0

/-- The tag a word states (05 R114): ttag, or the etag of a memory word. -/
def statedTag (i : Instr) (f : Fields) : Nat :=
  if isMemWord i then f.etag
  else
    match blockShape i with
    | some ⟨_, _, _, _, .r150 _ _ _ _ _⟩ => if f.to then f.ttag else 0
    | _ => 0

/-- Does the word round (07 R150, R166)? -/
def usesRm (i : Instr) : Bool :=
  match blockShape i with
  | some ⟨_, _, _, _, .r150 _ _ rm _ _⟩ => rm
  | _ => false

/-- The source tags of a word, over its operands that are vector registers. -/
def sourceTags (sh : Shape) (t1 t2 t3 : Nat) : List Nat :=
  (if sh.vs1 = .vec then [t1] else []) ++ (if sh.vs2 = .vec then [t2] else []) ++ (if sh.vs3 = .vec then [t3] else [])

/-- Is the mode evaluated (07 R160)? A value that passes through an MX scale is a floating value (06 R136). DESIGN CHOICE (log entry 50): VMV with
to = 0, which copies bits, does not evaluate it; VABS and VNEG with to = 0 do. -/
def evalsMode (i : Instr) (f : Fields) (rt : Nat) (srcs : List Nat) : Bool :=
  usesRm i
    && (match i with | .vmv _ => f.to | _ => true)
    && (isWideFloat rt || (isIntTag rt && (srcs.any (fun t => !isIntTag t) || (match i with | .vcvt _ => f.fn % 4 ≠ 0 | _ => false))))

/-- T as the tag rules give it, whether or not the word accepts its tags (05 R113, R114; 08 R167); none where they give none. -/
def ruleTag (i : Instr) (f : Fields) (t1 t2 t3 : Nat) : Option Nat :=
  if f.to then some f.ttag
  else
    match i with
    | .vabs _ => some t1
    | .vneg _ => some t1
    | .vmv _ => some t1
    | .vid _ => some 5
    | .vfma _ => (joinTags t1 t2).bind (fun t => joinTags t t3)
    | .vsqrt _ => joinTags t1 t1
    | .vrcp _ => joinTags t1 t1
    | .vrsq _ => joinTags t1 t1
    | .vexp2 _ => joinTags t1 t1
    | .vlog2 _ => joinTags t1 t1
    | .vredsum _ => joinTags t1 t1
    | .vredtsum _ => joinTags t1 t1
    | _ => joined f t1 t2

/-- The mode of a word: none where frm holds no mode (01 R20). -/
def Hart.modeOf (h : Hart) (f : Fields) : Option RMode :=
  if f.rm = 7 then RMode.byCode (bits h.frm 0 3) else RMode.byCode f.rm

/-- A word prepared at the start of its convoy (08 R189): code 2 from its mode, code 18 from its tags, or the word. `at` is its address,
`tags` the tag of a register as the convoy's earlier words leave it. -/
def prepWord (h : Hart) (at_ : Word) (off : Nat) (i : Instr) (tags : Nat → Nat) : Except Trap Prep :=
  match blockShape i, blockParts i with
  | some sh, some (_, f) =>
    let t1 := tags f.vs1.toNat
    let t2 := tags f.vs2.toNat
    let t3 := tags f.vs3.toNat
    let td := tags f.vd.toNat
    let srcs := sourceTags sh t1 t2 t3
    let bad : Trap :=
      ⟨18, tagTval (statedTag i f) (if sh.vs3 = .vec then t3 else 0)
        (if sh.vs2 = .vec then t2 else if sh.vs1 = .vec && sh.vs3 = .xreg && f.sx && usesSx sh then t1 else 0)
        (if sh.vs1 = .vec then t1 else 0)⟩
    let rt := resultTag i f t1 t2 t3 td
    let mode := h.modeOf f
    if (match ruleTag i f t1 t2 t3 with | some t => evalsMode i f t srcs | none => false) && mode.isNone then
      .error ⟨2, at_⟩
    else
      match rt with
      | none => .error bad
      | some t =>
        if h.vwidth < tagBits t || srcs.any (fun k => h.vwidth < tagBits k) then .error bad
        else
          .ok
            { i := i, f := f, off := off, t1 := t1, t2 := t2, t3 := t3, td := td, rt := t, x := h.reg f.xs, x2 := h.reg (f.xs + 1)
              mode := if evalsMode i f t srcs then mode.getD .rne else .rne
              old := if sh.vd = .vec then [f.vd.toNat] else [], oldMask := false
              mism := none, start := h.start, total := h.total, cols := h.ncols, rowsN := h.nrows, maxvl := h.maxvl
              hpage := false, wtag := 0, live := false, part := none }
  | _, _ => .error ⟨17, at_⟩
where
  /-- Is sx a field of the word (07 R150)? -/
  usesSx (sh : Shape) : Bool := match sh.imm with | .r150 _ _ _ sx _ => sx | _ => false

end Sys2Proof.Machine
end

