-- ==== Sys2Proof/Machine/Convoy.lean ====
section
/-! DEFINITION. How the words of a convoy run over their elements: group by group and word by word (05 R106, R116, R118), to the lowest
serial at which one of them stops (05 R123; 08 R165, R189), and what a word leaves when it completes or stops (08 R163, R179, R182). -/

namespace Sys2Proof.Machine

/-! ### One element -/

/-- What a word makes of element `e`: the effect of each word's own definition. -/
def elemOf (p : Prep) (h0 : Hart) (e : Nat) (r : WordRun) (s : State) : MemEff :=
  let h := s.hart
  match p.i with
  | .vadd _ => .done s (elemVadd p h0 h e)
  | .vsub _ => .done s (elemVsub p h0 h e)
  | .vmul _ => .done s (elemVmul p h0 h e)
  | .vmulh _ => .done s (elemVmulh p h0 h e)
  | .vdiv _ => .done s (elemVdiv p h0 h e)
  | .vrem _ => .done s (elemVrem p h0 h e)
  | .vmin _ => .done s (elemVmin p h0 h e)
  | .vmax _ => .done s (elemVmax p h0 h e)
  | .vabs _ => .done s (elemVabs p h0 h e)
  | .vneg _ => .done s (elemVneg p h0 h e)
  | .vfma _ => .done s (elemVfma p h0 h e)
  | .vand _ => .done s (elemVand p h0 h e)
  | .vor _ => .done s (elemVor p h0 h e)
  | .vxor _ => .done s (elemVxor p h0 h e)
  | .vsll _ => .done s (elemVsll p h0 h e)
  | .vsrl _ => .done s (elemVsrl p h0 h e)
  | .vsra _ => .done s (elemVsra p h0 h e)
  | .vsadd _ => .done s (elemVsadd p h0 h e)
  | .vssub _ => .done s (elemVssub p h0 h e)
  | .vclz _ => .done s (elemVclz p h0 h e)
  | .vpopc _ => .done s (elemVpopc p h0 h e)
  | .vsqrt _ => .done s (elemVsqrt p h0 h e)
  | .vrcp _ => .done s (elemVrcp p h0 h e)
  | .vrsq _ => .done s (elemVrsq p h0 h e)
  | .vexp2 _ => .done s (elemVexp2 p h0 h e)
  | .vlog2 _ => .done s (elemVlog2 p h0 h e)
  | .vcmp _ => .done s (elemVcmp p h0 h e)
  | .vsel _ => .done s (elemVsel p h0 h e)
  | .vcvt _ => .done s (elemVcvt p h0 h e)
  | .vsat _ => .done s (elemVsat p h0 h e)
  | .vrng _ => .done s (elemVrng p h0 h e)
  | .vid _ => .done s (elemVid p h0 h e)
  | .vmv _ => .done s (elemVmv p h0 h e)
  | .vbcast _ => .done s (elemVbcast p h0 h e)
  | .vslideup _ => .done s (elemVslideup p h0 h e)
  | .vslidedn _ => .done s (elemVslidedn p h0 h e)
  | .vgatherr _ => .done s (elemVgatherr p h0 h e)
  | .vcompress _ => .done s (elemVcompress p h0 h e)
  | .vexpand _ => .done s (elemVexpand p h0 h e)
  | .vins _ => .done s (elemVins p h0 h e)
  | .vext _ => .done s (elemVext p h0 h e)
  | .vrowb _ => .done s (elemVrowb p h0 h e)
  | .vredsum _ => .done s (elemVredsum p h0 h e r.acc r.held)
  | .vredtsum _ => .done s (elemVredtsum p h0 h e)
  | .vredmax _ => .done s (elemVredmax p h0 h e r.acc r.held)
  | .vredmin _ => .done s (elemVredmin p h0 h e r.acc r.held)
  | .vredand _ => .done s (elemVredand p h0 h e r.acc r.held)
  | .vredor _ => .done s (elemVredor p h0 h e r.acc r.held)
  | .mand _ => .done s (elemMand p h0 h e)
  | .mor _ => .done s (elemMor p h0 h e)
  | .mxor _ => .done s (elemMxor p h0 h e)
  | .mandn _ => .done s (elemMandn p h0 h e)
  | .mpopc _ => .done s (elemMpopc p h0 h e r.acc)
  | .mfirst _ => .done s (elemMfirst p h0 h e r.held)
  | .mfromp _ => .done s (elemMfromp p h0 h e)
  | .vld _ => elemVld p h0 e (!r.met) s
  | .vlds _ => elemVlds p h0 e (!r.met) s
  | .vldx _ => elemVldx p h0 e (!r.met) s
  | .vst _ => elemVst p h0 e (!r.met) s
  | .vsts _ => elemVsts p h0 e (!r.met) s
  | .vstx _ => elemVstx p h0 e (!r.met) s
  | .vamo _ => elemVamo p h0 e (!r.met) s
  | .vamocas _ => elemVamocas p h0 e (!r.met) s
  | _ => .done s .none

/-- A poisoned element counted for vpoison (08 R163). -/
def WordRun.poisoned (r : WordRun) (p : Bool) (e : Nat) : WordRun :=
  if p then { r with pcount := r.pcount + 1, pfirst := if r.pcount = 0 then e else min r.pfirst e } else r

/-- The flags of an element (08 R161): a poisoned result raises none. -/
def State.elemFlags (s : State) (p : Bool) (fl vx : Nat) : State :=
  if p then s else { s with hart := { s.hart with fflags := orWord s.hart.fflags fl, vxflags := orWord s.hart.vxflags vx } }

/-- The effect of element `e` takes place; or the trap that stops the word there. -/
def applyEff (p : Prep) (e : Nat) (s : State) (r : WordRun) (x : Eff) : Except Trap (State × WordRun) :=
  match x with
  | .write b pz fl vx =>
    .ok ((s.withHart (fun h => h.setElem p.f.vd.toNat p.rt e b pz)).elemFlags pz fl vx, { r with wrote := true }.poisoned pz e)
  | .mask b pz fl => .ok ((s.withHart (fun h => h.setMaskBit (p.f.vd.toNat % 8) e b)).elemFlags pz fl 0, r.poisoned pz e)
  | .writeAt k b pz fl =>
    .ok ((s.withHart (fun h => h.setElem p.f.vd.toNat p.rt k b pz)).elemFlags pz fl 0, { r with wrote := true }.poisoned pz k)
  | .acc v fl => .ok (s.elemFlags false fl 0, { r with acc := v, held := true })
  | .none => .ok (s, r)
  | .stop t => .error t

/-- Is the word one whose memory accesses release first (14 R303; 08 R185)? -/
def Prep.releases (p : Prep) : Bool := isMemWord p.i && p.f.ord / 2 = 1

/-- Does the word acquire at its end (14 R303; 08 R185)? -/
def Prep.acquires (p : Prep) : Bool := isMemWord p.i && p.f.ord % 2 = 1

/-- The machine in which the word makes its next access: one that releases has carried the hart's writes before its first element (14 R303; 08 R185).
DESIGN CHOICE (log entry 82): of an earlier store word of its convoy, those of the groups before. -/
def Prep.releasing (p : Prep) (r : WordRun) (s : State) : State :=
  if p.releases && !r.met && !p.wasMet then s.release (.hart s.cur) (scopeOf p.f.sc) else s

/-- The stop of a check mismatch at serial `e` (20 R390). -/
def Prep.mismatchAt (p : Prep) (e : Nat) : Option Trap :=
  match p.mism with
  | some (k, lane) => if k = e then some ⟨35, word (lane * 2 ^ 16 + e)⟩ else none
  | none => none

/-- Element `e` of a word, which is active (05 R106). A check mismatch stops a word where no other cause does (19 R366; 20 R390). -/
def runElem (p : Prep) (h0 : Hart) (e : Nat) (s : State) (r : WordRun) : Except Trap (State × WordRun) :=
  let s := p.releasing r s
  match elemOf p h0 e r s with
  | .trim => .ok (s, { r with met := true, trimmed := some e })
  | .done s' x =>
    match applyEff p e s' { r with met := true } x, p.mismatchAt e with
    | .error t, _ => .error t
    | .ok a, none => .ok a
    | .ok _, some t => .error t

/-- Does the word act at serial `e`: VREDTSUM at the first serial of each row, the others at active elements (05 R106; 08 R180)? -/
def Prep.acts (p : Prep) (h : Hart) (e : Nat) : Bool :=
  match p.i with
  | .vredtsum _ => e % p.cols = 0
  | _ => h.selects p.f e

/-- A word over `n` serials from `e` on, below `lim`: the machine, the word's progress, and where it stops, if it does. -/
def runSerials (p : Prep) (h0 : Hart) (lim : Nat) : Nat → Nat → State → WordRun → State × WordRun × Option (Nat × Trap)
  | 0, _, s, r => (s, r, none)
  | n + 1, e, s, r =>
    if lim ≤ e then (s, r, none)
    else if e < p.start || r.trimmed.isSome then runSerials p h0 lim n (e + 1) s r
    else if !p.acts s.hart e then
      (match p.mismatchAt e with
       | some t => (s, r, some (e, t))
       | none => runSerials p h0 lim n (e + 1) s r)
    else
      match runElem p h0 e s r with
      | .error t => (s, r, some (e, t))
      | .ok (s, r) => runSerials p h0 lim n (e + 1) s r

/-! ### A convoy -/

/-- Words that deliver their whole result before a later word of the convoy reads it (08 R164). -/
def isWhole : Instr → Bool
  | .vcompress _ => true | .vredtsum _ => true | _ => false

/-- The stop of a check mismatch at one of the `n` serials from `lo` on, below `lim`, of a word whose results stand already (08 R164, R189). -/
def Prep.struckIn (p : Prep) (lo n lim : Nat) : Option (Nat × Trap) :=
  match p.mism with
  | some (e, _) => if p.start ≤ e && lo ≤ e && e < lo + n && e < lim then (p.mismatchAt e).map (fun t => (e, t)) else none
  | none => none

/-- The words of one group in block order: each below the serial at which an earlier one stopped (08 R189). With `whole` it is those that deliver
their result at once; else the others, between which those only stop. -/
def runGroup (h0 : Hart) (whole : Bool) (lo n lim : Nat) : List (Prep × WordRun) → State → State × List (Prep × WordRun) × Option (Nat × Trap)
  | [], s => (s, [], none)
  | (p, r) :: rest, s =>
    let (s, r, st) :=
      if isWhole p.i = whole then runSerials (if whole then { p with mism := none } else p) h0 lim n lo s r
      else (s, r, if whole then none else p.struckIn lo n lim)
    let (s, rs, st') := runGroup h0 whole lo n (match st with | some (e, _) => e | none => lim) rest s
    (s, (p, r) :: rs, match st' with | some x => some x | none => st)

/-- The groups from serial `lo` on, `g` serials each, until one stops. -/
def runGroups (h0 : Hart) (g lim : Nat) : Nat → Nat → List (Prep × WordRun) → State → State × List (Prep × WordRun) × Option (Nat × Trap)
  | 0, _, rs, s => (s, rs, none)
  | k + 1, lo, rs, s =>
    if lim ≤ lo then (s, rs, none)
    else
      match runGroup h0 false lo g lim rs s with
      | (s, rs, some x) => (s, rs, some x)
      | (s, rs, none) => runGroups h0 g lim k (lo + g) rs s

/-- The hart with the whole results of the words that deliver them at once, from serial `start` on (08 R164). -/
def wholeResults (h0 : Hart) (start total : Nat) (ps : List Prep) (s : State) : Hart :=
  (runGroup h0 true start (total - start) total (ps.map (fun p => (p, WordRun.fresh))) s).1.hart

/-- The hart with the destinations of those words as another one has them. -/
def Hart.withResults (h : Hart) (ps : List Prep) (from_ : Hart) : Hart :=
  (ps.filter (fun p => isWhole p.i)).foldl (fun h p =>
    let r := p.f.vd.toNat
    { h with v := Tab.put 0 h.v r (Tab.get 0 from_.v r), vpois := Tab.put 0 h.vpois r (Tab.get 0 from_.vpois r) }) h

/-- The whole convoy below serial `lim`: the words that deliver their result at once, then the groups, which read the whole results (08 R164); what
stays of those is that of the elements below `lim` (05 R123). `h0` is the hart at the convoy's start. -/
def runBelow (h0 : Hart) (g start total lim : Nat) (ps : List Prep) (s : State) : State × List (Prep × WordRun) × Option (Nat × Trap) :=
  let (s', rs, _) := runGroup h0 true start (total - start) lim (ps.map (fun p => (p, p.begun))) s
  let (t, rs, st) := runGroups h0 g lim ((total - start) / g + 2) (start / g * g) rs
    (s'.withHart (fun h => h.withResults ps (wholeResults h0 start total ps s)))
  (t.withHart (fun h => h.withResults ps s'.hart), rs, st)

/-- The convoy to the lowest serial at which a word stops: every word completes exactly the elements below it (05 R123). -/
def runTo (h0 : Hart) (g start total : Nat) (ps : List Prep) (s : State) :
    Nat → Nat → Option (Nat × Trap) → State × List (Prep × WordRun) × Option (Nat × Trap)
  | 0, lim, st => let (s', rs, _) := runBelow h0 g start total lim ps s; (s', rs, st)
  | n + 1, lim, st =>
    match runBelow h0 g start total lim ps s with
    | (s', rs, none) => (s', rs, st)
    | (_, _, some (e, t)) => runTo h0 g start total ps s n e (some (e, t))

/-! ### What a word leaves -/

/-- Does the word combine a vector into X(xs) (08 R178)? -/
def isReduction : Instr → Bool
  | .vredsum _ => true | .vredmax _ => true | .vredmin _ => true | .vredand _ => true | .vredor _ => true | _ => false

/-- Does the word copy an element into X(xs) (08 R177)? -/
def isExtract : Instr → Bool
  | .vext _ => true | _ => false

/-- vpoison after a word that wrote poisoned elements (08 R163). -/
def poisonRecord (dst first count : Nat) : Word := word (count % 2 ^ 14 + first % 2 ^ 14 * 2 ^ 32 + dst % 2 ^ 7 * 2 ^ 48 + 2 ^ 63)

/-- The number vpoison gives a word's destination (08 R163). -/
def Prep.dstNumber (p : Prep) : Nat :=
  match blockShape p.i with
  | some ⟨.mask, _, _, _, _⟩ => 64 + p.f.vd.toNat % 8
  | _ => p.f.vd.toNat

/-- What a word leaves as its convoy drains or stops (`whole` says that it completed): its tag (05 R102), vpoison (08 R163), X(xs) (08 R177,
R179, R181, R182), its acquire (08 R185). A VEXT whose element lies below the stop has completed it (05 R123). -/
def finishWord (whole : Bool) (s : State) (pr : Prep × WordRun) : State :=
  let (p, r) := pr
  let s := if r.wrote then s.withHart (fun h => { h with vtag := Tab.put 0 h.vtag p.f.vd.toNat p.rt }) else s
  let s := if r.pcount = 0 then s else s.withHart (fun h => { h with vpoison := poisonRecord p.dstNumber r.pfirst r.pcount })
  let s := if (isReduction p.i || isExtract p.i) && r.held then s.setX p.f.xs (writeAs p.rt r.acc) else s
  let s :=
    if whole then
      match p.i with
      | .vext _ => if p.total ≤ p.f.fn then s.setX p.f.xs 0 else s
      | .mpopc _ => s.setX p.f.xs (word r.acc)
      | .mfirst _ => s.setX p.f.xs (if r.held then word r.acc else 0xFFFFFFFFFFFFFFFF)
      | _ => s
    else s
  if whole && p.acquires && (r.met || p.wasMet) then s.acquire (.hart s.cur) (scopeOf p.f.sc) else s

/-- A reduction that stops before any element was combined leaves X(xs) under T, where it has an active one (08 R179, R181). -/
def finishStop (s : State) (pr : Prep × WordRun) : State :=
  let (p, r) := pr
  if isReduction p.i && !r.held && p.live then
    s.setX p.f.xs (writeAs p.rt (p.x.toNat % 2 ^ tagBits p.rt))
  else s

/-- Is the word an atomic, of which nothing at or above a stop has been performed (14 R304)? -/
def isVectorAmo : Instr → Bool
  | .vamo _ => true | .vamocas _ => true | _ => false

/-- The vector and mask registers a word reads, its predicate among them. -/
def Prep.readSet (p : Prep) : List BReg :=
  match blockShape p.i with
  | some sh =>
    sh.vs1.reg p.f.vs1 ++ sh.vs2.reg p.f.vs2 ++ sh.vs3.reg p.f.vs3
      ++ [.m p.f.pm.toNat] ++ (match p.i with | .vsel f => [.m (f.fn % 8)] | .vins _ => [.v p.f.vd.toNat] | _ => [])
  | none => []

/-- Does an earlier word write a register that word `p` reads? -/
def readsWritten (before : List Prep) (p : Prep) : Bool := meets p.readSet (before.flatMap (fun q => writeSet q.i))

/-- The earlier words of a convoy on whose results the registers `rs` rest, the nearest first among `before`. -/
def restOn : List BReg → List Prep → List Prep
  | _, [] => []
  | rs, q :: before => if meets (writeSet q.i) rs then restOn (q.readSet ++ rs) before ++ [q] else restOn rs before

/-- The hart as word `p` finds it at serial `e` above a stop: with what the earlier words of the convoy make of that element, formed and not yet
written, and the whole results in `full` (08 R164, R186); none where an earlier word stops there, or its value rests on an atomic. -/
def formedAt (h0 full : Hart) (before : List Prep) (p : Prep) (e : Nat) (s : State) : Option Hart :=
  let qs := restOn p.readSet before.reverse
  if qs.any (fun q => isVectorAmo q.i) then none
  else
    match runGroup h0 false e 1 (e + 1) (qs.map (fun q => (q, { WordRun.fresh with met := true })))
      (s.withHart (fun h => h.withResults qs full)) with
    | (s', _, none) => some s'.hart
    | _ => none

/-- The hart after a loose element: a load's element of vd, nothing else. -/
def Hart.takeElem (h : Hart) (p : Prep) (e : Nat) (h' : Hart) : Hart :=
  match p.i with
  | .vst _ => h | .vsts _ => h | .vstx _ => h
  | _ => h.setElem p.f.vd.toNat p.rt e (h'.elem p.f.vd.toNat p.rt e) (h'.poisonBit p.f.vd.toNat e)

/-- The elements above a stop that a .u load or store may have performed all the same (08 R186): the device chooses. -/
def runLoose (h0 full : Hart) (before : List Prep) (p : Prep) (total : Nat) : Nat → Nat → State → WordRun → State × WordRun
  | 0, _, s, r => (s, r)
  | n + 1, e, s, r =>
    if total ≤ e then (s, r)
    else
      match (if Config.choice ((s.tick * 64 + p.off) * 65536 + e) && r.trimmed.isNone then formedAt h0 full before p e s else none) with
      | none => runLoose h0 full before p total n (e + 1) s r
      | some h =>
        if p.acts h e then
          match runElem p h0 e { p.releasing r s with hart := h } { r with met := true } with
          | .ok (s', r') =>
            if r'.trimmed.isSome then runLoose h0 full before p total n (e + 1) s r
            else runLoose h0 full before p total n (e + 1) { s' with hart := s.hart.takeElem p e s'.hart } r'
          | .error _ => runLoose h0 full before p total n (e + 1) s r
        else runLoose h0 full before p total n (e + 1) s r

/-- Is the word a .u load or store off H pages (08 R186; 13 R289)? -/
def Prep.loose (p : Prep) : Bool :=
  p.f.u && !p.hpage && (match p.i with
    | .vld _ => true | .vlds _ => true | .vldx _ => true | .vst _ => true | .vsts _ => true | .vstx _ => true | _ => false)

/-- The loose elements of every word above the stop at `e`. -/
def runLooseAll (h0 full : Hart) (e total : Nat) : List Prep → List (Prep × WordRun) → State → State × List (Prep × WordRun)
  | _, [], s => (s, [])
  | before, (p, r) :: rest, s =>
    let (s, r) := if p.loose then runLoose h0 full before p total (total - e) (e + 1) s r else (s, r)
    let (s, rs) := runLooseAll h0 full e total (before ++ [p]) rest s
    (s, (p, r) :: rs)

/-! ### What a word finds before it starts -/

/-- The hart as word `p` finds the masks and the indices that the words `before` it in its convoy write, and the serial at which one of those stops;
`g` is the size of a group, `h0` the hart at the convoy's start. -/
def Prep.afterWords (p : Prep) (h0 : Hart) (g : Nat) (before : List Prep) (s : State) : Hart × Nat :=
  if readsWritten before p then
    match runTo h0 g p.start p.total before s p.total p.total none with
    | (t, _, none) => (t.hart, p.total)
    | (t, _, some (e, _)) => (t.hart, e)
  else (s.hart, p.total)

/-- Has a reduction an active element from vstart on (08 R179, R181)? -/
def Prep.isLive (p : Prep) (h0 : Hart) (g : Nat) (before : List Prep) (s : State) : Bool :=
  isReduction p.i && (List.range p.total).any (fun e => p.start ≤ e && p.acts (p.afterWords h0 g before s).1 e)

/-! ### Host-shared pages (13 R289) -/

/-- The kind of access a memory word makes (13 R284): an atomic counts as a store. -/
def Prep.kind (p : Prep) : Kind :=
  match p.i with
  | .vld _ => .load | .vlds _ => .load | .vldx _ => .load
  | _ => .store

/-- Does an active element's access lie on an H page, below the first one whose translation faults (13 R287, R289)? `h0` is the hart at the convoy's
start, `h` as the words before leave it. -/
def Prep.findsH (p : Prep) (s : State) (h0 h : Hart) : List Nat → Bool
  | [] => false
  | e :: es =>
    if p.start ≤ e && p.acts h e then
      match s.translate s.ctx p.kind (p.addr h0 h e) with
      | .ok x => x.h || p.findsH s h0 h es
      | .error t => t.code ≠ p.kind.pageFault && p.findsH s h0 h es
    else p.findsH s h0 h es

/-- Does the word touch an H page (13 R289)? -/
def Prep.onHPage (p : Prep) (h0 : Hart) (g : Nat) (before : List Prep) (s : State) : Bool :=
  isMemWord p.i &&
    (let (h, n) := p.afterWords h0 g before s
     p.findsH s h0 h (List.range n))

end Sys2Proof.Machine
end

