-- ==== Sys2Proof/Machine/Tile.lean ====
section
/-! DEFINITION. Accumulators: the two readings of an ACC80 element, Acc80Add, Acc80IntAdd, block sums and rank-one sums (06 R140 to R144), and
the tiles of a core (09 R200, R212). -/

namespace Sys2Proof.Machine

/-! ### Elements (06 R140, R141) -/

/-- The float reading (06 R140). -/
def accFloat (a : Acc) : FVal := fmtAcc80.value a.toNat

/-- The integer reading (06 R140). -/
def accInt (a : Acc) : Int := a.toInt

/-- A value rounded once to ACC80 with RNE (06 R141). -/
def accOf (v : FVal) : Acc × Nat := let (b, fl) := fmtAcc80.round .rne v; (BitVec.ofNat 80 b, fl)

/-- Acc80Add (06 R141): the sum and its flags. -/
def acc80Add (a : Acc) (v : FVal) : Acc × Nat :=
  let (x, f1) := fAdd false (accFloat a) v
  let (b, f2) := accOf x
  (b, f1 ||| f2)

/-- Acc80IntAdd (06 R141). -/
def acc80IntAdd (a : Acc) (v : Int) : Acc := a + BitVec.ofInt 80 v

/-! ### Sums over k (06 R142 to R144) -/

/-- Is the value an infinity of sign `n`? -/
def FVal.isInf (v : FVal) (n : Bool) : Bool := decide (v = .inf n)

/-- Is the value a zero of sign `n`? -/
def FVal.isZero (v : FVal) (n : Bool) : Bool :=
  match v with
  | .fin n' 0 _ => n' = n
  | _ => false

/-- The exact sum of finite values; a zero sum is −0 only where every value is −0 (06 R142). -/
def exactSum (ps : List FVal) : FVal :=
  if ps.all (fun p => p.isZero true) then .fin true 0 0
  else ps.foldl (fun acc p => (fAdd false acc p).1) (.fin false 0 0)

/-- ExactBlockSum over pairs of operands (06 R142): the sum and NV. -/
def blockSum (ab : List (FVal × FVal)) : FVal × Nat :=
  let ps := ab.map (fun p => fMul p.1 p.2)
  let fl := ps.foldl (fun f p => f ||| p.2) 0
  let vs := ps.map (·.1)
  if vs.any (·.isInf false) && vs.any (·.isInf true) then (.nan false, fl ||| NV)
  else if vs.any FVal.isNan then (.nan false, fl)
  else if vs.any (·.isInf false) then (.inf false, fl)
  else if vs.any (·.isInf true) then (.inf true, fl)
  else (exactSum vs, fl)

/-- ScaleOf(sa) × ScaleOf(sb) (06 R142): a power of two, or NaN. -/
def scaleProduct (sa sb : Nat) : FVal :=
  if sa % 256 = 255 ∨ sb % 256 = 255 then .nan false else .fin false 1 ((sa % 256 : Int) + (sb % 256 : Int) - 254)

/-- One k-block of R142 under the float reading. -/
def blockStep (a : Acc) (ab : List (FVal × FVal)) (f : FVal) : Acc × Nat :=
  let (s, f1) := blockSum ab
  if f.isNan then (BitVec.ofNat 80 fmtAcc80.canonNan, f1)
  else
    let (b, f2) := acc80Add a (fMul s f).1
    (b, f1 ||| f2)

/-- One rank-one step of R144. -/
def rankStep (a : Acc) (x y : FVal) : Acc × Nat :=
  let (p, f1) := fMul x y
  let (b, f2) := acc80Add a p
  (b, f1 ||| f2)

/-- Steps over an accumulator, their flags gathered. -/
def accSteps {α : Type} (step : Acc → α → Acc × Nat) : List α → Acc → Nat → Acc × Nat
  | [], a, fl => (a, fl)
  | x :: xs, a, fl => let (b, f) := step a x; accSteps step xs b (fl ||| f)

/-- The integer form of R142: the exact sum over all of k. -/
def intSum (ab : List (Int × Int)) : Int := (ab.map (fun p => p.1 * p.2)).sum

/-- The k-blocks of a list of `k` entries: its runs of 32 (06 R142). -/
def kBlocks {α : Type} (k : Nat) (l : List α) : List (Nat × List α) :=
  (List.range ((k + 31) / 32)).map (fun b => (b, (l.drop (32 * b)).take 32))

/-! ### Tiles (09 R200) -/

/-- The key of element (i, j) of tile zN. -/
def zKey (n i j : Nat) : Nat := 4096 * n + 64 * i + j

/-- The key of element (i, c) of zt. -/
def ztKey (i c : Nat) : Nat := 16384 + 32 * i + c

/-- Elements of the five tiles. -/
def tileKeys : Nat := 18432

/-- A tile element. -/
def Core.acc (c : Core) (k : Nat) : Acc := Tab.get 0 c.tile k

/-- A tile element written. -/
def Core.setAcc (c : Core) (k : Nat) (a : Acc) : Core := { c with tile := Tab.put 0 c.tile k a }

/-- Dirty bits set: bits 48 to 52 of zstate (09 R212, R213). -/
def Core.dirty (c : Core) (bits_ : Nat) : Core := { c with zstate := c.zstate ||| word (bits_ % 32 * 2 ^ 48) }

/-- zstate.rv (09 R212). -/
def Core.rv (c : Core) : Bool := bitSet c.zstate 62

/-- zstate.rv written. -/
def Core.setRv (c : Core) (b : Bool) : Core := { c with zstate := withBits c.zstate 62 1 (bit b) }

/-- The dirty bits written: dz in bits 0 to 3, dzt in bit 4. -/
def Core.setDirty (c : Core) (n : Nat) : Core := { c with zstate := withBits c.zstate 48 5 n }

/-- May the current hart use the tiles (09 R213)? -/
def State.tilesOk (s : State) : Bool :=
  decide (s.hart.level ≠ .u)
    || (bitSet s.core.zstate 63 && bits s.core.zstate 24 11 = bits s.hart.asid 0 11 && bits s.core.zstate 0 1 = slotOf s.cur)

/-- Every tile element at the value `f` gives it. -/
def Core.fillTiles (c : Core) (f : Nat → Acc) : Core :=
  { c with tile := ((List.range tileKeys).map (fun k => (k, f k))).filter (fun p => p.2 ≠ 0) }

end Sys2Proof.Machine
end

