-- ==== Sys2Proof/Machine/Slots.lean ====
section
/-! DEFINITION. Channels (09 R191 to R193; 10 R217) and weight slots: WLOAD in its three kinds, its application, fetch and completion (09 R195 to
R197; 10 R218, R219), and the repair of a macro (20 R395, R396). -/

namespace Sys2Proof.Machine

/-! ### Channels -/

/-- The channels held in cluster `c` (09 R191). -/
def Cluster.channelsHeld (c : Cluster) : Nat := (c.chan.map (·.2)).sum

/-- What MATTACH does with a request under row limit `q` (09 R191): the hart's own channels go back first; the rows granted. -/
def State.grantRowsBy (s : State) (q req : Nat) : State × Nat :=
  let s := s.releaseChannels s.cur
  let other := Tab.get 0 s.cluster.chan (chanKey (if slotOf s.cur = 0 then s.cur + 1 else s.cur - 1))
  let g := min (min req (64 - other)) (min q (128 - s.cluster.channelsHeld))
  let s := s.withCluster (fun c => { c with chan := Tab.put 0 c.chan (chanKey s.cur) g, lastServed := chanKey s.cur })
  (s.withHart (fun h => { h with mgrant := word (g + q % 128 * 2 ^ 8 + req * 2 ^ 16) }), g)

/-- The rows a MATTACH is granted: erratum A1-E03 lets it use the q field from before a late write (24 R439). -/
def State.grantRows (s : State) (req : Nat) : State × Nat := s.grantRowsBy (rowLimitOf (s.pwrSeen (coreOf s.cur)) (slotOf s.cur)) req

/-- MATTACH (09 R191). -/
def execMattach (d a : Reg) (s : State) : Result :=
  let (s', g) := s.grantRows (min (s.x a).toNat 64)
  setDone s' d (word g)

/-- MDETACH (09 R191; 10 R217). -/
def execMdetach (s : State) : Result := done (s.releaseChannels s.cur)

/-! ### Slots -/

/-- Slot `n` of a cluster. -/
def Cluster.slot (c : Cluster) (n : Nat) : WSlot := Tab.get WSlot.empty c.slots n

/-- Slot `n` replaced. -/
def Cluster.setSlot (c : Cluster) (n : Nat) (v : WSlot) : Cluster := { c with slots := Tab.put WSlot.empty c.slots n v }

/-- Is the tag that of a 16-bit operand, held in a pair of slots (09 R195)? -/
def is16 (t : Nat) : Bool := t = 8 || t = 9

/-- May a slot hold B of this tag (09 R195; 10 R218)? -/
def slotTag (t : Nat) : Bool := is16 t || (isTag t && tagBits t ≤ 8 && t ≠ 18)

/-- The macro of a slot (20 R395). -/
def macroOf (n : Nat) : Nat := n / 8

/-- Does the request act on slot `n` (10 R218)? The slots of a retired macro stay in error (20 R396). -/
def WloadReq.covers (c : Cluster) (r : WloadReq) (n : Nat) : Bool :=
  match r.kind with
  | 2 => decide ((c.slot n).state ≠ .empty) && decide ((c.slot n).asid = r.asid) && !c.macroRetired.contains (macroOf n)
  | 0 => n = r.s || (is16 r.tag && n = r.s + 1)
  | _ => n = r.s

/-- Does a matrix word between passes hold slot `n` (09 R197)? -/
def State.slotHeld (s : State) (cluster n : Nat) : Bool :=
  (List.range 16).any (fun i =>
    match (s.hartAt (firstHart cluster + i)).run with
    | .waiting (.fill (some t) _) => t.w = n || (is16 t.tag && t.w + 1 = n)
    | _ => false)

/-- May a request begin, `before` being the requests accepted before it (09 R197; 10 R219)? -/
def State.mayBegin (s : State) (cluster : Nat) (before : List WloadReq) (r : WloadReq) : Bool :=
  let c := s.clusterAt cluster
  (List.range 512).all (fun n => !r.covers c n || (!s.slotHeld cluster n && !before.any (fun b => b.covers c n)))

/-- A request that begins (10 R219): a load starts to fetch, the other kinds empty their slots; not those that a later load has marked loading, nor
those of a retired macro, which stay in error (20 R396). -/
def beginReq (c : Cluster) (r : WloadReq) (later : List WloadReq) : Cluster × Option WloadReq :=
  if r.kind = 0 then (c, some { r with applied := true })
  else
    ((List.range 512).foldl (fun k n =>
      if r.covers c n && !c.macroRetired.contains (macroOf n) && !later.any (fun q => q.kind = 0 && q.covers c n) then k.setSlot n WSlot.empty
      else k) c, none)

/-- The first request that may begin, begun. -/
def State.beginFirst (s : State) (cluster : Nat) : List WloadReq → List WloadReq → State
  | _, [] => s
  | before, r :: rest =>
    if !r.applied && s.mayBegin cluster before r then
      let (c, r') := beginReq (s.clusterAt cluster) r rest
      s.modCluster cluster (fun _ => { c with wloads := before ++ r'.toList ++ rest })
    else s.beginFirst cluster (before ++ [r]) rest

/-- WLOAD_APPLY (09 R197): a delayed request begins once every word that holds its slot has retired. -/
def execWloadApply (cluster : Nat) (s : State) : Result := .next (s.beginFirst cluster [] (s.clusterAt cluster).wloads)

/-- An accepted request joins the queue, and begins at once where nothing delays it (09 R197). -/
def State.acceptReq (s : State) (r : WloadReq) : State :=
  let c := clusterOf s.cur
  let before := (s.clusterAt c).wloads
  if s.mayBegin c before r then
    let (k, r') := beginReq (s.clusterAt c) r []
    s.modCluster c (fun _ => { k with wloads := before ++ r'.toList })
  else s.modCluster c (fun k => { k with wloads := before ++ [r] })

/-- The protection check of WLOAD on slot `n` (09 R196). -/
def State.slotDenied (s : State) (n : Nat) : Bool :=
  decide (s.hart.level = .u) && decide ((s.cluster.slot n).state ≠ .empty) && decide ((s.cluster.slot n).asid ≠ s.hart.asid)

/-- The descriptor of a load (10 R218). -/
structure WDesc where
  src : Word
  kstride : BitVec 32
  tag : Nat
  flags : Nat
  kbf : Nat
  scaddr : Word
  last : Nat
  deriving DecidableEq, Repr

/-- A descriptor from its four dwords (10 R218). -/
def WDesc.of (ws : List Nat) : WDesc :=
  let w := ws.getD 1 0
  ⟨word (ws.getD 0 0), BitVec.ofNat 32 w, w / 2 ^ 32 % 256, w / 2 ^ 40 % 256, w / 2 ^ 48 % 65536, word (ws.getD 2 0), ws.getD 3 0⟩

/-- The refusals of a descriptor for slot `n` (10 R218). -/
def WDesc.bad (d : WDesc) (n : Nat) : Bool :=
  d.last ≠ 0 || 2 ≤ d.flags || 1024 ≤ d.kbf || !slotTag d.tag || (is16 d.tag && (n % 2 = 1 || d.src.toNat % 2 = 1 || d.kstride.toNat % 2 = 1))

/-- The reads of `n` dwords from `va` as the hart's own loads (15 R317). -/
def State.observeDwords (s : State) (c : Ctx) (sc : Scope) (va : Word) (n : Nat) : State :=
  (List.range n).foldl (fun s i => s.observeAt c sc (va + word (8 * i)) 8) s

/-- The instruction waits at issue, to be tried again. -/
def stall (s : State) (i : Instr) : Result := .next (s.withHart (fun h => { h with run := .waiting (.drained i) }))

/-- The hart issues again. -/
def Hart.resume (h : Hart) : Hart := { h with run := .running }

/-- The content of a slot as a matrix word that holds it finds it (09 R197). -/
def WSlot.content (v : WSlot) : SlotState := match v.under with | some u => u.state | none => v.state

/-- A slot whose content has state `st` from now on. -/
def WSlot.withContent (v : WSlot) (st : SlotState) : WSlot :=
  match v.under with
  | some u => { v with under := some { u with state := st } }
  | none => { v with state := st }

/-- What stays beneath a load that waits for slot `n` of a cluster (09 R197): the content, where a matrix word between passes holds it. -/
def State.keptContent (s : State) (cluster n : Nat) : Option HeldContent :=
  let v := (s.clusterAt cluster).slot n
  if s.slotHeld cluster n then some (v.under.getD ⟨v.state, v.tag, v.pair, v.scl⟩) else none

/-- A slot marked loading by an accepted load (10 R219); `under` stays beneath it. -/
def WSlot.loading (v : WSlot) (r : WloadReq) (pair : Nat) (under : Option HeldContent) : WSlot :=
  { v with
    state := .loading, under := under, asid := r.asid, tag := r.tag, pair := pair, kb := r.kb, src := r.src, kstride := r.kstride, scl := r.scl
    scaddr := r.scaddr, ptbase := r.ptbase, level := r.level, fault := none }

/-- An accepted load: its slots are marked loading, the load is queued, the WLOAD retires (10 R219). -/
def State.acceptLoad (s : State) (r : WloadReq) : State :=
  let under (n : Nat) : Option HeldContent := s.keptContent (clusterOf s.cur) n
  (s.withCluster (fun c =>
    if is16 r.tag then
      (c.setSlot r.s ((c.slot r.s).loading r 1 (under r.s))).setSlot (r.s + 1) ((c.slot (r.s + 1)).loading r 2 (under (r.s + 1)))
    else c.setSlot r.s ((c.slot r.s).loading r 0 (under r.s)))).acceptReq r

/-- A WLOAD request of the current hart. -/
def State.wloadReq (s : State) (kind n : Nat) (asid : Word) (d : WDesc) : WloadReq :=
  ⟨kind, n, asid, d.tag, d.kbf % 1024, d.src, d.kstride, d.flags % 2 = 1, d.scaddr, s.hart.ptbase, s.hart.level, s.cur, false, s.tick, none⟩

/-- The loads and copies queued at the cluster's controller (10 R219; 17 R345). DESIGN CHOICE (log entry 55): WLOADs of kinds 1 and 2, which load
nothing, are not counted and do not wait for room. -/
def Cluster.queued (c : Cluster) : Nat := (c.wloads.filter (fun r => r.kind = 0)).length + c.copies.length

/-- WLOAD that loads a slot (10 R218, R219); a full queue makes it wait at issue. -/
def wloadLoad (i : Instr) (a : Reg) (n : Nat) (s : State) : Result :=
  if 8 ≤ s.cluster.queued then stall s i
  else
    let s := s.withHart Hart.resume
    orTrap s (s.loadDwords s.ctx .hart (s.x a) 4) fun ws =>
      let s := s.observeDwords s.ctx .hart (s.x a) 4
      let d := WDesc.of ws
      if d.bad n || s.cluster.macroRetired.contains (macroOf n) then raise s 22 (word n)
      else if s.slotDenied n then raise s 21 (word n)
      else if is16 d.tag && s.slotDenied (n + 1) then raise s 21 (word (n + 1))
      else done (s.acceptLoad (s.wloadReq 0 n s.hart.asid d))

/-- WLOAD that empties slot `n` (10 R219). -/
def wloadEmpty (n : Nat) (s : State) : Result :=
  if s.cluster.macroRetired.contains (macroOf n) then raise s 22 (word n)
  else if s.slotDenied n then raise s 21 (word n)
  else done (s.acceptReq (s.wloadReq 1 n 0 (WDesc.of [])))

/-- WLOAD that empties every slot of an ASID (10 R218, R219). -/
def wloadEmptyAll (i : Instr) (asid : Word) (s : State) : Result :=
  if s.hart.level = .u then illegal s i else done (s.acceptReq (s.wloadReq 2 0 asid (WDesc.of [])))

/-- The slot X(xs2) names (10 R218). -/
def State.wslot (s : State) (b : Reg) : Nat := bits (s.x b) 0 9

/-- The ASID X(xs1) names (10 R218). -/
def State.wasid (s : State) (a : Reg) : Word := word (bits (s.x a) 0 11)

/-- WLOAD (10 R218, R219): X(xs2) gives the kind. -/
def execWload (a b : Reg) (s : State) : Result :=
  match bits (s.x b) 10 2 with
  | 0 => wloadLoad (.wload a b) a (s.wslot b) s
  | 1 => wloadEmpty (s.wslot b) s
  | 2 => wloadEmptyAll (.wload a b) (s.wasid a) s
  | _ => raise s 22 (word (s.wslot b))

/-- WLOAD of kind 1 (10 R219). -/
def execWloadEmptySlot (_a b : Reg) (s : State) : Result := wloadEmpty (s.wslot b) s

/-- WLOAD of kind 2 (10 R219); at U, code 2 with the WLOAD's word. -/
def execWloadEmptyAsid (a b : Reg) (s : State) : Result := wloadEmptyAll (.wload a b) (s.wasid a) s

/-! ### The fetch of a load (10 R218, R219) -/

/-- The list of writes older than the last of hart `h`'s own writes to byte `pa` made after step `t`, and what the byte held below them: a
relaxed load placed at step `t` reads none of what follows in coherence order (10 R219; 15 R319). -/
def pastOf (h t pa : Nat) (v : Byte) : List PendWrite → Byte × List PendWrite
  | [] => (v, [])
  | p :: ps =>
    if (p :: ps).any (fun q => q.covers pa && decide (q.owner = .hart h) && t < q.time) then
      pastOf h t pa (if p.covers pa then p.old.getD (pa - p.pa) 0 else v) ps
    else (v, p :: ps)

/-- What a relaxed load of hart `h` placed at step `t` and performed now reads at byte `pa`. The fetch of a WLOAD is performed before the hart's next
turn (State.performFetches); were the hart to have written since, it would read none of that, and once it had released, no write of another agent made
since (15 R319, R320). -/
def State.viewPast (s : State) (h t pa : Nat) : Byte :=
  let (v, ps) := pastOf h t pa (s.latest pa) s.pend
  let released := t < Tab.get 0 s.releases h
  viewFrom (fun p => p.heldBy (.hart h) [.own (.hart h)] && (!released || decide (p.owner = .hart h) || p.time ≤ t)) pa v ps

/-- A load of `n` bytes by the controller for hart `h`, placed at step `t`: the physical address and the value, or the fault; MMIO registers are
reached by scalar loads only (13 R277). -/
def State.loadPast (s : State) (c : Ctx) (h t : Nat) (va : Word) (n : Nat) : Except Trap (Nat × Nat) :=
  match s.target c .load va n with
  | .error e => .error e
  | .ok (.mem pa _) => if s.poisoned pa then .error ⟨33, va⟩ else .ok (pa, leNat ((List.range n).map (fun i => s.viewPast h t (pa + i))))
  | .ok (.rom pa) => .ok (pa, leNat (s.latestBytes pa n))
  | .ok (.reg _ _) => .error ⟨5, va⟩

/-- Where element (k, n) of B lies (10 R218). -/
def WloadReq.at (r : WloadReq) (k n : Nat) : Word :=
  r.src + word k * r.kstride.signExtend 64 + word (if is16 r.tag then 2 * n else if tagBits r.tag = 4 then n / 2 else n)

/-- Bytes of an access to an element of B. -/
def WloadReq.size (r : WloadReq) : Nat := if is16 r.tag then 2 else 1

/-- The addresses of the first and last element of each row of a load, with the bytes of an access, and of its scales. -/
def WloadReq.rowEnds (r : WloadReq) : List (Word × Nat) :=
  (List.range 64).flatMap (fun k => [(r.at k 0, r.size), (r.at k 63, r.size)]) ++ (if r.scl then [(r.scaddr, 1), (r.scaddr + 127, 1)] else [])

/-- Elements `ks` of a load in order: their cells, or the first fault. -/
def State.fetchCells (s : State) (c : Ctx) (r : WloadReq) : List Nat → Except Trap (List (Nat × Nat))
  | [] => .ok []
  | k :: ks =>
    match s.loadPast c r.hart r.time (r.at (k / 64) (k % 64)) r.size with
    | .error t => .error t
    | .ok (_, v) =>
      match s.fetchCells c r ks with
      | .error t => .error t
      | .ok l => .ok ((k, if tagBits r.tag = 4 then v / 16 ^ (k % 2) % 16 else v) :: l)

/-- The 128 scales of a load. -/
def State.fetchScales (s : State) (c : Ctx) (r : WloadReq) : List Nat → Except Trap (List (Nat × Nat))
  | [] => .ok []
  | k :: ks =>
    match s.loadPast c r.hart r.time (r.scaddr + word k) 1 with
    | .error t => .error t
    | .ok (_, v) =>
      match s.fetchScales c r ks with
      | .error t => .error t
      | .ok l => .ok ((k, v) :: l)

/-- A table of bytes from cells in rising order. -/
def byteTab (d : Byte) (l : List (Nat × Nat)) (f : Nat → Nat) : Tab Byte :=
  (l.map (fun p => (p.1, BitVec.ofNat 8 (f p.2)))).filter (fun p => p.2 ≠ d)

/-- The physical addresses of the first and last element of each row, and of the scales (20 R396). -/
def State.rowPas (s : State) (c : Ctx) (r : WloadReq) : List (Nat × Nat) :=
  let pa (va : Word) (n : Nat) : Nat := match s.loadPast c r.hart r.time va n with | .ok (p, _) => p | .error _ => 0
  (List.range 64).map (fun k => (pa (r.at k 0) r.size, pa (r.at k 63) r.size)) ++ [(pa r.scaddr 1, pa (r.scaddr + 127) 1)]

/-- A slot with its content (09 R195): the cells of the element's byte `b`. -/
def WSlot.filled (v : WSlot) (cells scales : List (Nat × Nat)) (pas : List (Nat × Nat)) (b : Nat) : WSlot :=
  { v with
    state := .ready, under := none, data := byteTab 0 cells (fun x => x / 256 ^ b), scales := byteTab 0x7F scales (fun x => x), pas := pas }

/-- A slot in error, with the cause and the address of the fault in its metadata (09 R197). -/
def WSlot.failed (v : WSlot) (t : Trap) : WSlot := { v with state := .error, under := none, fault := some (t.code, t.tval) }

/-- The end of a load whose cells have arrived, or which faulted (09 R197; 10 R219). A slot for which a later load waits stays loading; one of a
retired macro stays in error (20 R396). -/
def Cluster.endLoad (c : Cluster) (r : WloadReq) (res : Except Trap (List (Nat × Nat) × List (Nat × Nat) × List (Nat × Nat))) : Cluster :=
  let one (k : Cluster) (n b : Nat) : Cluster :=
    if c.wloads.any (fun q => q.kind = 0 && q.covers c n) then k
    else if c.macroRetired.contains (macroOf n) then k.setSlot n { k.slot n with state := .error, under := none }
    else
      match res with
      | .ok (cells, scales, pas) => k.setSlot n ((k.slot n).filled cells scales pas b)
      | .error t => k.setSlot n ((k.slot n).failed t)
  if is16 r.tag then one (one c r.s 0) (r.s + 1) 1 else one c r.s 0

/-- The context of a load: that of its hart at the WLOAD (10 R219). -/
def WloadReq.ctx (r : WloadReq) : Ctx := ctxAt r.hart (.hart r.hart) r.level r.asid r.ptbase

/-- What the fetch of a load reads if it is performed now (10 R218, R219). -/
def State.weights (s : State) (r : WloadReq) : Weights :=
  match s.fetchCells r.ctx r (List.range 4096), (if r.scl then s.fetchScales r.ctx r (List.range 128) else .ok []) with
  | .ok cells, .ok scales => .arrived cells scales (s.rowPas r.ctx r)
  | .error t, _ => .faulted t.code t.tval
  | _, .error t => .faulted t.code t.tval

/-- The accepted loads of the current hart that have not read yet. -/
def State.fetchesDue (s : State) : List WloadReq := s.cluster.wloads.filter (fun r => r.kind = 0 && r.hart = s.cur && r.got.isNone)

/-- The fetches of the current hart's accepted loads are performed: they are reads of the hart at the WLOADs' places, and none of its later accesses
comes before them (10 R219; 14 R306; 15 R319). Log entry 29. -/
def State.performFetches (s : State) : State :=
  match s.fetchesDue with
  | [] => s
  | due =>
    (due.foldl (fun u r => u.requestAll r.ctx .load r.rowEnds) s).withCluster (fun k =>
      { k with wloads := k.wloads.map (fun r => if due.contains r then { r with got := some (s.weights r) } else r) })

/-- WLOAD_FETCH_COMPLETE (09 R197; 10 R219): the oldest load under way ends; it has read, or reads now. A fault or poison puts its slots in error and
is logged. -/
def execWloadFetchComplete (cluster : Nat) (s : State) : Result :=
  match (s.clusterAt cluster).wloads.find? (fun r => r.applied) with
  | none => .next s
  | some r =>
    let u := match r.got with | none => s.requestAll r.ctx .load r.rowEnds | some _ => s
    let u := u.modCluster cluster (fun k => { k with wloads := k.wloads.erase r })
    match r.got.getD (s.weights r) with
    | .arrived cells scales pas => .next (u.modCluster cluster (fun k => k.endLoad r (.ok (cells, scales, pas))))
    | .faulted code tval =>
      .next ((u.modCluster cluster (fun k => k.endLoad r (.error ⟨code, tval⟩))).record (dieOfCluster cluster) 7 false 0 tval r.asid r.hart code)

/-! ### Macros (20 R395, R396) -/

/-- The site key of macro `m` of a cluster: macros are numbered 64 x cluster + macro in their die. -/
def macroKey (cluster m : Nat) : Nat := siteKey .macro_ (64 * (cluster % 24) + m)

/-- A residue failure of a pass that uses slot `n` (20 R395): counted for its macro; the pass is run again. -/
def State.residueFailure (s : State) (cluster n : Nat) : State := s.correctedError (dieOfCluster cluster) (macroKey cluster (macroOf n))

/-- MACRO_REPAIR (20 R396): the skip wires bypass the failing row or column and the macro's ready slots wait for their reload; a second lasting
failure of the same kind retires the macro. DESIGN CHOICE (log entry 85): the repaired macro counts its errors afresh. -/
def execMacroRepair (cluster mac : Nat) (row : Bool) (s : State) : Result :=
  let d := dieOfCluster cluster
  let key := macroKey cluster mac
  let kind := if row then 1 else 2
  if (s.dieAt d).lasting.contains key && !(s.clusterAt cluster).macroRetired.contains mac then
    let used := Tab.get 0 (s.clusterAt cluster).macroFail mac
    let slots := (List.range 8).map (fun i => 8 * mac + i)
    if used / kind % 2 = 1 then
      .next ((s.modCluster cluster (fun c =>
        slots.foldl (fun c n => c.setSlot n { (c.slot n).withContent .error with state := .error }) { c with macroRetired := mac :: c.macroRetired })).record
          d 3 true (key % 2 ^ 48) 0 0 0 0)
    else
      let s := s.modDie d (fun x => { x with lasting := x.lasting.erase key, sites := Tab.put [] x.sites key [] })
      .next ((s.modCluster cluster (fun c =>
        slots.foldl (fun c n => if (c.slot n).content = .ready then c.setSlot n ((c.slot n).withContent .loading) else c)
          { c with macroFail := Tab.put 0 c.macroFail mac (used + kind) })).record d 3 true (key % 2 ^ 48) 0 0 0 0)
  else .next s

/-- A physical read by the controller of a cluster: none where nothing responds or the sector is poisoned. -/
def State.reloadRead (s : State) (cluster pa n : Nat) : Option Nat :=
  if s.poisoned (s.forward pa) then none else s.physRead (.ctl cluster) .hart pa n

/-- The fault of a reload that cannot read at `pa` (09 R197; 20 R396). -/
def State.reloadFault (s : State) (pa : Nat) : Trap := ⟨if s.poisoned (s.forward pa) then 33 else 5, word pa⟩

/-- The physical address of byte `o` of a run of `len` bytes whose first and last elements lie at `f` and `l`. -/
def runPa (f l len o : Nat) : Nat := if f % 4096 + o < 4096 then f + o else l + o - len

/-- Does the slot wait to be loaded again (20 R396)? A slot that a WLOAD has marked loading does not; the content beneath may. -/
def Cluster.reloads (c : Cluster) (n : Nat) : Bool :=
  decide ((c.slot n).content = .loading) && ((c.slot n).under.isSome || !c.wloads.any (fun r => r.covers c n))

/-- A slot whose content has been loaded again (20 R396). -/
def WSlot.reloaded (v : WSlot) (cells scales : List (Nat × Nat)) : WSlot :=
  { v.withContent .ready with data := byteTab 0 cells (fun x => x), scales := byteTab 0x7F scales (fun x => x) }

/-- A slot whose content could not be loaded again. -/
def WSlot.reloadFailed (v : WSlot) (t : Trap) : WSlot :=
  match v.under with
  | some _ => v.withContent .error
  | none => v.failed t

/-- SLOT_RELOAD_COMPLETE (20 R396): a slot of a repaired macro is loaded again from its recorded physical addresses. -/
def execSlotReloadComplete (cluster : Nat) (slot : Nat) (s : State) : Result :=
  let c := s.clusterAt cluster
  let v := c.slot slot
  let was : HeldContent := v.under.getD ⟨v.state, v.tag, v.pair, v.scl⟩
  if c.reloads slot then
    let size := if is16 was.tag then 2 else 1
    let half := if tagBits was.tag = 4 then 2 else 1
    let cellAt (k : Nat) : Nat := let (f, l) := v.pas.getD (k / 64) (0, 0); runPa f l (63 * size / half) (k % 64 * size / half)
    let cell (k : Nat) : Option Nat :=
      (s.reloadRead cluster (cellAt k) size).map (fun x => if half = 2 then x / 16 ^ (k % 2) % 16 else x / 256 ^ (was.pair / 2))
    let scaleAt (k : Nat) : Nat := let (f, l) := v.pas.getD 64 (0, 0); runPa f l 127 k
    let scales := if was.scl then (List.range 128).map (fun k => (k, s.reloadRead cluster (scaleAt k) 1)) else []
    let cells := (List.range 4096).map (fun k => (k, cell k))
    match cells.find? (fun p => p.2.isNone), scales.find? (fun p => p.2.isNone) with
    | none, none =>
      .next (s.modCluster cluster (fun c =>
        c.setSlot slot (v.reloaded (cells.map (fun p => (p.1, p.2.getD 0))) (scales.map (fun p => (p.1, p.2.getD 0))))))
    | some p, _ => .next (s.modCluster cluster (fun c => c.setSlot slot (v.reloadFailed (s.reloadFault (cellAt p.1)))))
    | none, some p => .next (s.modCluster cluster (fun c => c.setSlot slot (v.reloadFailed (s.reloadFault (scaleAt p.1)))))
  else .next s

end Sys2Proof.Machine
end

