-- ==== Sys2Proof/Machine/Work.lean ====
section
/-! DEFINITION. Crews at work: the core map (23 R429), where a placed hart starts (11 R244, R253), SPAWN, messages (11 R252 to R254), panels
(11 R249 to R251), pennants (11 R258, R259) and END (11 R260; 17 R360). -/

namespace Sys2Proof.Machine

/-! ### The core map (23 R429) -/

/-- A core map as someone uses it: the register's value, who reads its table, and the step of its last write. -/
structure CoreMap where
  reader : AgentId
  map : Word
  time : Nat
  deriving DecidableEq, Repr

/-- A halfword of a core or torus table: as it stood when its register was last written (23 R429), among the writes visible at .device. -/
def State.tableHalf (s : State) (m : CoreMap) (pa : Nat) : Nat :=
  let byte (pa : Nat) : Byte :=
    viewFrom (fun p => decide (p.time < m.time) && p.heldBy m.reader (pointsUpTo m.reader .device)) pa (s.latest pa) s.pend
  let pa := s.forward pa
  leNat [byte pa, byte (pa + 1)]

/-- Does the package have a core of that number (01 R22)? -/
def isCore (c : Nat) : Bool := c < 2048 && c / 8 % 32 < 24

/-- The physical core that entry `n` names (23 R429). -/
def State.coreEntry (s : State) (m : CoreMap) (n : Nat) : Option Nat :=
  if bitSet m.map 63 then
    let pa := bits m.map 12 40 * 4096 + 2 * n
    let e := s.tableHalf m pa
    if s.reaches (s.forward pa) 2 && e.testBit 15 && isCore (e % 2048) then some (e % 2048) else none
  else some (256 * (n / 192) + n % 192)

/-- The physical core that logical core `n` is mapped to, whatever the state of its die (23 R429; 11 R242). -/
def State.mappedCore (s : State) (m : CoreMap) (n : Nat) : Option Nat :=
  if n < 1536 then
    match s.coreEntry m n with
    | some c => if bitSet m.map 63 && (List.range n).any (fun k => s.coreEntry m k = some c) then none else some c
    | none => none
  else none

/-- The physical core of a present logical core (23 R429). -/
def State.logicalCore (s : State) (m : CoreMap) (n : Nat) : Option Nat := (s.mappedCore m n).filter (fun c => s.admitted (dieOfCore c))

/-- The logical number of a core, if its map names it. -/
def State.coreNumber (s : State) (m : CoreMap) (c : Nat) : Option Nat :=
  if bitSet m.map 63 then (List.range 1536).find? (fun n => s.coreEntry m n = some c) else some (192 * (c / 256) + c % 256)

/-- The requests of the reads of a table of `n` bytes at `pa`, one for each 512 bytes (13 R280, R281). -/
def State.tableRequests (s : State) (pa n : Nat) : State := (List.range ((n + 511) / 512)).foldl (fun s i => s.touchAt (pa + 512 * i)) s

/-- The requests of the reads of a core map (13 R281; 23 R429). -/
def State.mapRequests (s : State) (map : Word) : State := if bitSet map 63 then s.tableRequests (bits map 12 40 * 4096) 3072 else s

/-- The core map of the current hart. -/
def State.ownMap (s : State) : CoreMap := ⟨.hart s.cur, s.hart.coremap, s.hart.coremapAt⟩

/-! ### Placing a hart (11 R244) -/

/-- Is hart slot `h` reserved for an accepted child (11 R253)? -/
def State.reserved (s : State) (h : Nat) : Bool := (s.coreAt (coreOf h)).children.any (fun c => c.slot = slotOf h)

/-- Is hart slot `h` empty and unreserved (11 R253)? -/
def State.slotFree (s : State) (h : Nat) : Bool := decide ((s.hartAt h).run = .empty) && !s.reserved h

/-- The other slot of a slot's core. -/
def otherSlot (h : Nat) : Nat := if h % 2 = 0 then h + 1 else h - 1

/-- lanecap as the launcher writes it for a hart in slot `h` (11 R244): alone on the core, or with a hart in both slots. -/
def lanesAlone (slot : Nat) : Word := if slot = 0 then 0x00FF else 0xFF00

/-- lanecap of two harts on one core (11 R244). -/
def lanesShared : Word := 0xF00F

/-- Write lanecap of a core that receives a hart in slot `h` (11 R244, R253). -/
def State.assignLanes (s : State) (h : Nat) : State :=
  s.modCore (coreOf h) (fun c => { c with lanecap := if s.slotFree (otherSlot h) then lanesAlone (slotOf h) else lanesShared })

/-- An entry of the ASID table (23 R422). -/
structure AsidEntry where
  ptbase : Word
  coremap : Word
  routemap : Word
  ebase : Word
  deriving DecidableEq, Repr

/-- Entry `a` of the ASID table, as the launcher reads it; none while the table is off or cannot be read (23 R422). -/
def State.asidEntry (s : State) (a : Word) : Option AsidEntry :=
  if bitSet s.regs.asidtab 0 then
    let pa := bits s.regs.asidtab 12 40 * 4096 + 32 * a.toNat
    match s.physRead launcher .system pa 8, s.physRead launcher .system (pa + 8) 8, s.physRead launcher .system (pa + 16) 8,
        s.physRead launcher .system (pa + 24) 8 with
    | some p, some c, some r, some e => some ⟨word p, word c, word r, word e⟩
    | _, _, _, _ => none
  else none

/-- The request of the read of entry `a` of the ASID table (13 R281; 23 R422). -/
def State.asidRequest (s : State) (a : Word) : State :=
  if bitSet s.regs.asidtab 0 then s.touchAt (bits s.regs.asidtab 12 40 * 4096 + 32 * a.toNat) else s

/-- What a placed hart starts with (11 R244, R253). -/
structure Placement where
  asid : Word
  entry : AsidEntry
  prio : Nat
  launch : Nat
  member : Nat
  pc : Word
  args : List Word
  deriving DecidableEq, Repr

/-- The registers of a placed hart (11 R244; 17 R360; 19 R380), reserved bits zero (00 R7): bits 1:0 of its pc are zero (01 R14; log entry 27), a0
to a3 are x5 to x8; eshadow, eword and mseq keep what the slot holds (log entry 22). -/
def Hart.placed (h : Hart) (p : Placement) (tvecS tvecM : Word) (held : BitVec 8) (limit tick stay : Nat) : Hart :=
  let h := (((({ h with x := [] }.setReg 5 (p.args.getD 0 0)).setReg 6 (p.args.getD 1 0)).setReg 7 (p.args.getD 2 0)).setReg 8
    (p.args.getD 3 0)).resetVector held limit
  { h with
    level := .u, pc := withBits p.pc 0 2 0, asid := p.asid, ptbase := p.entry.ptbase &&& 0x800FFFFFFFFFF000
    coremap := p.entry.coremap &&& 0x800FFFFFFFFFF000, routemap := p.entry.routemap &&& 0x800FFFFFFFFFFFFF
    ebase := p.entry.ebase &&& 0xFFFFFFFFFFFFFFFD, coremapAt := tick, routemapAt := tick, fflags := 0, frm := 0, iflags := 0, vxflags := 0, vxtrap := 0
    vpoison := 0, mgrant := 0, amiss := 0, adbase := 0, recvto := 0, retired := 0, uxid := 0, uhandler := 0, ushadow0 := 0
    ushadow1 := 0, ushadow2 := 0, ushadow3 := 0, streams := [], ov := false, trapS := { TrapRegs.reset with tvec := tvecS }
    trapM := { TrapRegs.reset with tvec := tvecM }, tag := some (p.launch, p.member), run := .running, prio := p.prio, lastSend := none
    ahead := none, block := none, partials := [], stopped := [], stay := stay, loweredGq := none, throttledM := false, stopIn := none, hwError := none }

/-- A slot receives a new hart (11 R264; 19 R367): the core's arbitration count returns to zero, hirq.pre and hirq.die are cleared. -/
def State.receive (s : State) (h : Nat) : State :=
  (s.clearNotices h).modCore (coreOf h) (fun c => { c with arbCount := 0, issued := c.issued.erase (slotOf h) })

/-- Place a hart in slot `h` (11 R244): its lanes are those free of its field; its start is an acquire at scope `sc`. -/
def State.place (s : State) (h : Nat) (p : Placement) (sc : Scope) : State :=
  let s := s.receive h
  (s.modHart h (fun x =>
    x.placed p s.regs.lvecs s.regs.lvecm (s.lanesFor h) (laneLimitOf (s.coreAt (coreOf h)).pwrcap (slotOf h)) s.tick (newStay h s.tick))).acquire (.hart h) sc

/-! ### SPAWN (11 R252, R253) -/

/-- The crew of the current hart and its member number (19 R380). -/
def State.ownCrew (s : State) : Option (Crew × Nat) :=
  match s.hart.tag with
  | some (n, m) => (s.crewOf n).map (fun c => (c, m))
  | none => none

/-- The slot a child of core `c` gets: empty and unreserved, where the spawn queue of 8 has room (11 R253). DESIGN CHOICE (log entry 56): H0 where
both are free. -/
def State.childSlot (s : State) (c : Nat) : Option Nat :=
  if (s.coreAt c).children.length < 8 then [2 * c, 2 * c + 1].find? s.slotFree else none

/-- An accepted child (11 R253; 19 R380): its slot is reserved, it counts in the crew, its member number follows the order of acceptance. -/
def State.acceptChild (s : State) (cr : Crew) (h : Nat) (ws : List Nat) : State :=
  let s := (s.release (.hart s.cur) .device).assignLanes h
  let s := s.modCrew cr.number (fun x => { x with children := x.children + 1, left := x.left + 1 })
  s.modCore (coreOf h) (fun c =>
    { c with
      children := c.children ++
        [⟨slotOf h, word (ws.getD 0 0), [word (ws.getD 1 0), word (ws.getD 2 0), word (ws.getD 3 0), cr.recAddr], cr.number,
          3072 + cr.children⟩] })

/-- SPAWN (11 R252, R253): 1 accepted, 0 refused, 2 no present core; without a work tag, code 26. DEDUCED (log entry 73): the message is read, and may
fault, before the core is looked for. -/
def execSpawn (d a b : Reg) (s : State) : Result :=
  match s.ownCrew with
  | none => raise s 26 0
  | some (cr, _) =>
    orTrap s (s.loadDwords s.ctx .hart (s.x b) 4) fun ws =>
      let s := (s.observeDwords s.ctx .hart (s.x b) 4).mapRequests s.hart.coremap
      match s.logicalCore s.ownMap (s.x a).toNat with
      | none => setDone s d 2
      | some c =>
        match s.childSlot c with
        | none => setDone s d 0
        | some h => setDone (s.acceptChild cr h ws) d 1

/-- May a child of core `c` start: are the lanes of its field free (11 R253)? DESIGN CHOICE (log entry 80): a child whose crew was terminated never
starts. -/
def State.childReady (s : State) (c : Nat) (k : Child) : Bool :=
  decide ((s.coreAt c).field k.slot &&& (s.hartAt (otherSlot (2 * c + k.slot))).held = 0)
    && match s.crewOf k.launch with | some cr => (s.asidEntry cr.asid).isSome | none => false

/-- SPAWN_CHILD_START (11 R253): the first accepted child of the core whose lanes are free starts. -/
def execSpawnChildStart (core : Nat) (s : State) : Result :=
  match (s.coreAt core).children.find? (s.childReady core) with
  | none => .next s
  | some k =>
    match s.crewOf k.launch with
    | none => .next s
    | some cr =>
      match s.asidEntry cr.asid with
      | none => .next s
      | some e =>
        let s := (s.asidRequest cr.asid).modCore core (fun c => { c with children := c.children.erase k })
        .next (s.place (2 * core + k.slot) ⟨cr.asid, e, cr.prio, cr.number, k.member, k.pc, k.args⟩ .device)

/-! ### Messages (11 R252, R254, R263) -/

/-- The check of one dword of a buffer for a load or a store (11 R263). -/
def State.checkDword (s : State) (c : Ctx) (k : Kind) (va : Word) : Option Trap :=
  match s.target c k va 8 with
  | .error t => some t
  | .ok (.mem _ _) => none
  | .ok (.rom _) => if k = .store then some ⟨7, va⟩ else none
  | .ok (.reg _ off) => if k = .store ∧ off = 0x07000000 ∧ c.level = .u then some ⟨7, va⟩ else none

/-- The checks of `n` dwords from `va` for each kind of `ks`: the first that fails (11 R263). -/
def State.checkDwords (s : State) (c : Ctx) (ks : List Kind) (va : Word) : Nat → Option Trap
  | 0 => none
  | n + 1 =>
    match ks.findSome? (fun k => s.checkDword c k va) with
    | some t => some t
    | none => s.checkDwords c ks (va + 8) n

/-- A store of a dword at the translated address `pa`, checked before; one whose die has left is a lost write (11 R263; 22 R415). -/
def State.storeAt (s : State) (c : Ctx) (sc : Scope) (pa v : Nat) : State :=
  match s.targetAt .store (word pa) ⟨pa, false⟩ 8 with
  | .ok (.mem p _) => s.put c sc p 8 v
  | .ok (.reg d off) => (s.settleFor c).writeReg d off (word v)
  | _ => s.record 0 10 false 0 (word pa) 0 0 0

/-- A store of a dword at `va`, checked before. -/
def State.storeDword (s : State) (c : Ctx) (sc : Scope) (va : Word) (v : Nat) : State :=
  match s.translate c .store va with
  | .ok x => (s.walkRequests c va).storeAt c sc x.pa v
  | .error _ => s

/-- Stores of a list of dwords from `va` on. -/
def State.storeDwords (s : State) (c : Ctx) (sc : Scope) (va : Word) : List Nat → State
  | [] => s
  | w :: ws => (s.storeDword c sc va w).storeDwords c sc (va + 8) ws

/-- SEND (11 R252, R254): the sender's number is the one of its own core map; a core its map does not name has no stated number. DEDUCED (log entry
73): the message is read, and may fault, before the core is looked for. -/
def execSend (d a b : Reg) (s : State) : Result :=
  orTrap s (s.loadDwords s.ctx .hart (s.x b) 4) fun ws =>
    let s := (s.observeDwords s.ctx .hart (s.x b) 4).mapRequests s.hart.coremap
    match s.logicalCore s.ownMap (s.x a).toNat with
    | none => setDone s d 2
    | some c =>
      if 16 ≤ (s.coreAt c).inbound.length then setDone s d 0
      else
        let me := (s.coreNumber s.ownMap (coreOf s.cur)).getD (Config.freeWord s.tick).toNat
        let s := (s.release (.hart s.cur) .device).modCore c (fun k => { k with inbound := k.inbound ++ [⟨me, ws.flatMap (leBytes 8)⟩] })
        setDone (s.withHart (fun h => { h with lastSend := some c })) d 1

/-- Does the hart wait in RECV, and since when? -/
def Run.recvSince : Run → Option Nat
  | .waiting (.recv _ _ t) => some t
  | _ => none

/-- Is the current hart, waiting since `t`, the next one of its core to be served (11 R254)? -/
def State.recvFirst (s : State) (t : Nat) : Bool :=
  match (s.hartAt (otherSlot s.cur)).run.recvSince with
  | some u => t < u || (t = u && slotOf s.cur = 0)
  | none => true

/-- The dwords of a message. -/
def Message.dwords (m : Message) : List Nat := (List.range 4).map (fun i => leNat ((m.body.drop (8 * i)).take 8))

/-- RECV takes the oldest message (11 R254, R263). -/
def recvTake (d a : Reg) (s : State) : Result :=
  match s.checkDwords s.ctx [.store] (s.x a) 4 with
  | some t => .next (s.trap t)
  | none =>
    match s.core.inbound with
    | [] => .next s
    | m :: rest =>
      let s := (s.withCore (fun c => { c with inbound := rest })).acquire (.hart s.cur) .device
      setDone (s.storeDwords s.ctx .hart (s.x a) m.dwords) d (word m.sender)

/-- RECV (11 R254, R263): with an empty queue, or behind another waiting hart of the core, it waits. -/
def execRecv (d a : Reg) (s : State) : Result :=
  match s.checkDwords s.ctx [.store] (s.x a) 4 with
  | some t => .next (s.trap t)
  | none =>
    if s.core.inbound.isEmpty || (s.hartAt (otherSlot s.cur)).run.recvSince.isSome then
      .next (s.withHart (fun h => { h with run := .waiting (.recv d a s.clk) }))
    else recvTake d a s

/-- RECV_WAKE (11 R254): a message has arrived for the hart that began to wait first. -/
def execRecvWake (s : State) : Result :=
  match s.hart.run with
  | .waiting (.recv d a t) =>
    if !s.core.inbound.isEmpty && s.recvFirst t then recvTake d a (s.withHart Hart.resume) else .next s
  | _ => .next s

/-- RECV_TIMEOUT (11 R254). -/
def execRecvTimeout (s : State) : Result :=
  match s.hart.run with
  | .waiting (.recv _ _ t) =>
    if s.hart.recvto ≠ 0 ∧ t + s.hart.recvto.toNat * 1024 ≤ s.clk then raise (s.withHart Hart.resume) 25 0 else .next s
  | _ => .next s

/-! ### Panels (11 R249 to R251) -/

/-- The outstanding pieces of a member of a launch (19 R380). -/
def State.piecesOf (s : State) (launch member : Nat) : List Piece := s.pieces.filter (fun p => p.launch = launch && p.member = member)

/-- A panel from the four dwords of its geometry (11 R249). -/
def Panel.of (ws : List Nat) : Panel :=
  let a := ws.getD 0 0
  let b := ws.getD 1 0
  ⟨a % 2 ^ 32, a / 2 ^ 32, b % 2 ^ 32, b / 2 ^ 32, 0, 0, 0, 0⟩

/-- The panel of a crew, read at the first PGRAB (11 R249). -/
def State.panelOf (s : State) (cr : Crew) : Except Trap (State × Panel) :=
  match cr.panel with
  | some p => .ok (s, p)
  | none =>
    match s.loadDwords s.ctx .hart cr.panelAddr 4 with
    | .error t => .error t
    | .ok ws => if ws.getD 3 0 ≠ 0 then .error ⟨26, cr.panelAddr⟩ else .ok (s.observeDwords s.ctx .hart cr.panelAddr 4, Panel.of ws)

/-- A piece as PGRAB hands it out: origin, extent, and the panel after it (11 R250). -/
def Panel.grab (p : Panel) (wr wc : Nat) : Word × Word × Nat × Panel :=
  let hb := if p.hb = 0 then min wr (p.nrows - p.r) else p.hb
  let pc := min wc (p.ncols - p.c)
  let origin := word ((p.row0 + p.r) % 2 ^ 32 * 2 ^ 32 + (p.col0 + p.c) % 2 ^ 32)
  (origin, word (hb * 2 ^ 32 + pc), hb * pc,
    if p.c + pc = p.ncols then { p with c := 0, r := p.r + hb, hb := 0 } else { p with c := p.c + pc, hb := hb })

/-- The row want of a hart (11 R250). -/
def Hart.rowWant (h : Hart) : Nat := if bits h.mgrant 0 7 ≠ 0 then bits h.mgrant 0 7 else h.rows.toNat

/-- The column want of a hart, vgrant.gmax (11 R250). -/
def Hart.colWant (h : Hart) : Nat := bits h.vgrant 32 14

/-- PGRAB (11 R249, R250). -/
def execPgrab (d d2 : Reg) (s : State) : Result :=
  if s.hart.colWant = 0 then raise s 16 0
  else
    match s.ownCrew with
    | none => raise s 26 0
    | some (cr, m) =>
      if cr.panelAddr = 0 ∨ 8 ≤ (s.piecesOf cr.number m).length then raise s 26 0
      else
        orTrap s (s.panelOf cr) fun (s, p) =>
          if p.nrows ≤ p.r then done (((s.modCrew cr.number (fun x => { x with panel := some p })).setX d 0).setX d2 0)
          else
            let (origin, extent, area, p') := p.grab s.hart.rowWant s.hart.colWant
            let s := s.modCrew cr.number (fun x => { x with panel := some p' })
            let s : State := { s with pieces := s.pieces ++ [Piece.mk cr.number m origin area] }
            done ((s.setX d origin).setX d2 extent)

/-- Has the crew's completion word received done from someone else, a supervisor that terminates the crew (19 R384)? -/
def State.crewOver (s : State) (cr : Crew) : Bool :=
  match s.target (launchCtx cr.asid cr.ptbase) .load cr.cword 8 with
  | .ok (.mem pa _) => (leNat (s.latestBytes pa 8)).testBit 63
  | _ => false

/-- A launch that has not ended (19 R380, R384). -/
def State.liveCrew (s : State) (n : Nat) : Option Crew := (s.crewOf n).filter (fun c => !s.crewOver c)

/-- PDONE (11 R251): the piece of that origin retires; 1 for the last of the panel. -/
def execPdone (d a : Reg) (s : State) : Result :=
  match s.hart.tag with
  | none => raise s 26 (s.x a)
  | some (n, m) =>
    match s.liveCrew n, (s.piecesOf n m).find? (fun p => p.origin = s.x a) with
    | some cr, some p =>
      match cr.panel with
      | none => raise s 26 (s.x a)
      | some g =>
        let s := s.release (.hart s.cur) .device
        let s := { s with pieces := s.pieces.erase p }
        let s := s.modCrew n (fun x => { x with panel := some { g with area := g.area + p.area } })
        setDone s d (boolWord (g.area + p.area = g.nrows * g.ncols))
    | _, _ => raise s 26 (s.x a)

/-! ### Pennants (11 R258, R259) -/

/-- A pennant's name (11 R258): its scope and number, none where the name is bad. -/
def pennantName (w : Word) : Option (Scope × Nat) :=
  if w.toNat < 64 then some (.cluster, w.toNat)
  else if 256 ≤ w.toNat ∧ w.toNat < 512 then some (.die, w.toNat - 256)
  else none

/-- Pennant `n` of the current hart's cluster or die. -/
def State.pennant (s : State) (p : Scope × Nat) : Pennant :=
  if p.1 = .cluster then Tab.get Pennant.reset s.cluster.pennants p.2 else Tab.get Pennant.reset (s.dieAt (dieOf s.cur)).pennants p.2

/-- That pennant replaced. -/
def State.setPennant (s : State) (p : Scope × Nat) (v : Pennant) : State :=
  if p.1 = .cluster then s.withCluster (fun c => { c with pennants := Tab.put Pennant.reset c.pennants p.2 v })
  else s.modDie (dieOf s.cur) (fun d => { d with pennants := Tab.put Pennant.reset d.pennants p.2 v })

/-- A pennant after one arrival (11 R259). -/
def Pennant.arrive (p : Pennant) (expected : Nat) (asid : Word) : Pennant :=
  if p.count + 1 = expected then ⟨0, expected, p.gen + 1, asid⟩ else ⟨p.count + 1, expected, p.gen, asid⟩

/-- PNARRIVE (11 R259). -/
def execPnarrive (d a b : Reg) (s : State) : Result :=
  match pennantName (s.x a) with
  | none => raise s 27 (s.x a)
  | some n =>
    let p := s.pennant n
    let e := (s.x b).toNat
    if e = 0 ∨ 3072 < e ∨ (p.count ≠ 0 ∧ (p.expected ≠ e ∨ p.asid ≠ s.hart.asid)) then raise s 27 (s.x a)
    else setDone ((s.release (.hart s.cur) n.1).setPennant n (p.arrive e s.hart.asid)) d (zext 32 p.gen)

/-- PNWAIT's end, or its wait (11 R259). -/
def pnwaitTry (d a b : Reg) (s : State) : Result :=
  match pennantName (s.x a) with
  | none => raise s 27 (s.x a)
  | some n =>
    let p := s.pennant n
    if p.count ≠ 0 ∧ p.asid ≠ s.hart.asid then raise s 27 (s.x a)
    else if zext 32 p.gen ≠ s.x b then setDone (s.acquire (.hart s.cur) n.1) d (zext 32 p.gen)
    else .next (s.withHart (fun h => { h with run := .waiting (.pnwait d a b) }))

/-- PNWAIT (11 R259). -/
def execPnwait (d a b : Reg) (s : State) : Result := pnwaitTry d a b s

/-- PNWAIT_WAKE (11 R259): the generation has advanced past the one the hart waits out. -/
def execPnwaitWake (s : State) : Result :=
  match s.hart.run with
  | .waiting (.pnwait d a b) =>
    match pennantName (s.x a) with
    | some n => if zext 32 (s.pennant n).gen ≠ s.x b then
        setDone ((s.withHart Hart.resume).acquire (.hart s.cur) n.1) d (zext 32 (s.pennant n).gen) else .next s
    | none => .next s
  | _ => .next s

/-! ### END (11 R260; 17 R360) -/

/-- The context of END's writes to the completion word: the word's address is translated under the record's ASID (11 R239). -/
def State.endCtx (s : State) (cr : Crew) : Ctx := { s.ctx with level := .u, asid := cr.asid, ptbase := cr.ptbase }

/-- The lowest of a list of origins. -/
def lowestOrigin (ps : List Piece) (w : Word) : Word := ps.foldl (fun o p => if p.origin.toNat < o.toNat then p.origin else o) w

/-- END (11 R260; 17 R360): it waits for its output streams, reports the hart's flags, counts it out and gives up the slot. DESIGN CHOICE (log
entry 79): a hart of no crew has nothing to report and gives up its slot. -/
def execEndHart (s : State) : Result :=
  let mine := match s.hart.tag with | some (n, m) => s.piecesOf n m | none => []
  match mine with
  | p :: ps => raise (s.withHart Hart.resume) 26 (lowestOrigin ps p.origin)
  | [] =>
    if s.drained s.cur then
      let s := (s.withHart Hart.resume).release (.hart s.cur) .device
      let s :=
        match s.ownCrew with
        | some (cr, _) =>
          (s.reportEnd (s.endCtx cr) cr s.cur s.hart.reportFlags).countOut (s.endCtx cr) cr s.cur
        | none => s
      .next (s.freeSlot s.cur)
    else stall s .endHart

end Sys2Proof.Machine
end

