-- ==== Sys2Proof/Machine/Rings.lean ====
section
/-! DEFINITION. Rings: RPUT and RTAKE (11 R256, R257, R263). -/

namespace Sys2Proof.Machine

/-- A ring as a claim needs it: base, lg, slot size, and where the dword with head and tail lies (11 R256). -/
structure Ring where
  base : Word
  lg : Nat
  ssize : Nat
  pa : Nat
  deriving DecidableEq, Repr

/-- Does a descriptor of four dwords keep the limits of 11 R256? -/
def ringOk (ws : List Nat) : Bool :=
  let b := ws.getD 1 0
  ws.getD 0 0 % 8 = 0 && 4 ≤ b % 256 && b % 256 ≤ 16 && b / 256 % 2 ^ 24 = 0 && b / 2 ^ 32 % 8 = 0 && 16 ≤ b / 2 ^ 32 && b / 2 ^ 32 ≤ 256
    && ws.getD 3 0 = 0

/-- Read and check a descriptor (11 R263, step 1); the claim writes it, so it is checked as an AMO's target too (log entry 23). -/
def State.ring (s : State) (c : Ctx) (sc : Scope) (va : Word) : Except Trap Ring :=
  if va.toNat % 8 ≠ 0 then .error ⟨26, va⟩
  else
    match s.loadDwords c sc va 4 with
    | .error t => .error t
    | .ok ws =>
      if ringOk ws then
        match s.amoTarget c (va + 16) 8 false with
        | .error t => .error t
        | .ok pa => .ok ⟨word (ws.getD 0 0), ws.getD 1 0 % 256, ws.getD 1 0 / 2 ^ 32, pa⟩
      else .error ⟨26, va⟩

/-- The checks of the buffer and of the slot area (11 R263, steps 2 and 3). -/
def State.ringChecks (s : State) (c : Ctx) (k : Kind) (r : Ring) (buf : Word) : Option Trap :=
  match s.checkDwords c [k] buf ((r.ssize - 8) / 8) with
  | some t => some t
  | none => s.checkDwords c [.load, .store] r.base (2 ^ r.lg * r.ssize / 8)

/-- Where slot `i` begins (11 R256). -/
def slotVa (base : Word) (lg ssize : Nat) (i : BitVec 32) : Word := base + word (i.toNat % 2 ^ lg * ssize)

/-- phase(i) (11 R256). -/
def phase (lg : Nat) (i : BitVec 32) : Nat := i.toNat / 2 ^ lg % 2

/-- Where the translation of `va` leads. -/
def State.paOf (s : State) (c : Ctx) (k : Kind) (va : Word) : Nat := match s.translate c k va with | .ok x => x.pa | .error _ => 0

/-- The claimed slot of RPUT: its header, and each payload dword with its place in the slot (11 R256, R257). -/
def State.putSlot (s : State) (c : Ctx) (r : Ring) (payload : Word) (i : BitVec 32) : RingSlot :=
  let va := slotVa r.base r.lg r.ssize i
  ⟨r.lg, i, s.paOf c .store va,
    (List.range ((r.ssize - 8) / 8)).map (fun k => (s.paOf c .load (payload + word (8 * k)), s.paOf c .store (va + word (8 * k + 8))))⟩

/-- The claimed slot of RTAKE: its header, and each payload dword of it with its place in the buffer (11 R256, R257). -/
def State.takenSlot (s : State) (c : Ctx) (r : Ring) (buf : Word) (i : BitVec 32) : RingSlot :=
  let va := slotVa r.base r.lg r.ssize i
  ⟨r.lg, i, s.paOf c .store va,
    (List.range ((r.ssize - 8) / 8)).map (fun k => (s.paOf c .load (va + word (8 * k + 8)), s.paOf c .store (buf + word (8 * k))))⟩

/-- The stored bits of a dword at scope `sc`, and whether they are poison (11 R263); poison where it cannot be read. -/
def State.rawDword (s : State) (c : Ctx) (sc : Scope) (pa : Nat) : Nat × Bool :=
  match s.targetAt .load (word pa) ⟨pa, false⟩ 8 with
  | .ok (.mem pa _) => (leNat (s.viewBytes c.agent sc pa 8), s.poisoned pa)
  | .ok (.rom pa) => (leNat (s.latestBytes pa 8), false)
  | .ok (.reg d off) => (((s.mmioRead d off).getD 0).toNat, false)
  | .error _ => (0, true)

/-- The header of a slot, none where its memory does not respond. -/
def State.header (s : State) (c : Ctx) (sc : Scope) (pa : Nat) : Option Nat :=
  match s.targetAt .load (word pa) ⟨pa, false⟩ 8 with
  | .ok _ => some (s.rawDword c sc pa).1
  | .error _ => none

/-- A dword has been read at scope `sc`. -/
def State.observeDword (s : State) (c : Ctx) (sc : Scope) (pa : Nat) : State :=
  match s.targetAt .load (word pa) ⟨pa, false⟩ 8 with
  | .ok (.mem pa _) => (s.observe c.agent sc pa 8).touch pa
  | _ => s

/-- The sectors, beyond a port that stops poison, to which a poisoned dword of a copy goes (20 R400). -/
def State.stoppedSectors (s : State) (c : Ctx) (sc : Scope) (moves : List (Nat × Nat)) : List Nat :=
  (moves.filter (fun m => (s.rawDword c sc m.1).2 && s.blocksPoison (s.forward m.2))).map (fun m => s.forward m.2 / 32)

/-- Copy dwords in turn at scope `sc`, poison with them (11 R257, R263); nothing is written to the sectors `stopped` (20 R400). -/
def State.copyDwords (s : State) (c : Ctx) (sc : Scope) (stopped : List Nat) : List (Nat × Nat) → State
  | [] => s
  | (src, dst) :: ms =>
    let (v, p) := s.rawDword c sc src
    let s := s.observeDword c sc src
    let o := s.forward dst
    let s := if stopped.contains (o / 32) then s else s.storeAt c sc dst v
    let s := if p && !stopped.contains (o / 32) && (mmioOf o).isNone then s.poisonAt o 8 else s
    (if p then s.logPort o c.asid s.cur 0 else s).copyDwords c sc stopped ms

/-- The copy of a claimed slot, then its header written with a release at `sc` (11 R257). -/
def State.fillSlot (s : State) (sc : Scope) (k : RingSlot) (header : Nat) : State :=
  ((s.copyDwords s.ctx sc (s.stoppedSectors s.ctx sc k.moves) k.moves).release (.hart s.cur) sc).storeAt s.ctx sc k.hdr header

/-- The hart has met the header it waited for: its read acquires (11 R257). -/
def State.meetHeader (s : State) (sc : Scope) (k : RingSlot) : State :=
  ((s.withHart Hart.resume).observeDword s.ctx sc k.hdr).acquire (.hart s.cur) sc

/-- RPUT after its claim: once the slot is free for its index, the payload and the header are written; until then it waits (11 R257). -/
def rputGo (d : Reg) (sc : Scope) (k : RingSlot) (s : State) : Result :=
  match s.header s.ctx sc k.hdr with
  | some h =>
    if h % 4 = 3 - phase k.lg k.idx then setDone ((s.meetHeader sc k).fillSlot sc k (phase k.lg k.idx)) d (zext 32 k.idx)
    else .next (s.withHart (fun x => { x with run := .waiting (.rput d sc k) }))
  | none => .next ((s.notePoll s.ctx.agent k.hdr).withHart (fun x => { x with run := .waiting (.rput d sc k) }))

/-- RTAKE after its claim: once the slot is full, the payload is copied and the header marked consumed (11 R257). -/
def rtakeGo (d : Reg) (sc : Scope) (k : RingSlot) (s : State) : Result :=
  match s.header s.ctx sc k.hdr with
  | some h =>
    if h % 4 = phase k.lg k.idx then setDone ((s.meetHeader sc k).fillSlot sc k (h ||| 2)) d (zext 32 k.idx)
    else .next (s.withHart (fun x => { x with run := .waiting (.rtake d sc k) }))
  | none => .next ((s.notePoll s.ctx.agent k.hdr).withHart (fun x => { x with run := .waiting (.rtake d sc k) }))

/-- The descriptor of a ring has been read (11 R263), its dword with head and tail by the claim, an AMO (11 R257; 15 R317). -/
def State.observeRing (s : State) (sc : Scope) (va : Word) (r : Ring) : State :=
  (s.observeDwords s.ctx sc va 4).amoObserve (.hart s.cur) r.pa 8

/-- The free-running head and tail of a ring as the claim, an AMO, reads them (11 R256, R257; 15 R316). -/
def State.ringIndices (s : State) (r : Ring) : BitVec 32 × BitVec 32 :=
  let w := leNat (s.amoBytesAt (.hart s.cur) r.pa 8)
  (BitVec.ofNat 32 w, BitVec.ofNat 32 (w / 2 ^ 32))

/-- Write head and tail in one atomic operation (11 R257; 14 R296). -/
def State.claim (s : State) (r : Ring) (head tail : BitVec 32) : State :=
  s.atomicPut (.hart s.cur) r.pa 8 (head.toNat + tail.toNat * 2 ^ 32)

/-- RPUT (11 R257, R263). -/
def execRput (d a b : Reg) (sc : Scope) (s : State) : Result :=
  orTrap s (s.ring s.ctx sc (s.x a)) fun r =>
    match s.ringChecks s.ctx .load r (s.x b) with
    | some t => .next (s.trap t)
    | none =>
      let u := s.observeRing sc (s.x a) r
      let (head, tail) := u.ringIndices r
      if 2 ^ r.lg ≤ (tail - head).toNat then setDone u d (-1)
      else rputGo d sc (s.putSlot s.ctx r (s.x b) tail) (u.claim r head (tail + 1))

/-- RTAKE (11 R257, R263). -/
def execRtake (d a b : Reg) (sc : Scope) (s : State) : Result :=
  orTrap s (s.ring s.ctx sc (s.x a)) fun r =>
    match s.ringChecks s.ctx .store r (s.x b) with
    | some t => .next (s.trap t)
    | none =>
      let u := s.observeRing sc (s.x a) r
      let (head, tail) := u.ringIndices r
      if tail = head then setDone u d (-1)
      else rtakeGo d sc (s.takenSlot s.ctx r (s.x b) head) (u.claim r (head + 1) tail)

/-- RPUT_SLOT_FREE (11 R257): the slot a waiting RPUT has claimed is free. -/
def execRputSlotFree (s : State) : Result :=
  match s.hart.run with
  | .waiting (.rput d sc k) => rputGo d sc k s
  | _ => .next s

/-- RTAKE_SLOT_FULL (11 R257): the slot a waiting RTAKE has claimed is full. -/
def execRtakeSlotFull (s : State) : Result :=
  match s.hart.run with
  | .waiting (.rtake d sc k) => rtakeGo d sc k s
  | _ => .next s

end Sys2Proof.Machine
end

