-- ==== Sys2Proof/Machine/Streams.lean ====
section
/-! DEFINITION. Streams (17 R336 to R343, R357): SCFG, the controller's fetches and writes, VLDQ and VSTQ, SSAVE and SLOAD. -/

namespace Sys2Proof.Machine

/-! ### Binding (17 R337, R338) -/

/-- Bytes of an element of a stream. -/
def Stream.size (t : Stream) : Nat := tagBits t.etag / 8

/-- Elements the strip buffer holds (17 R337). -/
def Stream.cap (t : Stream) : Nat := t.bufsize / t.size

/-- Where element `i` lies (17 R337). -/
def Stream.at (t : Stream) (i : Nat) : Word := t.base + word i * t.stride.signExtend 64

/-- The context the controller translates a stream's addresses under (17 R336). -/
def Stream.ctx (t : Stream) (h : Nat) : Ctx := ctxAt h (.ctl (clusterOf h)) t.level t.asid t.ptbase

/-- A stream the current hart is about to bind, in its translation context (17 R336). -/
def State.newStream (s : State) (base n stride c bufofs bufsize etag flags : Nat) : Stream :=
  ⟨true, flags.testBit 1, flags.testBit 2, etag, word base, n, BitVec.ofNat 32 stride, c, bufofs, bufsize, s.hart.asid, s.hart.ptbase,
    s.hart.level, [], 0, !flags.testBit 1, []⟩

/-- The stream of a descriptor of four dwords (17 R337). -/
def State.ofDescriptor (s : State) (ws : List Nat) : Stream :=
  let b := ws.getD 1 0
  let c := ws.getD 2 0
  s.newStream (ws.getD 0 0) (b % 2 ^ 32) (b / 2 ^ 32) 0 (c / 2 ^ 32) (ws.getD 3 0 % 2 ^ 32) (c % 256) (2 * (c / 256 % 2))

/-- Is a reserved bit of the descriptor set (17 R337)? -/
def descriptorReserved (ws : List Nat) : Bool := ws.getD 2 0 / 512 % 2 ^ 23 ≠ 0 || ws.getD 3 0 / 2 ^ 32 ≠ 0

/-- Do two buffers share a byte? -/
def bufsMeet (o1 n1 o2 n2 : Nat) : Bool := o1 < o2 + n2 && o2 < o1 + n1

/-- The refusals of a stream beside reserved bits; `bufs` are the buffers of the cluster's bound streams (17 R338). -/
def Stream.refused (t : Stream) (bufs : List StripBuf) : Bool :=
  t.n = 0 || !isTag t.etag || tagBits t.etag < 8 || t.base.toNat % t.size ≠ 0 || t.stride.toNat % t.size ≠ 0 || t.bufofs % 256 ≠ 0
    || t.bufsize % 256 ≠ 0 || t.bufsize < 256 || 65536 < t.bufsize || 2 ^ 21 < t.bufofs + t.bufsize
    || bufs.any (fun b => bufsMeet t.bufofs t.bufsize b.ofs b.size)

/-- Bind stream `q` of the current hart (17 R338): its buffer belongs to the controller from now on. -/
def State.bind (s : State) (q : Nat) (t : Stream) : State :=
  (s.setStream s.cur q t).withCluster (fun c => { c with bufs := ⟨s.cur, q, t.bufofs, t.bufsize⟩ :: c.bufs })

/-- The kick of a cluster controller (15 R327): a release at .cluster, which its first access acquires. -/
def State.kickController (s : State) : State :=
  (s.release (.hart s.cur) .cluster).acquire (.ctl (clusterOf s.cur)) .cluster

/-- Is stream `q` of slot `h` an output stream with elements left to write (17 R342)? -/
def State.undrained (s : State) (h q : Nat) : Bool :=
  (s.stream h q).bound && (s.stream h q).out && !(s.stream h q).produced.isEmpty

/-- SCFG that unbinds stream `q` (17 R338). -/
def unbindStream (i : Instr) (d : Reg) (q : Nat) (s : State) : Result :=
  if s.undrained s.cur q then stall s i else setDone ((s.withHart Hart.resume).unbind s.cur q) d 0

/-- SCFG that binds stream `q` from the descriptor at X(xs1) (17 R338). -/
def bindStream (i : Instr) (d a : Reg) (q : Nat) (s : State) : Result :=
  let r := s.withHart Hart.resume
  orTrap r (r.loadDwords r.ctx .hart (r.x a) 4) fun ws =>
    if s.undrained s.cur q then stall s i
    else
      let s := (r.observeDwords r.ctx .hart (r.x a) 4).unbind r.cur q
      let t := s.ofDescriptor ws
      if descriptorReserved ws || t.refused s.cluster.bufs then raise s 31 (word q)
      else setDone (s.kickController.bind q t) d (word t.cap)

/-- SCFG (17 R338). -/
def execScfg (d a b : Reg) (s : State) : Result :=
  if 15 < (s.x b).toNat then raise s 31 (s.x b)
  else if s.x a = 0 then unbindStream (.scfg d a b) d (s.x b).toNat s
  else bindStream (.scfg d a b) d a (s.x b).toNat s

/-- SCFG with X(xs1) = 0 (17 R338). -/
def execScfgUnbind (d _a b : Reg) (s : State) : Result :=
  if 15 < (s.x b).toNat then raise s 31 (s.x b) else unbindStream (.scfg d 0 b) d (s.x b).toNat s

/-! ### The controller (17 R340, R342) -/

/-- An input element as the controller reads it: its value with its poison, or its fault (17 R340). -/
def State.fetchElement (s : State) (c : Ctx) (va : Word) (n : Nat) : Fetched :=
  match s.target c .load va n with
  | .ok (.mem pa _) => .value (leNat (s.viewBytes c.agent .hart pa n)) (s.poisoned pa)
  | .ok (.rom pa) => .value (leNat (s.latestBytes pa n)) false
  | .ok (.reg _ _) => .faulted 5 va.toNat
  | .error t => .faulted t.code t.tval.toNat

/-- The first unconsumed element, where a VLDQ has reached it again after its fault, is fetched again (17 R340). -/
def State.refetch (s : State) (hart : Nat) (t : Stream) : List Fetched :=
  match t.fetched with
  | .again true :: rest => s.fetchElement (t.ctx hart) (t.at t.c) t.size :: rest
  | l => l

/-- STREAM_FETCH (17 R340): a resumption asks for the next granule of rows × vl elements, within the buffer and below N. -/
def execStreamFetch (hart : Nat) (q : BitVec 4) (s : State) : Result :=
  let t := s.stream hart q.toNat
  if t.bound ∧ t.out = false ∧ t.resume then
    let ahead := t.fetched.length + t.issued
    let k := min (s.hartAt hart).total (min (t.cap - ahead) (t.n - (t.c + ahead)))
    .next (s.setStream hart q.toNat { t with issued := t.issued + k, fetched := s.refetch hart t, resume := false })
  else .next s

/-- STREAM_ELEMENT_ARRIVE (17 R340): the next element asked for arrives. -/
def execStreamElementArrive (hart : Nat) (q : BitVec 4) (s : State) : Result :=
  let t := s.stream hart q.toNat
  if t.bound ∧ t.out = false ∧ t.issued ≠ 0 then
    let va := t.at (t.c + t.fetched.length)
    let f := s.fetchElement (t.ctx hart) va t.size
    .next ((s.requests (t.ctx hart) .load va).setStream hart q.toNat { t with issued := t.issued - 1, fetched := t.fetched ++ [f] })
  else .next s

/-- Where an element of an output stream is written, if memory responds there. -/
def State.elementPa (s : State) (hart : Nat) (t : Stream) (e : Produced) : Option Nat :=
  match s.target (t.ctx hart) .store (t.at e.index) t.size with
  | .ok (.mem pa _) => some pa
  | _ => none

/-- Do two elements of a stream share a byte of memory? -/
def State.sharesByte (s : State) (hart : Nat) (t : Stream) (e f : Produced) : Bool :=
  match s.elementPa hart t e, s.elementPa hart t f with
  | some a, some b => a < b + t.size && b < a + t.size
  | _, _ => false

/-- The produced elements that may be written next: those that share no byte with one of a lower index, which is written before them (17 R342). -/
def State.writable (s : State) (hart : Nat) (t : Stream) : List Nat :=
  (List.range t.produced.length).filter (fun i =>
    match t.produced[i]? with
    | some e => !(t.produced.take i).any (s.sharesByte hart t e)
    | none => false)

/-- Which produced element is written next: any that may be (17 R342). -/
def State.nextWrite (s : State) (hart : Nat) (t : Stream) : Nat :=
  match s.writable hart t with
  | [] => 0
  | [i] => i
  | l => l.getD ((Config.freeWord s.tick).toNat % l.length) 0

/-- Is a produced element that goes to the sector of `pa` poisoned (20 R400)? -/
def State.poisonsSector (s : State) (hart : Nat) (t : Stream) (pa : Nat) : Bool :=
  t.produced.any (fun e => e.poison && match s.elementPa hart t e with | some p => p / 32 = pa / 32 | none => false)

/-- The stream whose produced elements for the sector of `pa` are not written (20 R400). -/
def State.dropSector (s : State) (hart : Nat) (t : Stream) (pa : Nat) : Stream :=
  { t with produced := t.produced.filter (fun e => match s.elementPa hart t e with | some p => p / 32 ≠ pa / 32 | none => true) }

/-- A produced element written to memory (17 R342; 13 R293); or lost: the error flag is set and the error is logged with kind 8. At a port that stops
poison no element of a sector with a poisoned one leaves (20 R400). -/
def State.writeElement (s : State) (hart q : Nat) (t : Stream) (e : Produced) : State :=
  let c := t.ctx hart
  match s.target c .store (t.at e.index) t.size with
  | .ok (.mem pa _) =>
    if s.blocksPoison pa && (e.poison || s.poisonsSector hart t pa) then
      (s.setStream hart q (s.dropSector hart t pa)).logPort pa t.asid hart 0
    else
      let s := (s.walkRequests c (t.at e.index)).put c .hart pa t.size e.bits
      if e.poison then (s.poisonAt pa t.size).logPort pa t.asid hart 0 else s
  | r =>
    (s.setStream hart q { t with err := true }).record (dieOf hart) 8 false 0 (t.at e.index) t.asid hart
      (match r with | .error x => x.code | .ok _ => 7)

/-- STREAM_ELEMENT_WRITE (17 R342). -/
def execStreamElementWrite (hart : Nat) (q : BitVec 4) (s : State) : Result :=
  let t := s.stream hart q.toNat
  if t.bound ∧ t.out then
    match t.produced[s.nextWrite hart t]? with
    | some e => let t := { t with produced := t.produced.erase e }; .next ((s.setStream hart q.toNat t).writeElement hart q.toNat t e)
    | none => .next s
  else .next s

/-- The hart takes up again the instruction it waits to issue. -/
def Hart.wakeDrained (h : Hart) : Hart := match h.run with | .waiting (.drained _) => { h with run := .running } | _ => h

/-- OUTPUT_STREAM_DRAINED (17 R342): once every element is written or lost, an instruction that waits for it goes on. -/
def execOutputStreamDrained (hart : Nat) (q : BitVec 4) (s : State) : Result :=
  if s.undrained hart q.toNat then .next s else .next (s.modHart hart Hart.wakeDrained)

/-! ### VLDQ and VSTQ (17 R341, R342, R359) -/

/-- How a run over the elements of VLDQ or VSTQ ends: all done, a wait, a trap. -/
inductive QEnd
  | all
  | wait
  | trap (t : Trap)
  deriving DecidableEq, Repr

/-- Elements of VLDQ from serial `e` on, `n` left (17 R341): the state, the serial reached and how it ended. -/
def vldqRun (v q : Nat) : Nat → Nat → State → State × Nat × QEnd
  | 0, e, s => (s, e, .all)
  | n + 1, e, s =>
    let t := s.stream s.cur q
    if t.n ≤ t.c then vldqRun v q n (e + 1) (s.withHart (fun h => h.setElem v t.etag e 0 false))
    else
      match t.fetched with
      | [] => (s, e, .wait)
      | .again _ :: rest => (s.setStream s.cur q { t with fetched := .again true :: rest }, e, .wait)
      | .faulted code a :: rest => (s.setStream s.cur q { t with fetched := .again false :: rest }, e, .trap ⟨code, word a⟩)
      | .value b p :: rest =>
        vldqRun v q n (e + 1) ((s.withHart (fun h => h.setElem v t.etag e b p)).setStream s.cur q { t with fetched := rest, c := t.c + 1 })

/-- The serials of `start .. e - 1` whose poison bit is set in register `v`. -/
def Hart.poisonedIn (h : Hart) (v start e : Nat) : List Nat := ((List.range e).drop start).filter (fun k => h.poisonBit v k)

/-- vpoison after VLDQ has written serials `start .. e - 1` (08 R163; 17 R341). -/
def Hart.recordPoison (h : Hart) (v start e : Nat) : Hart :=
  match h.poisonedIn v start e with
  | [] => h
  | k :: ks => { h with vpoison := poisonRecord v k (ks.length + 1) }

/-- The tag of a register that a stream word wrote from serial `start` to `e - 1` (05 R102). -/
def Hart.retag (h : Hart) (v tag start e : Nat) : Hart := if start < e then { h with vtag := Tab.put 0 h.vtag v tag } else h

/-- The end of a run of VLDQ that began at serial `start` of its execution (17 R341). -/
def vldqEnd (v : BitVec 6) (q : BitVec 4) (start : Nat) (r : State × Nat × QEnd) : Result :=
  let (s, e, k) := r
  let t := s.stream s.cur q.toNat
  let s := s.withHart (fun h => (h.retag v.toNat t.etag start e).recordPoison v.toNat start e)
  match k with
  | .all => done (s.withHart (fun h => { h.resume with vstart := 0 }))
  | .trap x => .next ((s.withHart (fun h => { h.resume with vstart := word e })).trap x)
  | .wait =>
    let s := if s.hart.run = .running ∨ s.hart.vstart ≠ word e then s.setStream s.cur q.toNat { t with resume := true } else s
    .next (s.withHart (fun h => { h with vstart := word e, run := .waiting (.vldq v q start) }))

/-- The checks of VLDQ and VSTQ in the order 16, 32, 31, 18 (17 R341, R342, R359): `out` the direction the word needs. -/
def State.streamChecks (s : State) (i : Instr) (v : BitVec 6) (q : BitVec 4) (out : Bool) : Option Trap :=
  let t := s.stream s.cur q.toNat
  let tags := tagTval t.etag 0 0 (s.hart.tagOf v.toNat)
  if s.hart.ill then some ⟨16, 0⟩
  else if s.hart.vcount ≤ v.toNat then some ⟨32, wordOfInstr i⟩
  else if !t.bound || t.out != out then some ⟨31, word q.toNat⟩
  else if s.hart.vwidth < tagBits t.etag then some ⟨18, tags⟩
  else if out && s.hart.tagOf v.toNat ≠ t.etag then some ⟨18, tags⟩
  else none

/-- The serial at which an execution of VLDQ began: kept while it waits. -/
def Hart.vldqStart (h : Hart) : Nat := match h.run with | .waiting (.vldq _ _ k) => k | _ => h.vstart.toNat

/-- VLDQ (17 R341). -/
def execVldq (v : BitVec 6) (q : BitVec 4) (s : State) : Result :=
  match s.streamChecks (.vldq v q) v q false with
  | some t => .next ((s.withHart Hart.resume).trap t)
  | none => vldqEnd v q s.hart.vldqStart (vldqRun v.toNat q.toNat (s.hart.total - s.hart.vstart.toNat) s.hart.vstart.toNat s)

/-- Elements of VSTQ from serial `e` on, `n` left (17 R342): the translation is checked here, the access when the element is written. -/
def vstqRun (v q : Nat) : Nat → Nat → State → State × Nat × QEnd
  | 0, e, s => (s, e, .all)
  | n + 1, e, s =>
    let t := s.stream s.cur q
    if t.n ≤ t.c then (s, e + n + 1, .all)
    else
      match s.translate (t.ctx s.cur) .store (t.at t.c) with
      | .error x => (s, e, .trap x)
      | .ok _ =>
        if t.cap ≤ t.produced.length then (s, e, .wait)
        else
          vstqRun v q n (e + 1)
            (s.setStream s.cur q
              { t with c := t.c + 1, produced := t.produced ++ [⟨t.c, s.hart.elem v t.etag e, s.hart.poisonBit v e⟩] })

/-- VSTQ (17 R342). -/
def execVstq (v : BitVec 6) (q : BitVec 4) (s : State) : Result :=
  match s.streamChecks (.vstq v q) v q true with
  | some t => .next ((s.withHart Hart.resume).trap t)
  | none =>
    let (s, e, k) := vstqRun v.toNat q.toNat (s.hart.total - s.hart.vstart.toNat) s.hart.vstart.toNat s
    match k with
    | .all => done (s.withHart (fun h => { h.resume with vstart := 0 }))
    | .trap x => .next ((s.withHart (fun h => { h.resume with vstart := word e })).trap x)
    | .wait => .next (s.withHart (fun h => { h with vstart := word e, run := .waiting (.vstq v q) }))

/-! ### SSAVE and SLOAD (17 R357) -/

/-- The four dwords of the record of a stream (17 R357); an unbound one is all zero. -/
def Stream.record (t : Stream) : List Nat :=
  if t.bound then
    [t.base.toNat, t.n + t.stride.toNat * 2 ^ 32, t.c + t.bufofs * 2 ^ 32,
      t.bufsize / 256 + t.etag * 2 ^ 16 + (1 + bit t.out * 2 + bit t.err * 4) * 2 ^ 24]
  else [0, 0, 0, 0]

/-- The image of a slot's streams (17 R357). -/
def State.streamImage (s : State) (h : Nat) : List Nat := (List.range 16).flatMap (fun q => (s.stream h q).record)

/-- The stream of a record (17 R357). -/
def State.ofRecord (s : State) (ws : List Nat) : Stream :=
  let b := ws.getD 1 0
  let c := ws.getD 2 0
  let d := ws.getD 3 0
  s.newStream (ws.getD 0 0) (b % 2 ^ 32) (b / 2 ^ 32) (c % 2 ^ 32) (c / 2 ^ 32) (d % 2 ^ 16 * 256) (d / 2 ^ 16 % 256) (d / 2 ^ 24 % 256)

/-- Does a record say bound (17 R357)? -/
def recordBound (ws : List Nat) : Bool := (ws.getD 3 0).testBit 24

/-- Is a bit that must be zero set in a record (17 R357)? -/
def recordReserved (ws : List Nat) : Bool := ws.getD 3 0 / 2 ^ 27 ≠ 0

/-- Record `q` of an image. -/
def recordOf (ws : List Nat) (q : Nat) : List Nat := (ws.drop (4 * q)).take 4

/-- The records of an image checked and bound in ascending order (17 R357): the machine with all bound, or the first number that fails. -/
def State.bindRecords (s : State) (ws : List Nat) : List Nat → Except Nat State
  | [] => .ok s
  | q :: qs =>
    let r := recordOf ws q
    if recordBound r then
      let t := s.ofRecord r
      if recordReserved r || t.refused s.cluster.bufs then .error q else (s.bind q t).bindRecords ws qs
    else s.bindRecords ws qs

/-- Stores of an image's dwords from `va` on, up to the first that faults (17 R357; 19 R378). -/
def State.storeImage (s : State) (c : Ctx) (va : Word) : List Nat → State × Option Trap
  | [] => (s, none)
  | w :: ws =>
    match s.store c .hart va 8 w with
    | .ok s => s.storeImage c (va + 8) ws
    | .error t => (s, some t)

/-- SSAVE (17 R357). -/
def execSsave (a : Reg) (s : State) : Result :=
  if (s.x a).toNat % 64 ≠ 0 then raise s 6 (s.x a)
  else if s.drained s.cur then
    let s := s.withHart Hart.resume
    match s.storeImage s.ctx (s.x a) (s.streamImage s.cur) with
    | (s, some t) => .next (s.trap t)
    | (s, none) => done (s.unbindAll s.cur)
  else stall s (.ssave a)

/-- SLOAD (17 R357): the slot's streams are unbound first. DESIGN CHOICE (log entry 83): but for a misaligned address, which raises code 4 before. -/
def execSload (a : Reg) (s : State) : Result :=
  if (s.x a).toNat % 64 ≠ 0 then raise s 4 (s.x a)
  else if s.drained s.cur then
    let s := (s.withHart Hart.resume).unbindAll s.cur
    orTrap s (s.loadDwords s.ctx .hart (s.x a) 64) fun ws =>
      let s := s.observeDwords s.ctx .hart (s.x a) 64
      match s.kickController.bindRecords ws (List.range 16) with
      | .ok s => done s
      | .error q => raise s 31 (word q)
  else stall s (.sload a)

end Sys2Proof.Machine
end

