-- ==== Sys2Proof/Machine/Copies.lean ====
section
/-! DEFINITION. Asynchronous copies and page migration (13 R290, R291; 17 R344 to R351): SKICK, the engines, mailboxes, user-level entries,
SWAIT. -/

namespace Sys2Proof.Machine

/-! ### SKICK (17 R344, R345, R347) -/

/-- Does one circular run of `n` bytes from `a` meet one of `m` bytes from `b` (17 R345)? -/
def spansMeet (a : Word) (n : Nat) (b : Word) (m : Nat) : Bool := (b - a).toNat < n || (a - b).toNat < m

/-- The lowest byte of the rows from `a` and their span in bytes (17 R345). -/
def rowSpan (a : Word) (stride : BitVec 32) (nrows len : Nat) : Word × Nat :=
  let d : Int := stride.toInt * (nrows - 1 : Nat)
  if d < 0 then (a + BitVec.ofInt 64 d, d.natAbs + len) else (a, d.natAbs + len)

/-- The transfer of a parameter block of eight dwords, by the current hart (17 R344, R345). -/
def State.ofBlock (s : State) (ws : List Nat) : Transfer :=
  let g (i : Nat) : Nat := ws.getD i 0
  { src := word (g 0), dst := word (g 1), len := g 2 % 2 ^ 32, nrows := g 2 / 2 ^ 32, sstride := BitVec.ofNat 32 (g 3)
    dstride := BitVec.ofNat 32 (g 3 / 2 ^ 32), xid := BitVec.ofNat 32 (g 4), eng := g 4 / 2 ^ 32 % 4, int := (g 4).testBit 40
    handler := word (g 5), mbox := word (g 6), asid := s.hart.asid, ptbase := s.hart.ptbase, level := s.hart.level, hart := s.cur
    written := 0, poisoned := false, ended := none, faddr := 0, tag := s.hart.tag, stay := s.stayAt s.cur, page := none }

/-- Is a reserved bit of the block set (17 R344)? -/
def blockReserved (ws : List Nat) : Bool :=
  ws.getD 4 0 / 2 ^ 34 % 2 ^ 6 ≠ 0 || ws.getD 4 0 / 2 ^ 41 ≠ 0 || ws.getD 7 0 ≠ 0

/-- Page sizes a migration takes; the last is answered busy (13 R290). -/
def migrationSize (n : Nat) : Bool := n = 4096 || n = 65536 || n = 2 ^ 21 || n = 2 ^ 30

/-- The refusals of a block (17 R345). -/
def Transfer.refused (t : Transfer) (ws : List Nat) : Bool :=
  blockReserved ws || t.eng = 3 || (t.eng = 2 && decide (t.level = .u)) || t.len = 0 || 2 ^ 31 < t.len || t.nrows = 0 || 65536 < t.nrows
    || t.handler.toNat % 4 ≠ 0 || t.mbox = 0 || t.mbox.toNat % 32 ≠ 0
    || (if t.eng = 2 then !migrationSize t.len || t.nrows ≠ 1 || t.src.toNat % t.len ≠ 0 || t.dst.toNat % t.len ≠ 0
        else
          let (a, n) := rowSpan t.src t.sstride t.nrows t.len
          let (b, m) := rowSpan t.dst t.dstride t.nrows t.len
          spansMeet a n b m)

/-- The queue of edge engine `e` of die `d`. -/
def State.edgeQueue (s : State) (d e : Nat) : List Transfer := Tab.get [] (s.dieAt d).edge e

/-- The edge engine that takes an offer (17 R347): the one with the fewest queued transfers, the lowest of several; none where all are full. -/
def State.edgeChoice (s : State) (d : Nat) : Option Nat :=
  let len (e : Nat) : Nat := (s.edgeQueue d e).length
  match (List.range 8).find? (fun e => (List.range 8).all (fun f => len e ≤ len f)) with
  | some e => if len e < 16 then some e else none
  | none => none

/-- An offer to the edge engines of the current hart's die (17 R347): accepted, or refused with a hint; `hints` is the sum received so far. -/
def offerEdge (d : Reg) (t : Transfer) (hints : Nat) (s : State) : Result :=
  let die := dieOf s.cur
  match s.edgeChoice die with
  | some e =>
    let s := s.modDie die (fun x => { x with edge := Tab.put [] x.edge e (Tab.get [] x.edge e ++ [t]) })
    setDone ((s.withHart Hart.resume).acquire (.engine die e) .die) d 0
  | none =>
    let h := Config.freeHint s.tick % 255 + 1
    if 512 < hints + h then setDone (s.withHart Hart.resume) d 1
    else .next (s.withHart (fun x => { x with run := .waiting (.skick d t (hints + h) (s.clk + 64 * h)) }))

/-- SKICK (17 R345): a full controller queue makes it wait at issue. -/
def execSkick (d a : Reg) (s : State) : Result :=
  if (s.x a).toNat % 64 ≠ 0 then raise s 4 (s.x a)
  else
    let r := s.withHart Hart.resume
    orTrap r (r.loadDwords r.ctx .hart (r.x a) 8) fun ws =>
      let r := r.observeDwords r.ctx .hart (r.x a) 8
      let t := r.ofBlock ws
      if t.refused ws then raise r 32 (r.x a)
      else if t.eng = 2 ∧ t.len = 2 ^ 30 then setDone r d 1
      else if t.eng = 0 then
        if 8 ≤ s.cluster.queued then stall s (.skick d a)
        else setDone (r.kickController.withCluster (fun c => { c with copies := c.copies ++ [t] })) d 0
      else offerEdge d t 0 (r.release (.hart s.cur) .die)

/-- SKICK_OFFER_RETRY (17 R347): the back-off is over and the transfer is offered again. -/
def execSkickOfferRetry (s : State) : Result :=
  match s.hart.run with
  | .waiting (.skick d t hints until_) => if until_ ≤ s.clk then offerEdge d t hints s else .next s
  | _ => .next s

/-! ### The engines -/

/-- The agent of an engine (15 R314). -/
def engineAgent : EngineId → AgentId
  | .ctl c => .ctl c
  | .edge d e => .engine d e

/-- The transfers queued at an engine. -/
def State.engineQueue (s : State) : EngineId → List Transfer
  | .ctl c => (s.clusterAt c).copies
  | .edge d e => s.edgeQueue d e

/-- The queue of an engine replaced. -/
def State.setEngineQueue (s : State) (e : EngineId) (q : List Transfer) : State :=
  match e with
  | .ctl c => s.modCluster c (fun x => { x with copies := q })
  | .edge d n => s.modDie d (fun x => { x with edge := Tab.put [] x.edge n q })

/-- The transfer an engine runs, the first of its queue, replaced. -/
def State.setRunning (s : State) (e : EngineId) (t : Transfer) : State := s.setEngineQueue e (t :: (s.engineQueue e).drop 1)

/-- A byte as an engine reads it, with its poison, or the address that faults (17 R346; 13 R277). -/
def State.copyByte (s : State) (c : Ctx) (va : Word) : Option (Byte × Bool) :=
  match s.target c .load va 1 with
  | .ok (.mem pa _) => some (s.view c.agent .hart pa, s.poisoned pa)
  | .ok (.rom pa) => some (s.latest pa, false)
  | _ => none

/-- The first of the `n` addresses from `va` on that does not satisfy `ok`. -/
def firstBad (ok : Word → Bool) (va : Word) (n : Nat) : Option Word :=
  ((List.range n).map (fun i => va + word i)).find? (fun a => !ok a)

/-- May an engine write the byte at `va`? -/
def State.copyOk (s : State) (c : Ctx) (va : Word) : Bool := match s.target c .store va 1 with | .ok (.mem _ _) => true | _ => false

/-- Bytes with their physical addresses in runs of rising addresses, each within one line of 64 bytes. -/
def runsOf : List (Nat × Byte) → List (Nat × List Byte)
  | [] => []
  | (pa, b) :: rest =>
    match runsOf rest with
    | (p, bs) :: rs => if p = pa + 1 ∧ p % 64 ≠ 0 then (pa, b :: bs) :: rs else (pa, [b]) :: (p, bs) :: rs
    | [] => [(pa, [b])]

/-- The sectors of the poisoned bytes among bytes at the addresses `pas`, each once. -/
def poisonedSectors (pas : List Nat) (bs : List (Byte × Bool)) : List Nat :=
  (((pas.zip bs).filter (fun p => p.2.2)).map (fun p => p.1 / 32)).eraseDups

/-- The bytes of one piece written at `dst`, poison with them: every sector that receives a poisoned byte is poisoned (17 R346), and logged where it
leaves by a port (20 R400). -/
def State.writePiece (s : State) (t : Transfer) (c : Ctx) (dst : Word) (bs : List (Byte × Bool)) : State :=
  let pas := (List.range bs.length).map (fun i => match s.target c .store (dst + word i) 1 with | .ok (.mem pa _) => pa | _ => 0)
  let s := (runsOf (pas.zip (bs.map (·.1)))).foldl (fun s r => s.write c.agent (pointAt c.agent .hart) false 0 r.1 r.2) s
  (poisonedSectors pas bs).foldl (fun s k => (s.poisonAt (32 * k) 1).logPort (32 * k) t.asid t.hart t.xid.toNat) s

/-- The first poisoned byte of a piece that a port would not forward, with its destination (20 R400). -/
def State.blockedByte (s : State) (c : Ctx) (dst : Word) (bs : List (Byte × Bool)) : Option (Nat × Nat) :=
  (List.range bs.length).findSome? (fun i =>
    match bs[i]?, s.target c .store (dst + word i) 1 with
    | some (_, true), .ok (.mem pa _) => if s.blocksPoison pa then some (i, pa) else none
    | _, _ => none)

/-- One piece of a copy: up to 64 bytes of a row, in ascending (row, offset) order (17 R346; 20 R400). -/
def State.copyPiece (s : State) (e : EngineId) (t : Transfer) : State :=
  let c := t.ctx (engineAgent e)
  let r := t.written / t.len
  let k := t.written % t.len
  let n := min 64 (t.len - k)
  let src := t.src + word r * t.sstride.signExtend 64 + word k
  let dst := t.dst + word r * t.dstride.signExtend 64 + word k
  match firstBad (fun a => (s.copyByte c a).isSome) src n, firstBad (s.copyOk c) dst n with
  | some a, _ => s.setRunning e { t with ended := some 1, faddr := a }
  | none, some a => s.setRunning e { t with ended := some 1, faddr := a }
  | none, none =>
    let bs := (List.range n).map (fun i => (s.copyByte c (src + word i)).getD (0, false))
    match s.blockedByte c dst bs with
    | some (i, pa) => (s.logPort pa t.asid t.hart t.xid.toNat).setRunning e { t with ended := some 1, faddr := withBits (src + word i) 0 5 0 }
    | none =>
    let w := t.written + n
    let p := t.poisoned || bs.any (·.2)
    (((s.requests c .load src).walkRequests c dst).writePiece t c dst bs).setRunning e
      { t with written := w, poisoned := p, ended := if w = t.len * t.nrows then some (if p then 2 else 0) else none }

/-- COPY_TRANSFER (17 R346): the engine moves the next piece of the copy it runs. -/
def execCopyTransfer (engine : EngineId) (s : State) : Result :=
  match s.engineQueue engine with
  | t :: _ => if t.eng ≠ 2 ∧ t.ended = none then .next (s.copyPiece engine t) else .next s
  | [] => .next s

/-! ### Page migration (13 R290, R291; 17 R348) -/

/-- The leaf entry of `va` in the tables under `root` as they stand now: where it lies, its level and the entry (13 R284). -/
def State.leafEntry (s : State) (d va : Nat) : Nat → Nat → Option (Nat × Nat × Word)
  | 0, _ => none
  | n + 1, a =>
    let pa := a + 8 * (va / 2 ^ (12 + 9 * n) % 512)
    match s.tableEntry d s.tick pa with
    | none => none
    | some e =>
      if !teV e || teReserved e then none
      else if !teR e && !teW e && !teX e then
        if n = 0 || teC e || teU e || teA e || teD e then none else s.leafEntry d va n (tePage e)
      else some (pa, 4 - n, e)

/-- The page size of a leaf; 0 where R286 faults it for every kind of access. -/
def leafSize (lvl : Nat) (e : Word) : Nat :=
  let n := if lvl = 2 then 2 ^ 30 else if lvl = 3 then 2 ^ 21 else if teC e then 65536 else 4096
  if lvl ≤ 1 || (lvl < 4 && teC e) || tePage e % n ≠ 0 || (teW e && !teR e) || !teA e
      || (match regionTier (tePage e) with | some t => !decide (t = teT e) | none => false) then 0
  else n

/-- The die whose translation unit an engine uses. -/
def engineDie : EngineId → Nat
  | .ctl c => dieOfCluster c
  | .edge d _ => d

/-- What a migration finds (17 R348): the old page, where its first entry lies and how many there are. -/
def State.migrationPage (s : State) (e : EngineId) (t : Transfer) : Option Migration :=
  match s.leafEntry (engineDie e) t.src.toNat 4 (bits t.ptbase 12 40 * 4096), regionTier t.dst.toNat with
  | some (pa, lvl, w), some tier =>
    let at_ := if t.len = 65536 then pa / 128 * 128 else pa
    let n := if t.len = 65536 then 16 else 1
    if t.src.toNat < 2 ^ 48 ∧ leafSize lvl w = t.len ∧ tier < 3 ∧ s.reaches (s.forward (canonAt (engineDie e) at_)) (8 * n) then
      some ⟨tePage w, canonAt (engineDie e) at_, n, s.tick, false⟩
    else none
  | _, _ => none

/-- The `n` entries from `pa` on changed by `f`, atomically each (13 R290). -/
def State.setEntries (s : State) (a : AgentId) (f : Word → Word) : Nat → Nat → State
  | 0, _ => s
  | n + 1, pa =>
    let p := s.forward pa
    ((s.amoObserve a p 8).atomicPut a p 8 (f (word (leNat (s.amoBytesAt a p 8)))).toNat).setEntries a f n (pa + 8)

/-- A device-scope TLBINV of the page at `va` for `asid` (13 R290; 14 R311). -/
def State.invalidatePage (s : State) (asid va : Word) : State :=
  (List.range 8).foldl (fun s d =>
    s.modDie d (fun x => { x with tlb := ⟨some asid, some (bits va 12 36), true, s.tick⟩ :: x.tlb })) s

/-- The part of a write on the bytes `lo .. hi - 1`, if any. -/
def PendWrite.within (p : PendWrite) (lo hi : Nat) : List PendWrite :=
  let a := max lo p.pa
  let b := min hi (p.pa + p.new.length)
  if a < b then [{ p with pa := a, old := (p.old.drop (a - p.pa)).take (b - a), new := (p.new.drop (a - p.pa)).take (b - a) }] else []

/-- The parts of a write outside the 64 bytes at `lo`. -/
def PendWrite.outside (p : PendWrite) (lo : Nat) : List PendWrite := p.within 0 lo ++ p.within (lo + 64) (2 ^ 53)

/-- The writes under way when the line at `o` moves to `n`: those to it go with it, each as far as it has come (15 R330); what the line at `n` held
before is overwritten. -/
def movePend (o n : Nat) (split : Bool) (ps : List PendWrite) : List PendWrite :=
  ps.flatMap (fun p =>
    (p.within o (o + 64)).map (fun q => { q with pa := q.pa - o + n, split := split })
      ++ (p.outside o).flatMap (fun q => q.outside n))

/-- One 64-byte line moves from `o` to `n` (13 R290; 15 R330): its bytes with the writes to them that are under way, and its poison. No write is
added. -/
def State.moveLine (s : State) (t : Transfer) (o n : Nat) : State :=
  let ps := [o, o + 32].filter s.poisoned
  let s := ((s.touch o).touch n)
  let s := { s with
    mem := putBytes s.mem n (s.latestBytes o 64)
    poison := cleanSectors s.poison n 64
    pend := movePend o n (s.splitAt n) s.pend }
  ps.foldl (fun s p => (s.poisonAt (n + (p - o)) 1).logPort (n + (p - o)) t.asid t.hart t.xid.toNat) s

/-- A table entry of the new page (13 R290, step 3). -/
def movedEntry (dst : Nat) (e : Word) : Word :=
  withBits (withBits (withBits e 60 1 0) 58 2 ((regionTier dst).getD 0)) 12 40 (dst / 4096)

/-- The pages that migrate when `bytes` bytes of the page at `old` have moved in its latest migration. -/
def movedTo (old bytes : Nat) : List Moving → List Moving
  | [] => []
  | m :: ms => if m.old = old then { m with bytes := bytes } :: ms else m :: movedTo old bytes ms

/-- The machine `s` in which one more line of a migration has moved; `poison`: it carried poisoned sectors (17 R349). -/
def State.lineMoved (s : State) (e : EngineId) (t : Transfer) (m : Migration) (poison : Bool) : State :=
  let done := t.written + 64
  let s : State := { s with moving := movedTo m.old done s.moving }
  s.setRunning e { t with written := done, poisoned := t.poisoned || poison }

/-- The next line of a migration (13 R290; 17 R339, R347), which lies where an earlier one has moved it: where a line does not respond, or a port
stops its poison (20 R400), the transfer ends with code 1. -/
def State.migrateLine (s : State) (e : EngineId) (t : Transfer) (m : Migration) : State :=
  let o := s.forward (m.old + t.written)
  let n := t.dst.toNat + t.written
  let va := t.src + word t.written
  if !s.reaches o 64 || !s.reaches n 64 then s.setRunning e { t with ended := some 1, faddr := va }
  else
    match [o, o + 32].find? s.poisoned with
    | some p =>
      if s.blocksPoison n then (s.logPort n t.asid t.hart t.xid.toNat).setRunning e { t with ended := some 1, faddr := va + word (p - o) }
      else (s.moveLine t o n).lineMoved e t m true
    | none => (s.moveLine t o n).lineMoved e t m false

/-- The slot of a ring operation that waits, when the page at `old` of `n` bytes has migrated: its dwords lie where they have moved (11 R263; 13
R291). -/
def State.movedSlot (s : State) (old n : Nat) (k : RingSlot) : RingSlot :=
  let now (a : Nat) : Nat := if old ≤ a ∧ a < old + n then s.forward a else a
  { k with hdr := now k.hdr, moves := k.moves.map (fun m => (now m.1, now m.2)) }

/-- The hart where it waits in a ring operation, when that page has migrated. -/
def State.movedWait (s : State) (old n : Nat) (h : Hart) : Hart :=
  match h.run with
  | .waiting (.rput d sc k) => { h with run := .waiting (.rput d sc (s.movedSlot old n k)) }
  | .waiting (.rtake d sc k) => { h with run := .waiting (.rtake d sc (s.movedSlot old n k)) }
  | _ => h

/-- A migration of the page at `old` of `n` bytes is over: nothing is forwarded any more, and the ring operations that wait go on at the new page. -/
def State.endMoving (s : State) (old n : Nat) : State :=
  { s with
    hart := s.movedWait old n s.hart
    others := s.others.map (fun p => (p.1, s.movedWait old n p.2))
    moving := s.moving.filter (fun p => p.old ≠ old) }

/-- PAGE_MIGRATION (13 R290, R291; 14 R312; 17 R339, R348, R349): the next step of the migration the engine runs. What follows an invalidation waits
until every access that used what it invalidated has been performed. Where the page's entries no longer respond the transfer ends with code 1. -/
def execPageMigration (engine : EngineId) (s : State) : Result :=
  match s.engineQueue engine with
  | t :: _ =>
    if t.eng = 2 ∧ t.ended = none then
      let a := engineAgent engine
      match t.page with
      | none =>
        match s.migrationPage engine t with
        | none => .next (s.setRunning engine { t with ended := some 1, faddr := t.src })
        | some m =>
          let s := (s.setEntries a (fun e => withBits e 60 1 1) m.count m.entry).invalidatePage t.asid t.src
          let s : State := { s with moving := ⟨m.old, t.dst.toNat, 0, []⟩ :: s.moving }
          .next (s.setRunning engine { t with page := some m })
      | some m =>
        if s.performedFrom (List.range 8) m.inv = false then .next s
        else if m.closing then
          let s := s.endMoving m.old t.len
          .next (s.setRunning engine { t with ended := some (if t.poisoned then 2 else 0) })
        else if t.written < t.len then .next (s.migrateLine engine t m)
        else if !s.reaches (s.forward m.entry) (8 * m.count) then .next (s.setRunning engine { t with ended := some 1, faddr := t.src })
        else
          let s := (s.setEntries a (movedEntry t.dst.toNat) m.count m.entry).invalidatePage t.asid t.src
          .next (s.setRunning engine { t with page := some { m with inv := s.tick, closing := true } })
    else .next s
  | [] => .next s

/-! ### Completion (17 R349, R353) -/

/-- Is the hart in slot `h` the one that issued the transfer: of its work tag, or, where it has none, of its stay? -/
def State.isIssuer (s : State) (t : Transfer) (h : Nat) : Bool :=
  decide ((s.hartAt h).run ≠ .empty) && decide ((s.hartAt h).tag = t.tag) && (t.tag.isSome || decide (s.stayAt h = t.stay))

/-- Is the saved hart the one that issued the transfer? -/
def SavedHart.isIssuer (p : SavedHart) (t : Transfer) : Bool := decide (p.tag = t.tag) && (t.tag.isSome || decide (p.stay = t.stay))

/-- The overflow flag of a hart that is not in the slot it issued from: where it was restored, or of its saved context (17 R353, R356). -/
def State.flagOverflow (s : State) (t : Transfer) : State :=
  match (s.cur :: s.others.map (·.1)).find? (s.isIssuer t) with
  | some h => s.modHart h (fun x => { x with ov := true })
  | none => { s with saved := s.saved.map (fun p => if p.isIssuer t then { p with ov := true } else p) }

/-- The user-level entry of a completed transfer (17 R353). -/
def State.queueEntryOf (s : State) (t : Transfer) (code : Nat) : State :=
  if s.isIssuer t t.hart then
    if 16 ≤ (s.coreAt (coreOf t.hart)).uqueue.length then s.modHart t.hart (fun x => { x with ov := true })
    else s.modCore (coreOf t.hart) (fun c => { c with uqueue := c.uqueue ++ [⟨slotOf t.hart, t.xid, code, t.mbox, t.handler⟩] })
  else s.flagOverflow t

/-- The mailbox release scope of an engine (15 R327). -/
def mailboxScope : EngineId → Scope
  | .ctl _ => .cluster
  | .edge _ _ => .device

/-- TRANSFER_COMPLETE (17 R349, R353): the engine's ended transfer leaves its queue, its mailbox is written, its entry is queued once dword 0 has
appeared at the engine's scope, where the entry's acquire finds it (15 R327). -/
def execTransferComplete (engine : EngineId) (s : State) : Result :=
  match s.engineQueue engine with
  | t :: rest =>
    match t.ended with
    | none => .next s
    | some code =>
      let s := (s.setEngineQueue engine rest).storeMailbox (t.ctx (engineAgent engine)) (mailboxScope engine) t code
      .next (if t.int then (s.appear (engineAgent engine)).queueEntryOf t code else s)
  | [] => .next s

/-! ### SWAIT (17 R351) -/

/-- SWAIT on a mailbox (17 R351): dword 0, read with an acquire at .device. -/
def swaitMail (d a b : Reg) (s : State) : Result :=
  let r := s.withHart Hart.resume
  if (s.x a).toNat % 32 ≠ 0 then raise r 4 (s.x a)
  else
    orTrap r (r.load r.ctx .device (r.x a) 8) fun w =>
      let r := (r.observeAt r.ctx .device (r.x a) 8).acquire (.hart s.cur) .device
      if w.testBit 63 then setDone r d (word w)
      else if bitSet (s.x b) 0 then .next (r.withHart (fun h => { h with run := .waiting (.swait d a b) }))
      else setDone r d 0

/-- SWAIT on a stream (17 R351): a drained output stream is reported with an acquire of the controller's release. -/
def swaitQ (d a b : Reg) (s : State) : Result :=
  let q := bits (s.x a) 0 4
  let t := s.stream s.cur q
  let r := s.withHart Hart.resume
  if !t.bound then raise r 31 (word q)
  else if s.undrained s.cur q then
    (if bitSet (s.x b) 0 then .next (r.withHart (fun h => { h with run := .waiting (.swait d a b) })) else setDone r d 0)
  else
    let r := if t.out then (r.release (.ctl (clusterOf s.cur)) .cluster).acquire (.hart s.cur) .cluster else r
    setDone r d (if t.err then 2 else 1)

/-- SWAIT (17 R351): X(xs2) chooses the mailbox or the stream form. -/
def execSwaitMailbox (d a b : Reg) (s : State) : Result := if bitSet (s.x b) 1 then swaitQ d a b s else swaitMail d a b s

/-- SWAIT in its stream form (17 R351). -/
def execSwaitStream (d a b : Reg) (s : State) : Result := swaitQ d a b s

/-- SWAIT_WAKE (17 R351): a waiting SWAIT looks again. -/
def execSwaitWake (s : State) : Result :=
  match s.hart.run with
  | .waiting (.swait d a b) => if bitSet (s.x b) 1 then swaitQ d a b s else swaitMail d a b s
  | _ => .next s

end Sys2Proof.Machine
end

