-- ==== Sys2Proof/Machine/Context.lean ====
section
/-! DEFINITION. Saving and restoring a hart's context (19 R377 to R380, R386; 09 R194): CTXSAVE and CTXLOAD. -/

namespace Sys2Proof.Machine

/-! ### The image (19 R377) -/

/-- Number `v` as `n` dwords, the lowest first. -/
def dwordsOf : Nat → Nat → List Nat
  | 0, _ => []
  | n + 1, v => v % 2 ^ 64 :: dwordsOf n (v / 2 ^ 64)

/-- Dwords as one number. -/
def natOf : List Nat → Nat
  | [] => 0
  | w :: ws => w + 2 ^ 64 * natOf ws

/-- `n` dwords of an image from byte `o` on, as a number. -/
def imageSpan (ws : List Nat) (o n : Nat) : Nat := natOf ((ws.drop (o / 8)).take n)

/-- The dword of an image at byte `o`. -/
def imageDword (ws : List Nat) (o : Nat) : Nat := ws.getD (o / 8) 0

/-- The registers' strings, register `i` at bit i × MAXVL × W (19 R377). -/
def Hart.packed (h : Hart) (t : Tab Nat) (width : Nat) : Nat :=
  ((List.range h.vcount).map (fun i => Tab.get 0 t i % 2 ^ width * 2 ^ (i * width))).sum

/-- The work tag as a word (19 R380): 0 for a hart of no crew (log entry 25). -/
def tagWord : Option (Nat × Nat) → Nat
  | some (n, m) => n % 2 ^ 32 * 2 ^ 32 + m % 2 ^ 32
  | none => 0

/-- The scalar part of the image, bytes 0 to 1,023 (19 R377): `lost` its bit. -/
def Hart.imageHead (h : Hart) (lost : Bool) : List Nat :=
  ([1, h.trapS.epc.toNat] ++ (List.range 31).map (fun i => (h.reg (BitVec.ofNat 5 (i + 1))).toNat))
    ++ ([h.fflags, h.frm, h.iflags, h.vtype, h.vl, h.rows, h.vstart, h.vgrant, h.vxflags, h.vxtrap, h.vpoison].map BitVec.toNat
    ++ ([bits h.mgrant 16 7] ++ ([h.adbase, h.amiss, h.uxid, h.uhandler, h.ushadow0, h.ushadow1, h.ushadow2, h.ushadow3, h.eshadow, h.eword,
        h.mseq, h.recvto].map BitVec.toNat ++ ([bit h.emu + 2 * bit lost, tagWord h.tag] ++ List.replicate 69 0))))

/-- The vector part of the image, bytes 1,536 to 82,943 (19 R377). -/
def Hart.imageVectors (h : Hart) : List Nat :=
  if h.ill then List.replicate 10176 0
  else
    dwordsOf 8 ((List.range h.vcount).map (fun i => h.tagOf i * 256 ^ i)).sum
      ++ (List.replicate 56 0
      ++ ((List.range 7).flatMap (fun j => dwordsOf 128 (Tab.get 0 h.m (j + 1)))
      ++ (dwordsOf 1024 (h.packed h.vpois h.maxvl) ++ dwordsOf 8192 (h.packed h.v (h.maxvl * h.vwidth)))))

/-- The context image of the current hart (19 R377). -/
def State.contextImage (s : State) : List Nat :=
  s.hart.imageHead (s.hart.ov || s.hasEntry s.cur) ++ (s.streamImage s.cur ++ s.hart.imageVectors)

/-! ### CTXSAVE (19 R378) -/

/-- clk a save takes: at least 1,296 (19 R378). Log entry 5. -/
def State.saveCost (s : State) : Nat := 1296 + Config.extraClk (s.tick + 1)

/-- Where the image at `va` lies. -/
def State.imagePa (s : State) (va : Word) : Nat := match s.target s.ctx .load va 8 with | .ok (.mem pa _) => pa | .ok (.rom pa) => pa | _ => 0

/-- Is the saved hart the one an image of work tag `tag` at `pa` belongs to? Where it has no tag, the image's place tells (log entry 61). -/
def SavedHart.of (p : SavedHart) (tag : Option (Nat × Nat)) (pa : Nat) : Bool := decide (p.tag = tag) && (tag.isSome || decide (p.image = pa))

/-- The hart's context leaves its slot for the image at `pa` (19 R378, R383): streams, entries, channels, lanes, vector state, and the work tag,
which the saved hart keeps. -/
def State.leaveSlot (s : State) (pa : Nat) : State :=
  let h := s.cur
  let s := { s with
    saved := ⟨s.hart.tag, pa, s.stayAt h, false, s.hart.block, s.hart.partials, s.hart.stopped, s.hart.lastSend⟩
      :: s.saved.filter (fun p => !p.of s.hart.tag pa) }
  (((s.unbindAll h).dropEntries h).releaseChannels h).withHart (fun x =>
    { x.resetVector 0 s.laneLimit with
      ov := false, tag := none, lastSend := none, block := none, partials := [], stopped := [], stay := newStay h s.tick })

/-- CTXSAVE once the output streams are drained; `t` is cycle at its issue (19 R378). -/
def saveNow (d a b : Reg) (t : Word) (s : State) : Result :=
  match s.storeImage s.ctx (s.x a) s.contextImage with
  | (s, some e) => .next (s.trap e)
  | (s, none) =>
    let deadline := s.x b
    let s := (s.release (.hart s.cur) .device).leaveSlot (s.imagePa (s.x a))
    let s := { s with clk := s.clk + s.saveCost }
    let elapsed := s.cycle - t
    let missed := deadline ≠ 0 ∧ deadline.toNat < elapsed.toNat
    setDone s d (word (elapsed.toNat % 2 ^ 32 + bit missed * 2 ^ 63))

/-- cycle at the issue of the CTXSAVE the hart waits in. -/
def State.saveStart (s : State) : Word := match s.hart.run with | .waiting (.ctxsave _ _ _ t) => t | _ => s.cycle

/-- CTXSAVE (19 R378); at U, code 2. -/
def execCtxsave (d a b : Reg) (s : State) : Result :=
  if s.hart.level = .u then illegal s (.ctxsave d a b)
  else if (s.x a).toNat % 256 ≠ 0 then raise s 6 (s.x a)
  else if s.drained s.cur then saveNow d a b s.saveStart (s.withHart Hart.resume)
  else .next (s.withHart (fun h => { h with run := .waiting (.ctxsave d a b s.saveStart) }))

/-! ### CTXLOAD (19 R379) -/

/-- count and W of a vtype value (05 R104). -/
def vtypeCount (w : Nat) : Nat := 8 * 2 ^ (w / 16 % 4)
/-- W of a vtype value (05 R104). -/
def vtypeWidth (w : Nat) : Nat := 8 * 2 ^ (w / 64 % 4)

/-- Are the vector areas of an image clean where they must be (19 R377, R379; 05 R102)? -/
def vectorsClean (ws : List Nat) : Bool :=
  let vt := imageDword ws 288
  let tags := imageSpan ws 1536 8
  let mask (j : Nat) : Nat := imageSpan ws (2048 + 1024 * j) 128
  if vt.testBit 63 then tags = 0 && (List.range 7).all (fun j => mask j = 0) && imageSpan ws 9216 1024 = 0 && imageSpan ws 17408 8192 = 0
  else
    let n := vtypeCount vt
    let mv := imageDword ws 320 / 2 ^ 18 % 2 ^ 14
    tags < 256 ^ n && (List.range n).all (fun i => tags / 256 ^ i % 256 < 19) && (List.range 7).all (fun j => mask j < 2 ^ mv)
      && imageSpan ws 9216 1024 < 2 ^ (n * mv) && imageSpan ws 17408 8192 < 2 ^ (n * mv * vtypeWidth vt)

/-- Version 1 and every zero field zero (19 R379). -/
def imageClean (ws : List Nat) : Bool :=
  imageDword ws 0 = 1 && imageDword ws 352 < 128 && imageDword ws 456 < 4 && imageSpan ws 472 69 = 0 && imageSpan ws 1600 56 = 0
    && vectorsClean ws

/-- Does the saved grant fit the lanes and its configuration (19 R379)? -/
def grantFits (ws : List Nat) (g : Nat) : Bool :=
  let vt := imageDword ws 288
  let vg := imageDword ws 320
  let mv := vg / 2 ^ 18 % 2 ^ 14
  vt.testBit 63 || (vg % 16 ≤ g && 16 ≤ mv && mv = vg % 16 * 65536 / (vtypeCount vt * vtypeWidth vt))

/-- The crew a tag names (19 R380): none for a tag that is refused, some none for that of no crew. -/
def State.tagCrew (s : State) (w : Nat) : Option (Option Crew) :=
  if w = 0 then some none
  else
    match s.liveCrew (w / 2 ^ 32) with
    | some c => if w % 2 ^ 32 < c.size || (3072 ≤ w % 2 ^ 32 && w % 2 ^ 32 < 3072 + c.children) then some (some c) else none
    | none => none

/-- A table of numbers from their values at 0, 1, 2 and so on. -/
def tabOf (l : List Nat) (from_ : Nat) : Tab Nat := ((List.range l.length).map (fun i => (i + from_, l.getD i 0))).filter (fun p => p.2 ≠ 0)

/-- The vector state of an image (19 R377, R379). -/
def Hart.loadVectors (h : Hart) (ws : List Nat) (held : BitVec 8) : Hart :=
  let vt := imageDword ws 288
  let n := if vt.testBit 63 then 0 else vtypeCount vt
  let mv := imageDword ws 320 / 2 ^ 18 % 2 ^ 14
  let part (v width i : Nat) : Nat := v / 2 ^ (i * width) % 2 ^ width
  let regs := imageSpan ws 17408 8192
  let pois := imageSpan ws 9216 1024
  let tags := imageSpan ws 1536 8
  { h with
    vtype := word vt &&& 0x80003F0FFF0700F0
    vl := word (imageDword ws 296 % 2 ^ 14)
    rows := word (imageDword ws 304 % 2 ^ 7)
    vstart := word (imageDword ws 312 % 2 ^ 14)
    vgrant := word (imageDword ws 320) &&& 0x3FFFFFFC0FFF
    v := tabOf ((List.range n).map (part regs (mv * vtypeWidth vt))) 0
    vtag := tabOf ((List.range n).map (part tags 8)) 0
    vpois := tabOf ((List.range n).map (part pois mv)) 0
    m := tabOf ((List.range 7).map (fun j => imageSpan ws (2048 + 1024 * j) 128)) 1
    held := held
    loweredGl := none
    throttledV := false }

/-- The scalar state of an image (19 R377, R379), x1 to x31 last. -/
def Hart.loadScalars (h : Hart) (ws : List Nat) (ov : Bool) : Hart :=
  let g (o : Nat) : Word := word (imageDword ws o)
  let st := withBits (withBits (withBits h.trapS.status 4 1 (bits (g 456) 0 1)) 2 2 0) 1 1 1
  { h with
    fflags := g 264 &&& 0x1F, frm := g 272 &&& 7, iflags := g 280 &&& 0x303, vxflags := g 328 &&& 7, vxtrap := g 336 &&& 3
    vpoison := g 344 &&& 0x807F3FFF00003FFF, adbase := g 360, amiss := g 368, uxid := g 376 &&& 0xF0000000FFFFFFFF, uhandler := g 384
    ushadow0 := g 392, ushadow1 := g 400, ushadow2 := g 408, ushadow3 := g 416, eshadow := withBits (g 424) 0 2 0
    eword := g 432 &&& 0xFFFFFFFF, mseq := g 440 &&& 0x8000000000000003, recvto := g 448 &&& 0xFFFFFFFF, ov := ov
    trapS := { h.trapS with epc := withBits (g 8) 0 2 0, status := st }
    x := ((List.range 31).map (fun i => (i + 1, g (16 + 8 * i)))).filter (fun p => p.2 ≠ 0) }

/-- The restored hart in its slot (19 R379): its context of the image at `pa`, its tag, its channels (09 R194); its overflow flag where an entry was
lost while it was saved (17 R353, R356). DESIGN CHOICE (log entry 71): a hart of no launch takes the priority that the slot had. -/
def State.restore (s : State) (ws : List Nat) (cr : Option Crew) (held : BitVec 8) (pa : Nat) : State :=
  let tag := cr.map (fun c => (c.number, imageDword ws 464 % 2 ^ 32))
  let was := s.saved.find? (fun p => p.of tag pa)
  let s := s.receive s.cur
  let ov := (imageDword ws 456).testBit 1 || (was.map (·.ov)).getD false
  let s := s.withHart (fun h =>
    { (h.loadVectors ws held).loadScalars ws ov with
      tag := tag, prio := match cr with | some c => c.prio | none => h.prio
      block := was.bind (·.block), partials := (was.map (·.partials)).getD [], stopped := (was.map (·.stopped)).getD []
      lastSend := was.bind (·.lastSend)
      stay := if tag = none then (was.map (·.stay)).getD (newStay s.cur s.tick) else newStay s.cur s.tick })
  let s := { s with saved := s.saved.filter (fun p => !p.of tag pa) }
  (s.grantRowsBy (rowLimitOf s.core.pwrcap (slotOf s.cur)) (min (imageDword ws 352) 64)).1

/-- CTXLOAD of an image that passed its checks (19 R379). -/
def loadNow (i : Instr) (a : Reg) (ws : List Nat) (cr : Option Crew) (s : State) : Result :=
  if s.drained s.cur then
    let s := ((s.withHart Hart.resume).observeDwords s.ctx .hart (s.x a) 10368).unbindAll s.cur
    let l := s.hart.level
    match (s.withHart (fun h => { h with level := .u })).kickController.bindRecords (ws.drop 128) (List.range 16) with
    | .error q => raise s 31 (word q)
    | .ok s' =>
      done ((s'.withHart (fun h => { h with level := l })).restore ws cr (s.lanesFor s.cur) (s.imagePa (s.x a)))
  else stall s i

/-- CTXLOAD (19 R379); at U, code 2. -/
def execCtxload (a : Reg) (s : State) : Result :=
  if s.hart.level = .u then illegal s (.ctxload a)
  else if (s.x a).toNat % 256 ≠ 0 then raise s 4 (s.x a)
  else
    let s := s.withHart Hart.resume
    orTrap s (s.loadDwords s.ctx .hart (s.x a) 10368) fun ws =>
      if imageClean ws && grantFits ws (min (laneCount (s.lanesFor s.cur)) s.laneLimit) then
        match s.tagCrew (imageDword ws 464) with
        | some cr => loadNow (.ctxload a) a ws cr s
        | none => raise s 37 (s.x a)
      else raise s 37 (s.x a)

end Sys2Proof.Machine
end

