-- ==== Sys2Proof/Machine/Control.lean ====
section
/-! DEFINITION. Branches, LOOP and jumps (04 R80 to R82). -/

namespace Sys2Proof.Machine

/-- A branch: to pc + 4 × SignExtend(off15, 15) where the condition holds, else to pc + 4 (04 R80). -/
def branch (s : State) (taken : Bool) (off : BitVec 15) : Result :=
  jump s (if taken then s.hart.pc + off15 off else s.hart.pc + 4)

/-- BEQ (04 R80). -/
def execBeq (a b : Reg) (off : BitVec 15) (s : State) : Result := branch s (s.x a = s.x b) off

/-- BNE (04 R80). -/
def execBne (a b : Reg) (off : BitVec 15) (s : State) : Result := branch s (s.x a ≠ s.x b) off

/-- BLT (04 R80). -/
def execBlt (a b : Reg) (off : BitVec 15) (s : State) : Result := branch s ((s.x a).slt (s.x b)) off

/-- BGE (04 R80). -/
def execBge (a b : Reg) (off : BitVec 15) (s : State) : Result := branch s (!(s.x a).slt (s.x b)) off

/-- BLTU (04 R80). -/
def execBltu (a b : Reg) (off : BitVec 15) (s : State) : Result := branch s ((s.x a).ult (s.x b)) off

/-- BGEU (04 R80). -/
def execBgeu (a b : Reg) (off : BitVec 15) (s : State) : Result := branch s (!(s.x a).ult (s.x b)) off

/-- LOOP (04 R81). -/
def execLoop (a : Reg) (off : BitVec 15) (s : State) : Result := branch (s.setX a (s.x a - 1)) (s.x a - 1 ≠ 0) off

/-- JAL (04 R82). -/
def execJal (d : Reg) (off : BitVec 20) (s : State) : Result := jump (s.setX d (s.hart.pc + 4)) (s.hart.pc + off20 off)

/-- JALR (04 R82): a target that is not word-aligned is code 0, and nothing is written (01 R14). -/
def execJalr (d a : Reg) (imm : BitVec 15) (s : State) : Result :=
  if bits (s.x a + imm15 imm) 0 2 ≠ 0 then raise s 0 (s.x a + imm15 imm)
  else jump (s.setX d (s.hart.pc + 4)) (s.x a + imm15 imm)

end Sys2Proof.Machine
end

