-- ==== Sys2Proof/Machine/Launcher.lean ====
section
/-! DEFINITION. The launcher: taking records from work queues (23 R424), refusing, ordering and placing launches (11 R239 to R244, R265; 22 R415;
23 R422, R430). -/

namespace Sys2Proof.Machine

/-! ### Taking a record (23 R423, R424) -/

/-- Does the descriptor of queue `q` meet 23 R423: slots of 128 bytes on a 128-byte boundary? Its base, lg and head. -/
def State.queueRing (s : State) (q : Nat) : Option (Nat × Nat) :=
  match s.ringField q 0 8, s.ringField q 8 1, s.ringField q 12 4 with
  | some base, some lg, some ssize => if ssize = 128 ∧ base % 128 = 0 ∧ 4 ≤ lg ∧ lg ≤ 16 then some (base, lg) else none
  | _, _, _ => none

/-- A dword at physical address `pa` as the launcher reads it; none where memory does not respond or is poison. -/
def State.launcherRead (s : State) (pa : Nat) : Option Nat :=
  if s.poisoned (s.forward pa) then none else s.physRead launcher .system pa 8

/-- The dwords of a record at `pa` as the launcher reads them. -/
def State.recordAt (s : State) (pa : Nat) : List (Option Nat) := (List.range 8).map (fun i => s.launcherRead (pa + 8 * i))

/-- The numbers of the dwords that could not be read. -/
def unreadOf (ws : List (Option Nat)) : List Nat := (List.range ws.length).filter (fun i => ws.getD i none = none)

/-- The slot at the head of queue `q`, where it is before target (23 R424): the ring's base and lg, and the slot's address. -/
def State.headSlot (s : State) (q : Nat) : Option (Nat × Nat × Nat) :=
  let w := Tab.get WorkQueue.reset s.queues q
  if s.admitted 0 ∧ q < 8192 ∧ s.queueOn q ∧ w.head ≠ w.target then
    (s.queueRing q).map (fun r => (r.1, r.2, r.1 + (w.head.toNat % 2 ^ r.2) * 128))
  else none

/-- That slot, where it is full (23 R424). -/
def State.fullSlot (s : State) (q : Nat) : Option (Nat × Nat × Nat) :=
  (s.headSlot q).filter (fun r =>
    match s.launcherRead r.2.2 with
    | some h => decide (h % 4 = phase r.2.1 (Tab.get WorkQueue.reset s.queues q).head)
    | none => false)

/-- What the launcher's look at queue `q` leaves behind: its requests to the HBM channels (13 R281), and a read that failed at a port (23 R421). -/
def State.pollQueue (s : State) (q : Nat) : State :=
  let t := s.queueRequests q
  let noted := [s.queueEntry q, (s.physRead launcher .system (s.queueEntry q) 8).getD 0].foldl (fun t pa => t.notePoll launcher pa) t
  match s.headSlot q with
  | some (_, _, slot) => (noted.notePoll launcher slot).touchAt slot
  | none => noted

/-- The queue after its head slot is taken (23 R424): doorbells that posted nothing beyond it are done with. -/
def WorkQueue.take (w : WorkQueue) : WorkQueue := { w with head := w.head + 1, bells := w.bells.filter (fun b => b.1 ≠ w.head + 1) }

/-- When the head slot of a queue was posted: with the first doorbell that covers it (11 R265; 23 R424). -/
def WorkQueue.postedAt (w : WorkQueue) (now : Nat) : Nat := match w.bells with | b :: _ => b.2 | [] => now

/-- The launcher takes the record of slot `h` of queue `q`, which is full (23 R424). -/
def State.takeSlot (s : State) (q base lg slotPa : Nat) : State :=
  let w := Tab.get WorkQueue.reset s.queues q
  let hdr := (s.physRead launcher .system slotPa 8).getD 0
  let ws := s.recordAt (slotPa + 64)
  let s := [slotPa, slotPa + 64].foldl (fun s pa => (s.observe launcher .system (s.forward pa) 64).touch (s.forward pa)) s
  let s := (s.acquire launcher .system).atPhys slotPa 8 (fun s pa => s.publish launcher .system pa 8 (hdr ||| 2))
  let ring := (s.physRead launcher .system (s.queueEntry q) 8).getD 0
  let s := s.atPhys (ring + 16) 4 (fun s pa => s.write launcher (pointAt launcher .system) false 0 pa (leBytes 4 w.take.head.toNat))
  let s := { s with queues := Tab.put WorkQueue.reset s.queues q w.take }
  let prio := min ((ws.getD 5 none).getD 0 / 2 ^ 32 % 8) (s.queueByte q 10 % 8)
  { s with
    posted := s.posted ++
      [⟨ws.map (·.getD 0), base + (w.head.toNat % 2 ^ lg) * 128 + 64, q, (s.queueByte q 8 + 256 * s.queueByte q 9) % 2 ^ 11, w.postedAt s.clk, prio,
        0, unreadOf ws⟩] }

/-- WQ_SLOT_TAKE (23 R424): with head before target and the slot full, its record joins the order of 11 R265. -/
def execWqSlotTake (queue : Nat) (s : State) : Result :=
  let s := s.syncQueue queue
  match s.fullSlot queue with
  | some (base, lg, slot) => .next ((s.pollQueue queue).takeSlot queue base lg slot)
  | none => .next (s.pollQueue queue)

/-- Is there a posted record that the launcher has not taken (11 R265)? -/
def State.recordsWait (s : State) : Bool := s.queues.any (fun p => ((s.syncQueue p.1).fullSlot p.1).isSome)

/-! ### Records (11 R239, R240) -/

/-- A launch record (11 R239). -/
structure Record where
  entry : Word
  arg : Word
  ltab : Word
  panel : Word
  cword : Word
  size : Nat
  asid : Word
  pack : Bool
  torus : Bool
  dep0 : Word
  dep1 : Word
  deriving DecidableEq, Repr

/-- A record from its eight dwords (11 R239; 23 R430). -/
def Record.of (ws : List Nat) : Record :=
  let g (i : Nat) : Word := word (ws.getD i 0)
  ⟨g 0, g 1, g 2, g 3, g 4, bits (g 5) 0 16, word (bits (g 5) 16 11), bitSet (g 5) 40, bitSet (g 5) 41, g 6, g 7⟩

/-- A reserved bit of the record is set, an address breaks its alignment, or the size is out of range (11 R242; 23 R430). -/
def recordBad (ws : List Nat) : Bool :=
  let r := Record.of ws
  let w := ws.getD 5 0
  w / 2 ^ 27 % 2 ^ 5 ≠ 0 || w / 2 ^ 35 % 2 ^ 5 ≠ 0 || w / 2 ^ 42 ≠ 0 || r.entry.toNat % 4 ≠ 0 || r.ltab.toNat % 8 ≠ 0
    || r.panel.toNat % 8 ≠ 0 || r.cword.toNat % 8 ≠ 0 || r.dep0.toNat % 8 ≠ 0 || r.dep1.toNat % 8 ≠ 0 || r.size = 0 || 3072 < r.size

/-- The levels of a loop table, outermost first: kind and extent (11 R240); none where a read faults or a reserved bit is set. -/
def State.loopTable (s : State) (c : Ctx) (va : Word) : Nat → Option (List (Nat × Nat))
  | 0 => some []
  | n + 1 =>
    match s.loadMem c .system va 8 with
    | .error _ => none
    | .ok w =>
      if w / 2 ^ 34 ≠ 0 then none
      else if w / 2 ^ 32 = 3 then some []
      else (s.loopTable c (va + 8) n).map (fun l => (w / 2 ^ 32, w % 2 ^ 32) :: l)

/-- The product of the extents of the levels of the given kinds. -/
def extents (ls : List (Nat × Nat)) (kind : Nat → Bool) : Nat := ((ls.filter (fun l => kind l.1)).map (·.2)).foldl (· * ·) 1

/-- Spatial levels (11 R240). -/
def spatial (k : Nat) : Bool := k = 1 || k = 2

/-- The index of rank `r` at every level, 0 at a temporal one (11 R243, R244). -/
def indices (ls : List (Nat × Nat)) (r : Nat) : List Nat :=
  match ls with
  | [] => []
  | (k, e) :: rest => (if spatial k then r / extents rest spatial % e else 0) :: indices rest r

/-- Coordinates as a2 holds them (11 R244). -/
def coordinates (ix : List Nat) : Word := word ((List.range ix.length).map (fun l => ix.getD l 0 % 2 ^ 16 * 2 ^ (16 * l))).sum

/-- The die index of a rank: row-major over the levels over dies (11 R243). -/
def dieIndex (ls : List (Nat × Nat)) (ix : List Nat) : Nat :=
  (ls.zip ix).foldl (fun acc p => if p.1.1 = 2 then acc * p.1.2 + p.2 else acc) 0

/-! ### Dies and cores a launch may use (11 R242, R243; 22 R415) -/

/-- The core map of an ASID's entry, as the launcher reads it now. -/
def State.launchMap (s : State) (e : AsidEntry) : CoreMap := ⟨launcher, e.coremap, s.tick + 1⟩

/-- Is a die on its way into service (22 R415)? -/
def State.dieComing (s : State) (d : Nat) : Bool :=
  let t := (s.dieAt d).st
  (1 ≤ t && t ≤ 4) || t = 7

/-- The entries of a core map, each with its core only where no earlier one names it (23 R429); `seen` holds the cores named before. -/
def firstNamed (seen : List Nat) : List (Option Nat) → List (Option Nat)
  | [] => []
  | none :: l => none :: firstNamed seen l
  | some c :: l => (if seen.contains c then none else some c) :: firstNamed (c :: seen) l

/-- The physical cores of all logical cores (23 R429). -/
def State.mappedCores (s : State) (m : CoreMap) : List (Option Nat) :=
  let cores := (List.range 1536).map (s.coreEntry m)
  if bitSet m.map 63 then firstNamed [] cores else cores

/-- The usable physical cores of logical die `d`, in ascending logical order, under a map `cores` (11 R242). -/
def State.usableCores (s : State) (cores : List (Option Nat)) (d : Nat) : List Nat :=
  let mapped := ((cores.drop (192 * d)).take 192).filterMap id
  let present := mapped.filter (fun c => s.admitted (dieOfCore c))
  if present.isEmpty then mapped.filter (fun c => s.dieComing (dieOfCore c)) else present

/-- The cores of the logical dies that count as admitted, in ascending order (11 R242). -/
def State.launchDies (s : State) (m : CoreMap) : List (List Nat) :=
  let cores := s.mappedCores m
  ((List.range 8).map (s.usableCores cores)).filter (fun l => !l.isEmpty)

/-- The torus cores of a launch in rank order: none where 23 R430 refuses it. -/
def State.torusCores (s : State) (e : AsidEntry) (ls : List (Nat × Nat)) : Option (List Nat) :=
  let m := s.launchMap e
  let xm := bits e.routemap 6 6 + 1
  let ym := bits e.routemap 0 6 + 1
  let levels := ls.filter (fun l => spatial l.1)
  if bitSet e.routemap 63 && decide (levels = [(1, ym), (1, xm)]) then
    let base := bits e.routemap 12 40 * 4096
    let one (i : Nat) : Option Nat :=
      let n := s.tableHalf m (base + 2 * i)
      if s.reaches (s.forward (base + 2 * i)) 2 && n ≠ 0xFFFF then s.logicalCore m n else none
    let cores := (List.range (xm * ym)).map one
    let named := cores.filterMap id
    if cores.all (·.isSome) && named.Nodup then some named else none
  else none

/-! ### What becomes of a posted launch -/

/-- A posted launch ready for its slots: its record, its ASID entry, its levels, and the cores of its dies or of its torus ranks. -/
structure Ready where
  r : Record
  entry : AsidEntry
  levels : List (Nat × Nat)
  dies : List (List Nat)
  torus : Option (List Nat)
  deriving DecidableEq, Repr

/-- Reserved bits of an ASID entry (23 R422). -/
def AsidEntry.reserved (e : AsidEntry) : Bool :=
  e.ptbase &&& 0x7FF0000000000FFF ≠ 0 || e.coremap &&& 0x7FF0000000000FFF ≠ 0 || e.routemap &&& 0x7FF0000000000000 ≠ 0 || e.ebase &&& 2 ≠ 0

/-- The checks of 11 R242, 23 R422, R424 and R430: none for a refused record. -/
def State.checkLaunch (s : State) (p : Posted) : Option Ready :=
  let r := Record.of p.dwords
  if !p.unread.isEmpty || recordBad p.dwords || r.asid.toNat ≠ p.queueAsid then none
  else
    match s.asidEntry r.asid with
    | none => none
    | some e =>
      if e.reserved then none
      else
        match s.loopTable (launchCtx r.asid e.ptbase) r.ltab 4 with
        | none => none
        | some ls =>
          let nd := extents ls (fun k => k = 2)
          let dies := s.launchDies (s.launchMap e)
          if extents ls spatial ≠ r.size || nd = 0 || dies.length < nd then none
          else if r.torus then (s.torusCores e ls).map (fun t => ⟨r, e, ls, dies, some t⟩)
          else if (dies.take nd).any (fun l => 2 * l.length < r.size / nd) then none
          else some ⟨r, e, ls, dies.take nd, none⟩

/-- What a dependence says: met, not yet, or failed (11 R242). -/
inductive Dep | met | waits | failed
  deriving DecidableEq, Repr

/-- One named completion word (11 R242). -/
def State.depOf (s : State) (c : Ctx) (va : Word) : Dep :=
  if va = 0 then .met
  else
    match s.loadMem c .system va 8 with
    | .error _ => .failed
    | .ok w => if w / 2 ^ 60 % 8 ≠ 0 then .failed else if w.testBit 63 then .met else .waits

/-- Both dependences of a launch. -/
def State.deps (s : State) (k : Ready) : Dep :=
  let c := launchCtx k.r.asid k.entry.ptbase
  match s.depOf c k.r.dep0, s.depOf c k.r.dep1 with
  | .failed, _ => .failed
  | _, .failed => .failed
  | .met, .met => .met
  | _, _ => .waits

/-- The slots of a die for `n` harts in order of rank (11 R243): none where there are too few. -/
def State.dieSlots (s : State) (pack : Bool) (cores : List Nat) (n : Nat) : Option (List Nat) :=
  let all := (cores.flatMap (fun c => [2 * c, 2 * c + 1])).filter s.slotFree
  let first := (cores.filter (fun c => s.slotFree (2 * c) && s.slotFree (2 * c + 1))).map (fun c => 2 * c)
  let order := if pack then all else first ++ all.filter (fun h => !first.contains h)
  if n ≤ order.length && cores.all (fun c => s.admitted (dieOfCore c)) then some (order.take n) else none

/-- The slot of a torus hart on core `c` (23 R430). -/
def State.torusSlot (s : State) (pack : Bool) (c : Nat) : Option Nat :=
  if pack then [2 * c, 2 * c + 1].find? s.slotFree else if s.slotFree (2 * c) then some (2 * c) else none

/-- The slots of a launch by rank (11 R243; 23 R430); none where it must wait. -/
def State.launchSlots (s : State) (k : Ready) : Option (List Nat) :=
  match k.torus with
  | some cores => cores.mapM (s.torusSlot k.r.pack)
  | none =>
    let nd := k.dies.length
    match k.dies.mapM (fun cores => s.dieSlots k.r.pack cores (k.r.size / nd)) with
    | none => none
    | some perDie =>
      let die (r : Nat) : Nat := dieIndex k.levels (indices k.levels r)
      some ((List.range k.r.size).map (fun r =>
        (perDie.getD (die r) []).getD ((List.range r).countP (fun q => die q = die r)) 0))

/-- lanecap of every core the launch uses (11 R244). -/
def State.launchLanes (s : State) (slots : List Nat) : State :=
  slots.foldl (fun s h =>
    s.modCore (coreOf h) (fun c =>
      { c with lanecap := if s.slotFree (otherSlot h) && !slots.contains (otherSlot h) then lanesAlone (slotOf h) else lanesShared })) s

/-- The harts of a launch start in their slots, rank by rank (11 R244). -/
def State.startHarts (s : State) (p : Posted) (k : Ready) (number : Nat) : Nat → List Nat → State
  | _, [] => s
  | rank, h :: hs =>
    (s.place h ⟨k.r.asid, k.entry, p.prio, number, rank, k.r.entry,
      [k.r.arg, word rank, coordinates (indices k.levels rank), word p.recPa]⟩ .system).startHarts p k number (rank + 1) hs

/-- A launch is placed: its number, its crew, its harts (11 R243, R244; 19 R380). -/
def State.placeLaunch (s : State) (p : Posted) (k : Ready) (slots : List Nat) : State :=
  let number := s.launches + 1
  let cr : Crew := ⟨number, p.recPa, word p.recPa, k.r.asid, p.prio, k.r.size, k.r.size, 0, k.r.cword, k.r.panel, none, some p.queue, false,
    k.entry.ptbase⟩
  let s := s.launchLanes slots
  let s := { s with launches := number, crews := s.crews ++ [cr], posted := s.posted.erase p }
  s.startHarts p k number 0 slots

/-- A launch ends without a hart (11 R242): its completion word receives done and the status; where the word cannot be written, or the record does not
say which it is, the log receives it. -/
def State.endUnstarted (s : State) (p : Posted) (status : Nat) : State :=
  let s := { s with posted := s.posted.erase p }
  let r := Record.of p.dwords
  match s.asidEntry r.asid with
  | some e =>
    if p.unread.contains 4 || p.unread.contains 5 then s.record 0 9 false 0 r.cword r.asid 0 0
    else s.finishLaunch r.asid e.ptbase r.cword (some p.queue) status
  | none => s.record 0 9 false 0 r.cword r.asid 0 0

/-! ### The order (11 R265) -/

/-- The steps a launch has aged by now. -/
def Posted.ageNow (p : Posted) (clk : Nat) : Posted := { p with aged := (clk - p.posted) / 4096 }

/-- Effective priority (11 R265). -/
def Posted.effective (p : Posted) : Nat := min 7 (p.prio + p.aged)

/-- Does launch `p` stand before launch `q`, taken earlier, in the order of 11 R265? -/
def Posted.before (p q : Posted) : Bool := q.effective < p.effective || (q.effective = p.effective && p.posted < q.posted)

/-- A posted launch put in its place. -/
def insertPosted (p : Posted) : List Posted → List Posted
  | [] => [p]
  | q :: qs => if p.before q then p :: q :: qs else q :: insertPosted p qs

/-- The order of the posted launches (11 R265). -/
def launchOrder (ps : List Posted) : List Posted := ps.foldl (fun acc p => insertPosted p acc) []

/-- The launcher goes down its order to the first launch it can act on (11 R242, R265): a refusal, a failed dependence, a placement; the first whose
dependences are met and that has no room holds back every one behind it. -/
def State.placeFirst (s : State) : List Posted → State
  | [] => s
  | p :: ps =>
    match s.checkLaunch p with
    | none => s.endUnstarted p 4
    | some k =>
      match s.deps k with
      | .failed => s.endUnstarted p 3
      | .waits => s.placeFirst ps
      | .met =>
        match s.launchSlots k with
        | some slots => s.placeLaunch p k slots
        | none => s

/-- The addresses of the loop-table dwords that the launcher reads (11 R240): up to the one that ends the table or that it refuses. -/
def State.loopReads (s : State) (c : Ctx) (va : Word) : Nat → List Word
  | 0 => []
  | n + 1 =>
    va :: (match s.loadMem c .system va 8 with
      | .ok w => if w / 2 ^ 34 ≠ 0 ∨ w / 2 ^ 32 = 3 then [] else s.loopReads c (va + 8) n
      | .error _ => [])

/-- The requests of the reads of a torus table (13 R281; 23 R430). -/
def State.torusRequests (s : State) (routemap : Word) : State :=
  if bitSet routemap 63 then s.tableRequests (bits routemap 12 40 * 4096) (2 * ((bits routemap 6 6 + 1) * (bits routemap 0 6 + 1))) else s

/-- The requests that the launcher's reads for a posted launch make of the HBM channels (13 R281): its ASID entry, the words it depends on, its loop
table, the core map and the torus table. -/
def State.launchRequests (s : State) (p : Posted) : State :=
  let r := Record.of p.dwords
  let t := s.asidRequest r.asid
  match s.asidEntry r.asid with
  | some e =>
    let c := launchCtx r.asid e.ptbase
    let t := (t.requestAll c .load (([r.dep0, r.dep1].filter (· ≠ 0) ++ s.loopReads c r.ltab 4).map (·, 8))).mapRequests e.coremap
    if r.torus then t.torusRequests e.routemap else t
  | none => t

/-- LAUNCH_PLACE (11 R243, R265): once every posted record is in the order. -/
def execLaunchPlace (s : State) : Result :=
  if s.admitted 0 && !s.recordsWait then
    let s := { s with posted := s.posted.map (fun (p : Posted) => p.ageNow s.clk) }
    .next ((launchOrder s.posted).foldl State.launchRequests (s.placeFirst (launchOrder s.posted)))
  else .next s

/-- LAUNCH_AGING (11 R265): what a posted launch has waited raises its effective priority. -/
def execLaunchAging (index : Nat) (s : State) : Result :=
  .next { s with posted := (List.range s.posted.length).filterMap (fun i =>
    (s.posted[i]?).map (fun (p : Posted) => if i = index then p.ageNow s.clk else p)) }

end Sys2Proof.Machine
end

