-- ==== Sys2Proof/Machine/Dies.lean ====
section
/-! DEFINITION. The package around its harts: power and throttling (11 R248; 24 R436), channel lending (13 R281; 19 R386), bring-up, admission and
link keys (22 R407 to R413), wait cycles (19 R385), package reset (24 R438) and freeze (20 R401). -/

namespace Sys2Proof.Machine

/-! ### Power (24 R436) -/

/-- pwrcap with gl and gq changed. -/
def setCeilings (w : Word) (gl gq : Nat) : Word := withBits (withBits w 27 4 gl) 31 7 gq

/-- A hart after its core's gl or gq has been lowered at `clk`: only one that holds the grant concerned, and only the first lowering since its
last grant point, counts (11 R248). -/
def Hart.lowered (h : Hart) (gl gq : Bool) (clk : Nat) : Hart :=
  { h with
    loweredGl := if gl && h.loweredGl.isNone && decide (h.run ≠ .empty) && decide (h.held ≠ 0) then some clk else h.loweredGl
    loweredGq := if gq && h.loweredGq.isNone && decide (h.run ≠ .empty) && bits h.mgrant 0 7 ≠ 0 then some clk else h.loweredGq }

/-- One step down on a core (24 R436): gl by 1 and gq by 8, to floors of 1 and 8. -/
def State.lowerCore (s : State) (c : Nat) : State :=
  let w := (s.coreAt c).pwrcap
  let gl := bits w 27 4
  let gq := bits w 31 7
  let gl' := max 1 (gl - 1)
  let gq' := max 8 (gq - 8)
  let s := s.modCore c (fun k => { k with pwrcap := setCeilings k.pwrcap gl' gq' })
  [2 * c, 2 * c + 1].foldl (fun s h => s.modHart h (fun x => x.lowered (gl' < gl) (gq' < gq) s.clk)) s

/-- One step up on a core (24 R436). -/
def State.raiseCore (s : State) (c : Nat) : State :=
  s.modCore c (fun k => { k with pwrcap := setCeilings k.pwrcap (min 8 (bits k.pwrcap 27 4 + 1)) (min 64 (bits k.pwrcap 31 7 + 8)) })

/-- The cores of a die. -/
def coresOf (d : Nat) : List Nat := (List.range 192).map (fun i => 256 * d + i)

/-- The manager after a sample, `amps` and `watts` its readings (24 R436). -/
def PowerManager.sample (p : PowerManager) (amps watts clk : Nat) : PowerManager :=
  let since := if 8000 < amps then some (p.overSince.getD clk) else none
  let on := match since with | some t => t + 24576 ≤ clk | none => false
  { p with
    lastSample := clk
    overSince := since
    calmSince := if amps < 7200 ∧ watts < 4050 then p.calmSince else clk
    throttle := if p.throttle then !(amps < 6400 && watts < 4500) else on }

/-- The admitted C-dies. -/
def State.admittedDies (s : State) : List Nat := (List.range 8).filter s.admitted

/-- The core current of a sample (24 R436): a throttled package draws at most 6,000 A. -/
def State.ampsNow (s : State) : Nat := if s.power.throttle then min 6000 (Config.coreAmps s.tick) else Config.coreAmps s.tick

/-- Is the core above the floors of gl and gq (24 R436)? -/
def State.canLower (s : State) (c : Nat) : Bool := 1 < bits (s.coreAt c).pwrcap 27 4 || 8 < bits (s.coreAt c).pwrcap 31 7

/-- Is the core below the ceilings of gl and gq (24 R436)? -/
def State.canRaise (s : State) (c : Nat) : Bool := bits (s.coreAt c).pwrcap 27 4 < 8 || bits (s.coreAt c).pwrcap 31 7 < 64

/-- POWER_SAMPLE (24 R436): at least 1,024 clk after the last one; a die that is not in service keeps its reset values (22 R416). Where no core can go
down or up there is no step. -/
def execPowerSample (s : State) : Result :=
  if s.clk < s.power.lastSample + 1024 then .next s
  else
    let amps := s.ampsNow
    let watts := Config.packageWatts s.tick
    let s := { s with power := s.power.sample amps watts s.clk }
    let apart : Bool := match s.power.lastStep with | some t => t + 4096 ≤ s.clk | none => true
    let hot := ((s.admittedDies).filter (· = Config.hottestDie s.tick % 8)).flatMap coresOf
    let all := s.admittedDies.flatMap coresOf
    if (8000 < amps ∨ 4500 < watts) ∧ apart ∧ hot.any s.canLower then
      let s := hot.foldl State.lowerCore s
      .next { s with power := { s.power with lastStep := some s.clk } }
    else if s.power.calmSince + 2 ^ 20 ≤ s.clk ∧ apart ∧ all.any s.canRaise then
      let s := all.foldl State.raiseCore s
      .next { s with power := { s.power with lastStep := some s.clk, calmSince := s.clk } }
    else .next s

/-- GRANT_THROTTLE_ONSET (11 R248): a hart that has reached no grant point by clk t + 16,384 is throttled. -/
def execGrantThrottleOnset (hart : Nat) (s : State) : Result :=
  let due (t : Option Nat) : Bool := match t with | some t => t + 16384 < s.clk | none => false
  if isHart hart then
    .next (s.modHart hart (fun h => { h with throttledV := h.throttledV || due h.loweredGl, throttledM := h.throttledM || due h.loweredGq }))
  else .next s

/-! ### Lending (13 R281; 19 R386; 24 R439, A1-E02) -/

/-- Is lending enabled on the pair's stack (13 R281)? -/
def State.lendOn (s : State) (d p : Nat) : Bool := s.admitted d && d < 8 && p < 32 && bitSet (s.dieAt d).hbmctl (p / 16)

/-- The clk at which the deadline-bearing saves under way on a stack were issued: those of waiting harts whose image has a line there (19 R386). -/
def State.savesOn (s : State) (stack : Nat) : List Nat :=
  let one (p : Nat × Hart) : Option Nat :=
    let (h, x) := p
    match x.run with
    | .waiting (.ctxsave _ a b since) =>
      if x.reg b ≠ 0 ∧ (List.range 1296).any (fun i =>
          match s.target (ctxAt h (.hart h) x.level x.asid x.ptbase) .store (x.reg a + word (64 * i)) 64 with
          | .ok (.mem pa _) => decide (pa < Config.hbmBytes) && hbmStack pa = stack
          | _ => false) then
        some (since + x.cycleBase).toNat
      else none
    | _ => none
  ((s.cur, s.hart) :: s.others).filterMap one

/-- Is a deadline-bearing save under way on a stack (19 R386)? -/
def State.saveOn (s : State) (stack : Nat) : Bool := !(s.savesOn stack).isEmpty

/-- May a pair that has watched since `t` drain during the saves under way on its stack? Only where erratum A1-E02 lets it: it watched when each was
issued (19 R386; 24 R439). -/
def State.drainAllowed (s : State) (stack t : Nat) : Bool := (s.savesOn stack).all (fun issued => t ≤ issued && Config.choice s.tick)

/-- LEND_WATCH (13 R281): a channel has had no request; a pair that already watches begins again after a request to it. -/
def execLendWatch (die pair : Nat) (channel : Bool) (s : State) : Result :=
  let p := s.pair die pair
  if s.lendOn die pair ∧ (p.st = .own ∨ p.st = .watch) then .next (s.setPair die pair ⟨.watch, channel, s.clk, false⟩) else .next s

/-- LEND_DRAIN_START (13 R281): after 4,096 idle clk while the neighbour has had requests; during a deadline-bearing save only under
erratum A1-E02. -/
def execLendDrainStart (die pair : Nat) (s : State) : Result :=
  let p := s.pair die pair
  if s.lendOn die pair ∧ p.st = .watch ∧ p.since + 4096 ≤ s.clk ∧ p.queued ∧ s.drainAllowed (2 * die + pair / 16) p.since then
    .next (s.setPair die pair { p with st := .drain, since := s.clk })
  else .next s

/-- LEND_DRAIN_DONE (13 R281). -/
def execLendDrainDone (die pair : Nat) (s : State) : Result :=
  let p := s.pair die pair
  if p.st = .drain then .next (s.setPair die pair { p with st := .retrain }) else .next s

/-- LEND_RETRAIN_DONE (13 R281): a pair that cannot train as one channel goes back to OWN (22 R417). -/
def execLendRetrainDone (die pair : Nat) (s : State) : Result :=
  let p := s.pair die pair
  if p.st = .retrain then
    .next (s.setPair die pair (if (s.dieAt die).noPair.toNat.testBit pair then LendPair.reset else { p with st := .lent, since := s.clk }))
  else .next s

/-- LEND_RECLAIM_START (13 R281; 19 R386): the borrower has had no request for 4,096 clk, or lending is disabled. -/
def execLendReclaimStart (die pair : Nat) (s : State) : Result :=
  let p := s.pair die pair
  if p.st = .lent ∧ (p.since + 4096 ≤ s.clk ∨ s.lendOn die pair = false) ∧ s.saveOn (2 * die + pair / 16) = false then
    .next (s.setPair die pair { p with st := .reclaim, since := s.clk })
  else .next s

/-- LEND_RECLAIM_DONE (13 R281). -/
def execLendReclaimDone (die pair : Nat) (s : State) : Result :=
  let p := s.pair die pair
  if p.st = .reclaim then .next (s.setPair die pair { p with st := .own, since := s.clk }) else .next s

/-! ### Bring-up (22 R407 to R410) -/

/-- POWER_GOOD (22 R407): the root verifies its firmware and every die that has power boots (22 R412); a die that has left service boots again (22
R415). Where the firmware fails, the package stays in reset. -/
def execPowerGood (firmwareOk : Bool) (s : State) : Result :=
  if s.powered then
    .next ((List.range 12).foldl (fun s d => if (s.dieAt d).st = 7 then s.setDieState d 1 else s) s)
  else if s.held then .next s
  else if firmwareOk then
    .next ((List.range 12).foldl (fun s d => if Config.noPower d then s else s.setDieState d 1) { s with powered := true })
  else .next { s with held := true }

/-- Does a die answer an SPDM message otherwise than with ERROR (22 R408)? -/
def spdmKnown : SpdmMessage → Bool
  | .getVersion => true | .getCapabilities => true | .negotiateAlgorithms => true | .getDigests => true
  | .getCertificate n => n = 0
  | .challenge => true | .getMeasurements => true | .vendorDefinedRequest => true | .other => false

/-- SPDM_REQUEST (22 R408): a booted die answers the root, and with ERROR what it does not know; the first answer is step 4 of 22 R407, and
NEGOTIATE_ALGORITHMS settles the algorithms. A VENDOR_DEFINED_REQUEST that establishes keys is LINK_KEY_ESTABLISH. -/
def execSpdmRequest (die : Nat) (message : SpdmMessage) (s : State) : Result :=
  let st := (s.dieAt die).st
  if 12 ≤ die ∨ st = 0 ∨ st = 7 then .next s
  else if spdmKnown message then
    let s := if st = 1 then s.setDieState die 2 else s
    let s := if message = .negotiateAlgorithms then s.modDie die (fun x => { x with algs := some (.slhDsaShake256s, .shake256) }) else s
    .next { s with hostOut := s.hostOut ++ [.spdm die true] }
  else .next { s with hostOut := s.hostOut ++ [.spdm die false] }

/-- Does the die take part in key establishment (22 R407, R410): in states 3 to 5? -/
def State.keysReady (s : State) (d : Nat) : Bool := 3 ≤ (s.dieAt d).st && (s.dieAt d).st ≤ 5

/-- Is the die under power and not refused: in states 1 to 5 (22 R412)? -/
def State.dieAlive (s : State) (d : Nat) : Bool := 1 ≤ (s.dieAt d).st && (s.dieAt d).st ≤ 5

/-- The numbers of a die's links. -/
def linksOf (d : Nat) : List Nat := (List.range 8).filter (fun k => (Config.linkEnd d k).isSome)

/-- Has each of the die's links its keys (22 R407, step 5)? A link to a die that is off or refused has none to establish. -/
def State.allKeyed (s : State) (d : Nat) : Bool :=
  (linksOf d).any (fun k => (s.link d k).keyed) && (linksOf d).all (fun k => (s.link d k).keyed || !s.dieAlive (linkPeer d k))

/-- Is there no die left to establish keys with, nor a link of the die that has them (22 R407, R412)? -/
def State.stranded (s : State) (d : Nat) : Bool := (linksOf d).all (fun k => !(s.link d k).keyed && !s.dieAlive (linkPeer d k))

/-- A die that establishes its link keys: it goes on to training once all have theirs (22 R407); where none can have any it returns to reset and is
held there (22 R412). -/
def State.advanceDie (s : State) (d : Nat) : State :=
  if (s.dieAt d).st = 3 then (if s.allKeyed d then s.setDieState d 4 else if s.stranded d then s.setDieState d 0 else s) else s

/-- The dies that establish their link keys go on, or are held (22 R407, R412), until nothing changes. -/
def State.advanceKeyed (s : State) : State := (List.range 144).foldl (fun s i => s.advanceDie (i % 12)) s

/-- The root returns a die whose bring-up cannot go on to reset and holds it there (22 R412). -/
def State.holdDie (s : State) (d : Nat) : State := ((s.setDieState d 0).cutLinks d).advanceKeyed

/-- DIE_ADMISSION_CHECK (22 R409): the die goes on to its link keys, or is refused and logged with kind 11. -/
def execDieAdmissionCheck (die : Nat) (chainOk challengeOk measurementOk : Bool) (s : State) : Result :=
  if 12 ≤ die ∨ (s.dieAt die).st ≠ 2 then .next s
  else if chainOk && challengeOk && measurementOk then .next (s.setDieState die 3)
  else .next ((s.setDieState die 6).record 0 11 false die 0 0 0 0).advanceKeyed

/-- A direction of the link between dies `lo` and `hi` with its keys for `n` rollovers of `secret` (22 R410). -/
def freshWay (lo hi secret n : Nat) (up : Bool) : LinkWay :=
  let a := (Config.dieIdentifier lo).toNat
  let b := (Config.dieIdentifier hi).toNat
  ⟨n, Config.linkKey secret a b n up, Config.linkSalt secret a b n up % 2 ^ 32, 0, .none, false⟩

/-- A link between two dies whose keys come from a fresh shared secret (22 R410). -/
def freshLink (d e secret : Nat) : Link :=
  { Link.down with
    keyed := true, secret := secret, lo := freshWay (min d e) (max d e) secret 0 true, hi := freshWay (min d e) (max d e) secret 0 false }

/-- Link `k` of die `d` replaced. -/
def State.setLink (s : State) (d k : Nat) (l : Link) : State := { s with links := Tab.put Link.down s.links (linkId d k) l }

/-- LINK_KEY_ESTABLISH (22 R410), carried in VENDOR_DEFINED_REQUEST messages: both ends of a link take the shared secret; a signature that does not
verify ends the bring-up of the die in question (22 R412). -/
def execLinkKeyEstablish (die link : Nat) (secret : Nat) (signed : Bool) (s : State) : Result :=
  let peer := linkPeer die link
  if die < 12 ∧ peer ≠ die ∧ s.keysReady die ∧ s.keysReady peer ∧ (s.link die link).keyed = false then
    if signed then .next (s.setLink die link (freshLink die peer secret)).advanceKeyed
    else .next (s.holdDie (if (s.dieAt die).st = 5 then peer else die))
  else .next s

/-- A link with data on it: `half` says that it trained at half width (22 R417). -/
def Link.raise (half : Bool) (l : Link) : Link := if l.keyed && !l.up then { l with up := true, half := half } else l

/-- The keyed links of an admitted die to other admitted dies carry data (22 R407); bit k of `half` says that link k trained at half width. -/
def State.raiseLinks (s : State) (d half : Nat) : State :=
  { s with
    links := ((linksOf d).filter (fun k => s.admitted (linkPeer d k))).foldl
      (fun t k => Tab.modify Link.down t (linkId d k) (Link.raise (half.testBit k))) s.links }

/-- The harts of an admitted die, every register at its reset value (22 R416; 24 R438): a slot that single-die reset has emptied stays empty, the
others start. -/
def State.startDie (s : State) (d : Nat) : State :=
  if d < 8 then
    let idle := (hartsOfDie d).filter (fun h => decide ((s.hartAt h).run = .empty))
    let s := s.resetUnits d
    ((hartsOfDie d).filter (fun h => !idle.contains h)).foldl (fun s h => s.setHart h { Hart.reset (h % 2) with cycleBase := word s.clk, stay := newStay h s.tick }) s
  else s

/-- The host ports train once their die is admitted (23 R418); messages that waited for one go out (23 R425). -/
def State.trainPorts (s : State) : State :=
  (List.range 64).foldl State.sendPending { s with keys := { s.keys with trained := Tab.put 0 (Tab.put 0 s.keys.trained 0 1) 1 1 } }

/-- DIE_TRAINING_COMPLETE (22 R407, R416, R417): the die is admitted; or its bring-up cannot go on, its training or an earlier step failing, and the
root returns it to reset and holds it there (22 R412). -/
def execDieTrainingComplete (die : Nat) (result : Training) (s : State) : Result :=
  let st := (s.dieAt die).st
  if 12 ≤ die ∨ st = 0 ∨ 4 < st ∨ (result.trained ∧ st ≠ 4) then .next s
  else if result.trained = false then .next (s.holdDie die)
  else
    let s := (s.startDie die).modDie die (fun x => { x with noPair := BitVec.ofNat 32 result.noPair })
    let s := (s.setDieState die 5).raiseLinks die result.half
    .next (if die = 8 then s.trainPorts else s)

/-! ### Links in service (22 R410, R411) -/

/-- Can the receiver decrypt a flit whose bit is `kb` (22 R411): under the current key, or the old one while it is kept? -/
def LinkWay.takes (w : LinkWay) (kb : Bool) : Bool :=
  decide (kb = decide (w.n % 2 = 1)) || (match w.old with | .none => false | .kept => true | .left m => m ≠ 0)

/-- Is the flit the first, or a later one, under the current key (22 R411)? -/
def LinkWay.current (w : LinkWay) (kb : Bool) : Bool := decide (kb = decide (w.n % 2 = 1))

/-- May the transmitter send another flit under the key it uses: fewer than 2^32 + 256 in all (22 R411)? -/
def LinkWay.open_ (w : LinkWay) : Bool := w.flits + 1 < 2 ^ 32 + 256

/-- A direction after a good flit (22 R411). -/
def LinkWay.flit (w : LinkWay) (kb : Bool) : LinkWay :=
  match w.old with
  | .none => { w with flits := w.flits + 1, due := w.due || 2 ^ 32 ≤ w.flits + 1 }
  | .kept => if w.current kb then { w with flits := 1, old := .left 256 } else { w with flits := w.flits + 1 }
  | .left m =>
    let n := if w.current kb then w.flits + 1 else w.flits
    { w with flits := n, old := .left (m - 1), due := w.due || 2 ^ 32 ≤ n }

/-- A link with its direction from die `d` to die `e` changed. -/
def Link.modWay (l : Link) (d e : Nat) (f : LinkWay → LinkWay) : Link := if d < e then { l with lo := f l.lo } else { l with hi := f l.hi }

/-- A link error of link `k` of die `d` (20 R387; 22 R410): one site, counted on its die of lower index; when it becomes lasting
the die of higher index leaves service. -/
def State.linkError (s : State) (d k : Nat) : State :=
  let low := linkId d k / 8
  let key := linkKeyOf d k
  let s' := s.correctedError low key
  if s.becomesLasting low key then s'.leaveService (max d (linkPeer d k)) else s'

/-- May the transmitter have sent this flit: one more under the key it uses, or the first under the new one (22 R411)? -/
def LinkWay.sendable (w : LinkWay) (kb : Bool) : Bool := w.open_ || (decide (w.old = .kept) && w.current kb)

/-- FLIT_RECEIVE (22 R410, R411): die `die` receives a flit; one whose tag fails is discarded and counts as a link error. -/
def execFlitReceive (die link : Nat) (keyBit : Bool) (tagOk : Bool) (s : State) : Result :=
  let l := s.link die link
  let e := linkPeer die link
  let w := l.way e die
  if s.admitted die ∧ l.up ∧ w.sendable keyBit then
    if tagOk ∧ w.takes keyBit then .next (s.setLink die link (l.modWay e die (fun w => w.flit keyBit)))
    else .next (s.linkError die link)
  else .next s

/-- LINK_KEY_ROLLOVER (22 R411): die `die` rolls the key it transmits under; one that falls due while an old key is kept waits. -/
def execLinkKeyRollover (die link : Nat) (s : State) : Result :=
  let l := s.link die link
  let e := linkPeer die link
  let w := l.way die e
  if s.admitted die ∧ l.up ∧ w.due ∧ w.old = .none then
    .next (s.setLink die link (l.modWay die e (fun w =>
      { freshWay (min die e) (max die e) l.secret (w.n + 1) (die < e) with flits := w.flits, old := .kept })))
  else .next s

/-- LINK_OLD_KEY_RETIRE (22 R411): die `die`, which receives, retires the old key 256 flits after the first under the new one; the rollover is
complete. -/
def execLinkOldKeyRetire (die link : Nat) (s : State) : Result :=
  let l := s.link die link
  let e := linkPeer die link
  if (l.way e die).old = .left 0 then
    .next (s.setLink die link { l.modWay e die (fun w => { w with old := .none }) with rolls := l.rolls + 1 })
  else .next s

/-- DIECTL_RESET_DIE (22 R413). -/
def execDiectlResetDie (die : Nat) (s : State) : Result := .next (s.resetDie die)

/-- DIECTL_ROLL_KEYS (22 R413). -/
def execDiectlRollKeys (die : Nat) (s : State) : Result := .next (s.rollKeys die)

/-! ### Wait cycles (19 R385) -/

/-- Is slot `h` empty or waiting in RECV? -/
def State.idleOrRecv (s : State) (h : Nat) : Bool := decide ((s.hartAt h).run = .empty) || (s.hartAt h).run.recvSince.isSome

/-- Is a core stalled (19 R385)? -/
def State.stalled (s : State) (c : Nat) : Bool :=
  s.idleOrRecv (2 * c) && s.idleOrRecv (2 * c + 1) && (s.coreAt c).inbound.isEmpty
    && ((s.hartAt (2 * c)).run.recvSince.isSome || (s.hartAt (2 * c + 1)).run.recvSince.isSome)

/-- The lowest waiting slot of a stalled core. -/
def State.waitingSlot (s : State) (c : Nat) : Nat := if (s.hartAt (2 * c)).run.recvSince.isSome then 2 * c else 2 * c + 1

/-- The target of a stalled core on die `d` (19 R385). -/
def State.recvTarget (s : State) (d c : Nat) : Option Nat :=
  if s.stalled c then ((s.hartAt (s.waitingSlot c)).lastSend).filter (fun t => dieOfCore t = d) else none

/-- The walk from core `c`, `n` cores at most, back to `start`: the cores of the cycle in walk order (19 R385). -/
def State.recvWalk (s : State) (d start : Nat) : Nat → Nat → Option (List Nat)
  | 0, _ => none
  | n + 1, c =>
    match s.recvTarget d c with
    | none => none
    | some t => if t = start then some [c] else (s.recvWalk d start n t).map (fun l => c :: l)

/-- The first wait cycle of a die, by its lowest core (19 R385). -/
def State.waitCycle (s : State) (d : Nat) : Option (List Nat) := (coresOf d).findSome? (fun c => s.recvWalk d c 16 c)

/-- The dwords of the cycle record (19 R385). -/
def cycleDwords (cs : List Nat) : Tab Word :=
  let half (i : Nat) : Nat := cs.getD i 0 % 256
  ((List.range 5).map (fun k => (k, if k = 0 then word cs.length
    else word ((List.range 4).map (fun i => half (4 * (k - 1) + i) * 2 ^ (16 * i))).sum))).filter (fun p => p.2 ≠ 0)

/-- WAIT_CYCLE_DETECT (19 R385): every 4,096 clk, while the cycle record is free. -/
def execWaitCycleDetect (die : Nat) (s : State) : Result :=
  if 8 ≤ die ∨ s.admitted die = false ∨ s.clk < (s.dieAt die).detectAt + 4096 then .next s
  else
    let s := s.modDie die (fun x => { x with detectAt := s.clk })
    if bits (Tab.get 0 (s.dieAt die).cycleRecord 0) 0 8 ≠ 0 then .next s
    else
      match s.waitCycle die with
      | none => .next s
      | some cs =>
        let s := s.modDie die (fun x => { x with cycleRecord := cycleDwords cs })
        .next (s.modHart (s.waitingSlot (cs.getD 0 0)) (fun h => h.resume.trap ⟨36, word (mmioBase die + 0x03000000)⟩))

/-! ### Reset and freeze -/

/-- Does a cell lie in a boot ROM, whose content is fixed (13 R277)? -/
def inRom (pa : Nat) : Bool := match mmioOf pa with | some (_, off) => off < 0x100000 | none => false

/-- The points at which a byte outlasts a package reset (14 R294; 24 R438): .durable in the second tier and in Type-3 memory; host memory and other
packages are outside. None where it does not: the boot ROM is apart. -/
def State.survivesAt (s : State) (pa : Nat) : Option (List Point) :=
  if 0x040000000000 ≤ pa ∧ pa < 0x080000000000 then some [.durable]
  else if inCxlRange pa then
    match s.decoderOf pa with
    | some i => some (if s.decoderKind pa = 0 then [.durable] else if s.splitAt pa then [.hostPt (bits (s.decoder i 0) 56 1)] else [.system])
    | none => some [.durable]
  else if 0x100000000000 ≤ pa then some [.pod]
  else none

/-- Byte `pa` as it stands after a package reset. -/
def State.surviving (s : State) (pa : Nat) : Byte :=
  match s.survivesAt pa with
  | some pts => viewFrom (fun p => p.atAny pts) pa (s.latest pa) s.pend
  | none => if inRom pa then s.latest pa else Config.unwritten

/-- Memory after a package reset: what has reached those points, and the boot ROMs. -/
def State.survivingMem (s : State) : List Host.Cell :=
  putWritten s.surviving s.pend (s.mem.filter (fun c => inRom c.1 || (s.survivesAt c.1).isSome))

/-- PACKAGE_RESET (24 R438): the state of package reset; what outlasts it in memory, clk and what the outside has been given remain. -/
def execPackageReset (s : State) : Result :=
  .next { State.reset with
    mem := s.survivingMem, poison := s.poison.filter (fun k => (s.survivesAt (32 * k)).isSome), clk := s.clk, tick := s.tick
    hostOut := s.hostOut, agenda := s.agenda }

/-- A direction without its key (20 R401). -/
def LinkWay.cleared (w : LinkWay) : LinkWay := { w with key := 0, salt := 0 }

/-- A link without its keys (20 R401). -/
def Link.cleared (l : Link) : Link := { l with secret := 0, lo := l.lo.cleared, hi := l.hi.cleared }

/-- FREEZE (20 R401): nothing acts any more until package reset; link keys, secrets and the root of trust's state are cleared. -/
def execFreeze (s : State) : Result :=
  .next { s with
    frozen := true
    keys := { s.keys with ide := [], session := [], ualink := [] }
    links := Tab.mapVals Link.down s.links Link.cleared
    dies := Tab.mapVals Die.reset s.dies (fun d => { d with algs := none }) }

end Sys2Proof.Machine
end

