-- ==== Sys2Proof/Machine/Lanes.lean ====
section
/-! DEFINITION. The checking lane, the sparing and the retirement of lanes (20 R389 to R394). Lane number 8 is the checking lane. -/

namespace Sys2Proof.Machine

/-! ### Stop boundaries (19 R369) -/

/-- The asynchronous stop boundaries `bs` pass, in order (19 R369): the one for which this turn ends, if it is one of them. What others do before the
hart's next turn may be an interrupt for it, at which it stops there. -/
def State.stopAt (s : State) (bs : List Nat) : State × Option Nat :=
  match s.hart.stopIn with
  | none => (s, none)
  | some n =>
    if n < bs.length then (s.withHart (fun h => { h with stopIn := none }), bs[n]?)
    else (s.withHart (fun h => { h with stopIn := some (n - bs.length) }), none)

/-! ### Sparing -/

/-- The site number of a lane of core `c` in its die (20 R398). -/
def laneSite (c lane : Nat) : Nat := c % 256 * 16 + lane

/-- The site key of a lane. -/
def laneKey (c lane : Nat) : Nat := siteKey .lane (laneSite c lane)

/-- The hart that holds a working lane of core `c`. -/
def State.laneHolder (s : State) (c lane : Nat) : Option Nat := [2 * c, 2 * c + 1].find? (fun h => (s.hartAt h).held.toNat.testBit lane)

/-- The spare stands in a lane's place from now on, without a history (20 R388, R393). -/
def State.putSpare (s : State) (c lane : Nat) : State :=
  (s.modCore c (fun k => { k with spareUsed := true, slane := lane, sparing := none })).modDie (dieOfCore c) (fun d =>
    { d with lasting := d.lasting.erase (laneKey c lane), sites := Tab.put [] d.sites (laneKey c lane) [] })

/-- The sequencer acts on a lane declared lasting (20 R393, R394): it retires it where the spare is in use for another, replaces it at once where no
hart holds it, or, at a point of its hart at which 19 R369 would allow a stop, pauses that hart; one that waits does not go on until the copy is
done. -/
def State.spareLane (s : State) (c lane : Nat) : State :=
  let k := s.coreAt c
  if !(s.dieAt (dieOfCore c)).lasting.contains (laneKey c lane) || 8 < lane || k.sparing = some lane then s
  else if k.spareUsed || k.sparing.isSome then
    if (lane = 8 && k.checkRetired) || k.laneRetired.toNat.testBit lane then s
    else
      (s.modCore c (fun k =>
        if lane = 8 then { k with checkRetired := true } else { k with laneRetired := k.laneRetired ||| BitVec.ofNat 8 (2 ^ lane) })).record
        (dieOfCore c) 2 true (laneSite c lane) 0 0 0 0
  else
    let noted := s.record (dieOfCore c) 2 true (laneSite c lane) 0 0 0 0
    match if lane = 8 then none else s.laneHolder c lane with
    | none => noted.putSpare c lane
    | some h =>
      if (s.hartAt h).run.stopPoint then
        (noted.modCore c (fun k => { k with sparing := some lane })).modHart h (fun x => { x with run := if x.run = .running then .paused else x.run })
      else s

/-- The sequencer looks at a lane of core `c` (20 R393, R394): it acts on one declared lasting where the spare is in use, no hart holds the lane, or
its holder is the current hart. -/
def State.tendLane (s : State) (c lane : Nat) : State :=
  if (s.coreAt c).spareUsed || (s.coreAt c).sparing.isSome || lane = 8 then s.spareLane c lane
  else
    match s.laneHolder c lane with
    | none => s.spareLane c lane
    | some h => if h = s.cur then s.spareLane c lane else s

/-- The sequencer looks at the lanes of core `c`. -/
def State.tendLanes (s : State) (c : Nat) : State :=
  if (s.dieAt (dieOfCore c)).lasting.isEmpty then s else (List.range 9).foldl (fun s lane => s.tendLane c lane) s

/-- Is a lane that slot `h` holds being copied to the spare (20 R393)? -/
def State.copiesLane (s : State) (h : Nat) : Bool :=
  match (s.coreAt (coreOf h)).sparing with
  | some lane => (s.hartAt h).held.toNat.testBit lane
  | none => false

/-- LANE_SPARE (20 R393): the sequencer acts on a lasting lane. -/
def execLaneSpare (core lane : Nat) (s : State) : Result := .next (s.spareLane core lane)

/-- The granted lane of chunk `c` as a physical lane (05 R100, R103). -/
def Hart.physLane (h : Hart) (c : Nat) : Nat := ((List.range 8).filter (fun i => h.held.toNat.testBit i)).getD (c % max h.g 1) 8

/-- Poison for every element with bits in the words of a lane that SECDED could not correct, which the device decides (20 R393). -/
def Hart.poisonLane (h : Hart) (lane : Nat) (bad : Nat → Bool) : Hart :=
  let chunks := h.maxvl * h.vwidth / 64
  let words := (List.range 64).flatMap (fun r => ((List.range chunks).filter (fun c => h.physLane c = lane && bad (4096 * r + c))).map (fun c => (r, c)))
  words.foldl (fun h p =>
    let n := 64 / tagBits (h.tagOf p.1)
    { h with
      vpois := Tab.modify 0 h.vpois p.1 (fun x => putBits x (n * p.2) n (2 ^ n - 1))
      vpoison := withBits h.vpoison 63 1 1 }) h

/-- LANE_SPARE_COMPLETE (20 R393): the slice is copied, the spare takes the lane's place, and the hart goes on. -/
def execLaneSpareComplete (core : Nat) (s : State) : Result :=
  match (s.coreAt core).sparing with
  | none => .next s
  | some lane =>
    match s.laneHolder core lane with
    | none => .next (s.putSpare core lane)
    | some h =>
      .next ((s.putSpare core lane).modHart h (fun x =>
        { (x.poisonLane lane (fun i => Config.choice (s.tick * 2 ^ 20 + i))).setVtype 18 1 1 with
          run := if x.run = .paused then .running else x.run }))

/-! ### Checked words (20 R389 to R391) -/

/-- The checked words: arithmetic, data motion and reductions (20 R389). -/
def isChecked (i : Instr) : Bool :=
  match blockParts i with
  | some (vop, _) => (0x10 ≤ vop.toNat && vop.toNat ≤ 0x31) || (0x40 ≤ vop.toNat && vop.toNat ≤ 0x55)
  | none => false

/-- The storage width the groups of a word are counted at (05 R116): the widest among its vector operands and its result. -/
def Prep.width (p : Prep) : Nat :=
  match blockShape p.i with
  | some sh =>
    let w (o : Opnd) (t : Nat) : Nat := if o = .vec then tagBits t else 0
    let own := max (max (w sh.vd p.rt) (w sh.vs1 p.t1)) (max (w sh.vs2 p.t2) (w sh.vs3 p.t3))
    if own = 0 then 8 else own
  | none => 8

/-- A mismatch at serial `e` strikes a checked word (20 R389, R390): where the lane under check is granted to the hart, an element of the chunk of
`e` is active, and the checking lane is in service. The word stops at the lowest serial of that chunk that it has not completed. -/
def Prep.strike (p : Prep) (core : Core) (h : Hart) (e : Nat) : Option (Nat × Nat) :=
  let lane := core.checkK % 8
  let n := 64 / max 4 p.width
  let lo := e / n * n
  if h.physLane (e / n) = lane && !core.checkRetired && (List.range n).any (fun i => p.start ≤ lo + i && lo + i < p.total && p.acts h (lo + i))
  then some (max p.start lo, lane) else none

/-- Block words as they issue: each checked one advances k, and a mismatch of this turn strikes the first it can (20 R389). -/
def issueChecks (h : Hart) : List Prep → Core → Option Nat → List Prep × Core × Option Nat
  | [], c, m => ([], c, m)
  | p :: ps, c, m =>
    if isChecked p.i then
      let hit := m.bind (p.strike c h)
      let (rest, c, m) := issueChecks h ps { c with checkK := c.checkK + 1 } (if hit.isSome then none else m)
      ({ p with mism := hit } :: rest, c, m)
    else
      let (rest, c, m) := issueChecks h ps c m
      (p :: rest, c, m)

/-- A mismatch that traps is logged and counted toward both lanes; a lane it makes lasting is replaced at the trap (20 R390, R391, R393). -/
def State.mismatch (s : State) (lane : Nat) : State :=
  let c := coreOf s.cur
  let d := dieOf s.cur
  let work := laneKey c lane
  let chk := laneKey c 8
  let workLasts := s.becomesLasting d work
  let chkLasts := !workLasts && s.becomesLasting d chk
  let named := if chkLasts then 8 else lane
  let s := s.siteError d work
  let s := if workLasts then
      s.modDie d (fun x => { x with sites := Tab.put [] x.sites chk ((s.clk :: Tab.get [] x.sites chk).take 3) })
    else s.siteError d chk
  let s := s.record d 1 (workLasts || chkLasts) (laneSite c named) 0 s.hart.asid s.cur 35
  if workLasts || chkLasts then s.spareLane c named else s

end Sys2Proof.Machine
end

