-- ==== Sys2Proof/Machine/MatrixCtl.lean ====
section
/-! DEFINITION. ZZERO, ZSAVE, ZLOAD (10 R220 to R222; 09 R214), the adapter words ADCFG and ADINV (10 R223 to R225), Bunting: its items, lookups
and fills (09 R203 to R208; 24 R439). -/

namespace Sys2Proof.Machine

/-! ### Tiles -/

/-- Does the other hart of the core have a matrix word between passes? -/
def State.coreBusy (s : State) : Bool := (s.hartAt (if slotOf s.cur = 0 then s.cur + 1 else s.cur - 1)).run.matrixWait

/-- ZZERO (10 R220). -/
def execZzero (a : Reg) (s : State) : Result :=
  if s.tilesOk then
    let m := bits (s.x a) 0 5
    let named (k : Nat) : Bool := m.testBit (k / 4096)
    done (s.withCore (fun c => ({ c with tile := c.tile.filter (fun p => !named p.1), zrdone := 0 }.setRv false).dirty m))
  else raise s 19 0

/-- Bytes of the ZSAVE image (10 R221). -/
def imageBytes : Nat := 184576

/-- Where the image holds the tile element of key `k` (10 R221). -/
def imageAt (k : Nat) : Nat := 256 + 10 * k

/-- The image of a core's tiles (10 R221). -/
def Core.image (c : Core) : List Byte :=
  leBytes 8 1 ++ leBytes 8 c.zrdone.toNat ++ leBytes 1 (bit c.rv + bits c.zstate 48 4 * 2 + bits c.zstate 52 1 * 2 ^ 5) ++ leBytes 239 0
    ++ (List.range tileKeys).flatMap (fun k => leBytes 10 (c.acc k).toNat)

/-- `n` lines of 64 bytes written from `va` on, as relaxed stores of the hart in ascending address; or the fault at the first line that has
one, after the lines below it (10 R222). -/
def State.storeLines (s : State) : Nat → Word → List Byte → State × Option Trap
  | 0, _, _ => (s, none)
  | n + 1, va, bs =>
    match s.target s.ctx .store va 64 with
    | .ok (.mem pa _) => ((s.walkRequests s.ctx va).write (.hart s.cur) (.own (.hart s.cur)) false 0 pa (bs.take 64)).storeLines n (va + 64) (bs.drop 64)
    | .ok _ => (s, some ⟨7, va⟩)
    | .error t => (s, some t)

/-- The first fault met by reading `n` lines of 64 bytes from `va` on, if there is one (10 R222). -/
def State.loadLines (s : State) (c : Ctx) : Nat → Word → Option Trap
  | 0, _ => none
  | n + 1, va =>
    match s.target c .load va 64 with
    | .ok (.mem pa _) =>
      if s.poisoned pa then some ⟨33, va⟩ else if s.poisoned (pa + 32) then some ⟨33, va + 32⟩ else s.loadLines c n (va + 64)
    | .ok (.rom _) => s.loadLines c n (va + 64)
    | .ok (.reg _ _) => some ⟨5, va⟩
    | .error t => some t

/-- Byte `va` as the hart reads it, none where it cannot. -/
def State.imageByte (s : State) (va : Word) : Option Nat := match s.load s.ctx .hart va 1 with | .ok v => some v | .error _ => none

/-- `n` bytes from `va` as a number, none where one of them cannot be read. -/
def State.imageNat (s : State) (va : Word) (n : Nat) : Option Nat :=
  (List.range n).foldr (fun i acc => match s.imageByte (va + word i), acc with | some b, some v => some (b + 256 * v) | _, _ => none) (some 0)

/-- ZSAVE (10 R222): it waits for the core's earlier tile words. -/
def execZsave (a : Reg) (s : State) : Result :=
  if !s.tilesOk then raise s 19 0
  else if s.coreBusy then stall s (.zsave a)
  else
    let s := s.withHart Hart.resume
    let va := s.x a
    if va.toNat % 256 ≠ 0 then raise s 6 va
    else
      match s.storeLines (imageBytes / 64) va s.core.image with
      | (s, none) => done (s.withCore (fun c => c.setDirty 0))
      | (s, some t) => .next (s.trap t)

/-- ZLOAD (10 R222). Where it faults, every element, zrdone and rv hold the old value or the image's, as the device chooses. -/
def execZload (a : Reg) (s : State) : Result :=
  if !s.tilesOk then raise s 19 0
  else
    let va := s.x a
    if va.toNat % 256 ≠ 0 then raise s 4 va
    else
      let bad := s.loadLines s.ctx (imageBytes / 64) va
      let taken (k : Nat) : Bool := bad.isNone || Config.choice (s.tick * 65536 + k)
      let old := s.core
      let pick (k o n cur : Nat) : Nat := if taken k then (s.imageNat (va + word o) n).getD cur else cur
      let c := old.fillTiles (fun k => BitVec.ofNat 80 (pick k (imageAt k) 10 (old.acc k).toNat))
      let c := { c with zrdone := word (pick tileKeys 8 8 old.zrdone.toNat) }.setRv (pick (tileKeys + 1) 16 1 (bit old.rv) % 2 = 1)
      match bad with
      | none =>
        done ((List.range (imageBytes / 64)).foldl (fun s i => s.observeAt s.ctx .hart (va + word (64 * i)) 64)
          (s.withCore (fun _ => c.setDirty 0)))
      | some t => .next ((s.withCore (fun _ => c.setDirty 31)).trap t)

/-! ### adbase (09 R203) -/

/-- The rank (09 R203). -/
def adRank (w : Word) : Nat := 4 * 2 ^ bits w 18 2
/-- nblock (09 R203). -/
def adNblock (w : Word) : Nat := bits w 10 8
/-- mid (09 R203). -/
def adMid (w : Word) : Nat := bits w 0 10
/-- The directory's base (09 R203). -/
def adBase (w : Word) : Word := withBits w 0 20 0

/-- ADCFG (10 R223). -/
def execAdcfg (a b : Reg) (s : State) : Result :=
  done (s.withHart (fun h => { h with adbase := withBits (s.x a) 0 20 (bits (s.x b) 0 20) }))

/-! ### Items (09 R205, R207) -/

/-- Is the item, or the item of a fill, the one of this tag (09 R207)? Nothing else is compared, the rank it was filled at neither. -/
def BItem.is (x : BItem) (asid : Word) (id mid : Nat) (kind : BKind) (blk : Nat) : Bool :=
  decide (x.asid = asid) && x.id = id && x.mid = mid && decide (x.kind = kind) && x.blk = blk

/-- Bytes an item takes of Bunting's 1 MiB: 32 for an entry, the elements of its rank at their width for a slice. -/
def BItem.size (x : BItem) : Nat := if x.kind = .entry then 32 else 64 * x.rank * tagBits x.etag / 8

/-- The items that stay: least recently used ones go where 1 MiB is exceeded (09 R207). -/
def keepItems : Nat → List BItem → List BItem
  | _, [] => []
  | room, x :: xs => if x.size ≤ room then x :: keepItems (room - x.size) xs else []

/-- Fields of an entry item's cells: dptr, uptr, dstride, ustride, dtag, utag. -/
def BItem.field (x : BItem) (i : Nat) : Nat := x.cells.getD i 0

/-- The poison of a cell of a slice. -/
def BItem.cellPoison (x : BItem) (i : Nat) : Bool := (x.cells.getD i 0).testBit 16

/-- Element `i` of a slice: D[64 blk + k][c] with i = 32 k + c, U[c][64 blk + n] with i = 64 c + n (09 R205). -/
def BItem.elem (x : BItem) (i : Nat) : Val := valueOf x.etag (x.cells.getD i 0 % 2 ^ usedBits x.etag)

/-- The rank column of element `i` of a slice. -/
def BItem.column (x : BItem) (i : Nat) : Nat := if x.kind = .dslice then i % 32 else i / 64

/-- The fault that a word of rank `r` meets in an item: an entry's, or the first of a slice's columns 0 to r − 1 (09 R206, R210). -/
def BItem.faultFor (x : BItem) (r : Nat) : Option (Nat × Nat) :=
  match x.fault with
  | some t => some t
  | none => (x.faults.find? (fun p => x.column p.1 < r)).map (·.2)

/-- The tags U may have (09 R205). -/
def uTag (t : Nat) : Bool := t = 9 || t = 8 || t = 12 || t = 13 || t = 0

/-- Bytes of an element of D or U in the address checks (09 R205). -/
def elemBytes (t : Nat) : Nat := if is16 t then 2 else 1

/-- An entry item from the four dwords of a directory entry: its fields, and code 23 where it is refused (09 R205). -/
def entryItem (x : BItem) (ws : List Nat) : BItem :=
  let strides := ws.getD 2 0
  let last := ws.getD 3 0
  let dptr := ws.getD 0 0
  let uptr := ws.getD 1 0
  let ds := strides % 2 ^ 32
  let us := strides / 2 ^ 32
  let dt := last % 256
  let ut := last / 256 % 256
  let bad := last / 2 ^ 16 ≠ 1 || !slotTag dt || !uTag ut || dptr % elemBytes dt ≠ 0 || ds % elemBytes dt ≠ 0 || uptr % elemBytes ut ≠ 0
    || us % elemBytes ut ≠ 0
  { x with cells := [dptr, uptr, ds, us, dt, ut], fault := if bad then some (23, x.id) else none }

/-- Where element `i` of a slice lies (09 R205). -/
def sliceAt (x e : BItem) (i : Nat) : Word :=
  match x.kind with
  | .dslice =>
    let k := 64 * x.blk + i / 32
    let c := i % 32
    word (e.field 0 + k * e.field 2 + (if tagBits x.etag = 4 then c / 2 else c * elemBytes x.etag))
  | _ => word (e.field 1 + i / 64 * e.field 3 + (64 * x.blk + i % 64) * elemBytes x.etag)

/-- Does the selection match an item's tag? -/
def AdSel.hits (q : AdSel) (x : BItem) : Bool :=
  decide (x.asid = q.asid) && (match q.id with | some d => x.id = d | none => true) && (match q.mid with | some m => x.mid = m | none => true)

/-- Does a fill for hart `f` read the write: one at the hart's own point, or one that the hart of an ADINV of the item had made or found performed at
its scope by then (10 R225)? Bunting holds one item for all the cluster's harts, so what a fill after the ADINV leaves there is fresh for its hart. -/
def State.fillSees (s : State) (f : BFill) (p : PendWrite) : Bool :=
  p.heldBy (.hart f.hart) [.own (.hart f.hart)]
    || (s.clusterAt (clusterOf f.hart)).adinvs.any
        (fun r => r.sel.hits f.item && p.time ≤ r.time && p.heldBy (.hart r.hart) (s.upTo (.hart r.hart) r.scope))

/-- A load of `n` bytes by a fill, as the hart that missed (09 R208). -/
def State.fillLoad (s : State) (f : BFill) (c : Ctx) (va : Word) (n : Nat) : Except Trap Nat :=
  match s.target c .load va n with
  | .error t => .error t
  | .ok (.mem pa _) =>
    if s.poisoned pa then .error ⟨33, va⟩
    else .ok (leNat ((List.range n).map (fun i => viewFrom (s.fillSees f) (pa + i) (s.latest (pa + i)) s.pend)))
  | .ok (.rom pa) => .ok (leNat (s.latestBytes pa n))
  | .ok (.reg _ _) => .error ⟨5, va⟩

/-- `n` dwords from `va` on, loaded by a fill. -/
def State.fillDwords (s : State) (f : BFill) (c : Ctx) (va : Word) : Nat → Except Trap (List Nat)
  | 0 => .ok []
  | n + 1 =>
    match s.fillLoad f c va 8 with
    | .error t => .error t
    | .ok w =>
      match s.fillDwords f c (va + 8) n with
      | .error t => .error t
      | .ok ws => .ok (w :: ws)

/-- Element `i` of a slice: its bits, poison in bit 16, or the fault of its read. -/
def State.sliceCell (s : State) (f : BFill) (c : Ctx) (x e : BItem) (i : Nat) : Except Trap Nat :=
  match s.fillLoad f c (sliceAt x e i) (elemBytes x.etag) with
  | .ok v => .ok (if tagBits x.etag = 4 then v / 16 ^ (i % 2) % 16 else v)
  | .error t => if t.code = 33 then .ok (2 ^ 16) else .error t

/-- A slice with its elements, those of all 32 rank columns, as memory holds them at the fill: a word of another rank may hit it (09 R207), and what
Bunting holds affects no result. DESIGN CHOICE (log entry 53): a fault in a column of the word's rank that no active element of the word reads stops
the word too. -/
def State.fillSlice (s : State) (f : BFill) (c : Ctx) (x e : BItem) : BItem :=
  { x with
    cells := (List.range 2048).map (fun i => match s.sliceCell f c x e i with | .ok v => v | .error _ => 0)
    faults := (List.range 2048).filterMap (fun i => match s.sliceCell f c x e i with | .ok _ => none | .error t => some (i, t.code, t.tval.toNat)) }

/-- A filled item: an entry read from the directory, or a slice read through its entry (09 R205, R208). -/
def State.fillItem (s : State) (f : BFill) (entry : Option BItem) : BItem :=
  let c := ctxAt f.hart (.hart f.hart) f.level f.item.asid f.ptbase
  match f.item.kind, entry with
  | .entry, _ =>
    match s.fillDwords f c (f.base + word (32 * f.item.id)) 4 with
    | .ok ws => entryItem f.item ws
    | .error t => if t.code = 33 then { f.item with poison := true } else { f.item with fault := some (t.code, t.tval.toNat) }
  | k, some e => s.fillSlice f c { f.item with etag := e.field (if k = .dslice then 4 else 5) } e
  | _, none => f.item

/-- The reads of a fill: its entry, or the first and last element of each row of a slice (09 R205). -/
def BFill.reads (f : BFill) (entry : Option BItem) : List (Word × Nat) :=
  match f.item.kind, entry with
  | .entry, _ => [(f.base + word (32 * f.item.id), 8)]
  | k, some e =>
    let x := { f.item with etag := e.field (if k = .dslice then 4 else 5) }
    let row (first last : Nat) : List (Word × Nat) := [(sliceAt x e first, elemBytes x.etag), (sliceAt x e last, elemBytes x.etag)]
    if k = .dslice then (List.range 64).flatMap (fun j => row (32 * j) (32 * j + x.rank - 1))
    else (List.range x.rank).flatMap (fun j => row (64 * j) (64 * j + 63))
  | _, none => []

/-- The fill's requests to the HBM channels (13 R281). -/
def State.fillRequests (s : State) (f : BFill) (entry : Option BItem) : State :=
  s.requestAll (ctxAt f.hart (.hart f.hart) f.level f.item.asid f.ptbase) .load (f.reads entry)

/-- The entry item of a tag, where Bunting holds one. -/
def Cluster.entryOf (c : Cluster) (asid : Word) (id mid : Nat) : Option BItem := c.bunting.find? (fun x => x.is asid id mid .entry 0)

/-- Can the fill complete: an entry always, a slice once its entry is there or no fill of the entry is under way? -/
def Cluster.fillReady (c : Cluster) (f : BFill) : Bool :=
  decide (f.item.kind = .entry) || (c.entryOf f.item.asid f.item.id f.item.mid).isSome
    || !c.fills.any (fun g => g.item.is f.item.asid f.item.id f.item.mid .entry 0)

/-- BUNTING_FILL_ARRIVE (09 R208; 10 R225): the oldest fill that can complete ends. An invalidated fill is discarded and started anew for the
rows that wait; a slice without a usable entry is given up. -/
def execBuntingFillArrive (cluster : Nat) (s : State) : Result :=
  let c := s.clusterAt cluster
  match c.fills.find? c.fillReady with
  | none => .next s
  | some f =>
    let rest := c.fills.erase f
    if f.dropped then .next (s.modCluster cluster (fun k => { k with fills := rest ++ [{ f with dropped := false }] }))
    else
      let entry := c.entryOf f.item.asid f.item.id f.item.mid
      match f.item.kind, entry with
      | .entry, _ => .next ((s.fillRequests f none).modCluster cluster (fun k => { k with fills := rest, bunting := keepItems (2 ^ 20) (s.fillItem f none :: k.bunting) }))
      | _, some e =>
        if e.fault.isSome || e.poison then .next (s.modCluster cluster (fun k => { k with fills := rest }))
        else .next ((s.fillRequests f entry).modCluster cluster (fun k =>
          { k with fills := rest, bunting := keepItems (2 ^ 20) (s.fillItem f (some e) :: k.bunting) }))
      | _, none => .next (s.modCluster cluster (fun k => { k with fills := rest }))

/-! ### ADINV (10 R224, R225) -/

/-- Does the row wait for a fill under way that the selection matches, be it one that an earlier ADINV met too? -/
def MissRow.waitsOn (m : MissRow) (q : AdSel) (h : Hart) (fills : List BFill) : Bool :=
  fills.any (fun f => q.hits f.item && f.item.is h.asid m.id (adMid h.adbase) m.kind m.blk)

/-- A waiting matrix word's rows that wait for an invalidated fill are marked (24 R439, A1-E01). DESIGN CHOICE (log entry 77): a row that joins the
fill after the ADINV is not. -/
def Hart.markRows (h : Hart) (q : AdSel) (fills : List BFill) : Hart :=
  match h.run with
  | .waiting (.fill t rows) => { h with run := .waiting (.fill t (rows.map (fun m => if m.waitsOn q h fills then { m with twice := true } else m))) }
  | _ => h

/-- One cluster's Bunting loses the items the selection matches, its fills of them are discarded on arrival, and its later ones read what hart `h` has
performed at `sc` by now (10 R225). -/
def State.invalidate (s : State) (q : AdSel) (sc : Scope) (h cluster : Nat) : State :=
  let c := s.clusterAt cluster
  let s := if c.fills.any (fun f => q.hits f.item) then
      (List.range 16).foldl (fun s i => s.modHart (firstHart cluster + i) (fun h => h.markRows q c.fills)) s
    else s
  s.modCluster cluster (fun k =>
    { k with
      bunting := k.bunting.filter (fun x => !q.hits x)
      adinvs := ⟨q, sc, s.tick, h⟩ :: k.adinvs
      fills := k.fills.map (fun f => if q.hits f.item then { f with dropped := true } else f) })

/-- The clusters of a scope around hart `h` (10 R224). -/
def clustersIn (sc : Scope) (h : Nat) : List Nat :=
  let c := clusterOf h
  match sc with
  | .hart => [c] | .core => [c] | .cluster => [c]
  | .quad => (List.range 4).map (fun i => c / 4 * 4 + i)
  | .die => (List.range 24).map (fun i => 24 * dieOf h + i)
  | .pair => (List.range 48).map (fun i => 48 * (dieOf h / 2) + i)
  | _ => List.range 192

/-- ADINV (10 R224, R225): the hart's stores are performed at the scope, the items go, and the hart waits for the acknowledgements. -/
def execAdinv (a b : Reg) (sc : Scope) (s : State) : Result :=
  let w := s.x b
  if bitSet w 11 && decide (s.hart.level = .u) then illegal s (.adinv a b sc)
  else
    let d := bits (s.x a) 0 20
    let q : AdSel :=
      ⟨if d = 0xFFFFF then none else some d, if bitSet w 10 then none else some (bits w 0 10), if bitSet w 11 then word (bits w 16 11) else s.hart.asid⟩
    let s := (clustersIn sc s.cur).foldl (fun s c => s.invalidate q sc s.cur c) (s.release (.hart s.cur) sc)
    .next (s.withHart (fun h => { h with run := .waiting (.adinv a b sc) }))

/-- ADINV_COMPLETE (10 R225): the clusters have acknowledged, and the ADINV retires. -/
def execAdinvComplete (s : State) : Result :=
  match s.hart.run with
  | .waiting (.adinv _ _ _) => done (s.withHart Hart.resume)
  | _ => .next s

end Sys2Proof.Machine
end

