-- ==== Sys2Proof/Machine/Ports.lean ====
section
/-! DEFINITION. What arrives from outside a hart: writes to MMIO registers (13 R277, R281; 19 R367, R385; 20 R397; 23 R422 to R425), the host's
BARs and keys (20 R399, R400; 23 R418 to R421), the pod (23 R428), retried flits (20 R387). -/

namespace Sys2Proof.Machine

/-! ### MMIO registers -/

/-- DOORBELL_WRITE (23 R424). -/
def execDoorbellWrite (queue : Nat) (value : Word) (s : State) : Result :=
  if s.admitted 0 ∧ queue < 8192 then .next (s.doorbell queue value) else .next s

/-- MSIGEN_WRITE (23 R425). -/
def execMsigenWrite (value : Word) (s : State) : Result := if s.admitted 0 then .next (s.raiseVector (bits value 0 6)) else .next s

/-- HIRQ_WRITE (19 R367). -/
def execHirqWrite (hart : Nat) (value : Word) (s : State) : Result :=
  if isHart hart && s.admitted (dieOf hart) then .next (s.writeHirq hart value) else .next s

/-- ELOGCTL_WRITE (20 R397). -/
def execElogctlWrite (die : Nat) (value : Word) (s : State) : Result := if s.admitted die then .next (s.writeElogctl die value) else .next s

/-- CYCLE_RECORD_FREE (19 R385). -/
def execCycleRecordFree (die : Nat) (s : State) : Result := if s.admitted die then .next (s.freeCycleRecord die 0) else .next s

/-- HBMCTL_WRITE (13 R281). -/
def execHbmctlWrite (die : Nat) (value : Word) (s : State) : Result :=
  if s.admitted die ∧ die < 8 then .next (s.writeHbmctl die value) else .next s

/-- An 8-byte write of an MMIO register that responds (13 R277). -/
def State.mmioWrite (s : State) (die off : Nat) (v : Word) : State :=
  if off % 8 = 0 ∧ (s.mmioRead die off).isSome then s.writeReg die off v else s

/-- MMIO_REGISTER_WRITE (13 R277). -/
def execMmioRegisterWrite (die offset : Nat) (value : Word) (s : State) : Result := .next (s.mmioWrite die offset value)

/-! ### The host (23 R418 to R421; 20 R400) -/

/-- Give the outside something. -/
def State.give (s : State) (o : HostOut) : State := { s with hostOut := s.hostOut ++ [o] }

/-- Bytes of HBM that BAR4 reaches at offset `off`, where a page that migrates has gone (13 R291; 23 R419); none where they do not respond. -/
def State.barPa (s : State) (off n : Nat) : Option Nat :=
  if off < Config.hbmBytes ∧ off % n = 0 ∧ s.responds (s.forward off) then some (s.forward off) else none

/-- A host read of `n` bytes of HBM at offset `off` (23 R419; 20 R400). -/
def State.hostRead (s : State) (port off n : Nat) : State :=
  match s.barPa off n with
  | none => s.give (.unsupported port)
  | some pa =>
    let v := word (leNat (s.viewBytes (.host port) .system pa n))
    let t := (s.observe (.host port) .system pa n).touch pa
    if s.poisoned pa then
      if bitSet s.regs.poisonctl port then (t.record 8 5 false port (word pa) 0 0 0).give (.readData port v true)
      else (t.record 8 6 false port (word pa) 0 0 0).give (.abort port)
    else t.give (.readData port v false)

/-! The MSI-X table (23 R418): BAR2 holds it, in C-die 0's part at 0x0C00_0000, with the entries of 16 bytes of the PCIe family and its pending bits
behind them; only the host reaches it. DESIGN CHOICE and PRESUMED: log entry 62. -/

/-- Where the table begins in BAR2. -/
def msixBase : Nat := 0x0C000000

/-- Is the offset in BAR2 one of the table or of its pending bits? -/
def inMsix (offset : Nat) : Bool := msixBase ≤ offset && offset < msixBase + 0x408

/-- Dword `i` of an entry, 0 to 3: address low and high, data, vector control with its mask. -/
def MsixEntry.dword (e : MsixEntry) (i : Nat) : Nat :=
  match i with
  | 0 => e.address.toNat % 2 ^ 32
  | 1 => e.address.toNat / 2 ^ 32
  | 2 => e.data.toNat % 2 ^ 32
  | _ => bit e.masked

/-- An entry with dword `i` written. -/
def MsixEntry.setDword (e : MsixEntry) (i v : Nat) : MsixEntry :=
  match i with
  | 0 => { e with address := withBits e.address 0 32 v }
  | 1 => { e with address := withBits e.address 32 32 v }
  | 2 => { e with data := word (v % 2 ^ 32) }
  | _ => { e with masked := v.testBit 0 }

/-- Dword `k` of the table and of the pending bits behind it. -/
def State.msixDword (s : State) (k : Nat) : Nat :=
  if k < 256 then (Tab.get MsixEntry.reset s.msix (k / 4)).dword (k % 4)
  else ((List.range 32).map (fun i => bit (Tab.get MsixEntry.reset s.msix (32 * (k - 256) + i)).pending * 2 ^ i)).sum

/-- Dword `k` of the table written: a vector that is no longer masked sends what is pending (23 R425); the pending bits are read-only. -/
def State.writeMsix (s : State) (k v : Nat) : State :=
  if k < 256 then
    let e := Tab.get MsixEntry.reset s.msix (k / 4)
    ({ s with msix := Tab.put MsixEntry.reset s.msix (k / 4) (e.setDword (k % 4) v) }).sendPending (k / 4)
  else s

/-- A host access of 4 or 8 bytes to the table: its first dword and how many. -/
def msixSpan (offset n : Nat) : Option (Nat × Nat) :=
  if (n = 4 ∨ n = 8) ∧ offset % n = 0 then some ((offset - msixBase) / 4, n / 4) else none

/-- A host read of MMIO (23 R419; 13 R277): BAR2 holds 2^28 bytes of each C-die. -/
def State.hostMmioRead (s : State) (port offset n : Nat) : State :=
  let d := offset / 2 ^ 28
  let o := offset % 2 ^ 28
  if 8 ≤ d ∨ offset % n ≠ 0 ∨ s.admitted d = false then s.give (.unsupported port)
  else if inMsix offset then
    match msixSpan offset n with
    | some (k, m) => s.give (.readData port (word (s.msixDword k + (if m = 2 then s.msixDword (k + 1) * 2 ^ 32 else 0))) false)
    | none => s.give (.unsupported port)
  else if o < 0x100000 then s.give (.readData port (word (leNat (s.latestBytes (mmioBase d + o) n))) false)
  else
    match s.mmioRead d (o / 8 * 8) with
    | some w => s.give (.readData port (word (w.toNat / 2 ^ (8 * (o % 8)) % 2 ^ (8 * n))) false)
    | none => s.give (.unsupported port)

/-- A host's doorbell write, a release at .system by it (15 R326; 23 R424). -/
def State.hostDoorbell (s : State) (port queue : Nat) (v : Word) : State := (s.release (.host port) .system).doorbell queue v

/-- A host write of MMIO (23 R419; 13 R277). -/
def State.hostMmioWrite (s : State) (port offset n : Nat) (v : Word) : State :=
  if inMsix offset && s.admitted 0 then
    match msixSpan offset n with
    | some (k, m) => let t := s.writeMsix k (v.toNat % 2 ^ 32); if m = 2 then t.writeMsix (k + 1) (v.toNat / 2 ^ 32) else t
    | none => s
  else if n = 8 ∧ offset % 8 = 0 ∧ 0x09000000 ≤ offset ∧ offset < 0x09010000 ∧ s.admitted 0 then s.hostDoorbell port ((offset - 0x09000000) / 8) v
  else if n = 8 ∧ offset < 2 ^ 31 then s.mmioWrite (offset / 2 ^ 28) (offset % 2 ^ 28) v
  else s

/-- Is the IDE stream of a port out of use since a failure (23 R420)? The standard discards what it carries until it is keyed again (log entry 63). -/
def State.streamFailed (s : State) (port stream : Nat) : Bool := Tab.get 0 s.keys.insecure (8 * port + stream) ≠ 0

/-- A TLP of a host port that fails its integrity check is dropped and logged with kind 13, and its stream fails (23 R420, R421). -/
def State.failStream (s : State) (port stream : Nat) (address : Word) : State :=
  ({ s with keys := { s.keys with insecure := Tab.put 0 s.keys.insecure (8 * port + stream) 1 } }).record 8 13 false port address 0 0 stream

/-- Does a TLP on a stream of a host port arrive at all: has the port trained, are there such a port and stream (23 R418, R420), and is it in use? -/
def State.hostArrives (s : State) (port stream : Nat) : Bool :=
  s.portUp port && port < Config.hostPorts && stream < 5 && !s.streamFailed port stream

/-- HOST_BAR_READ (23 R419, R420): doorbell pages read zero (log entry 45). -/
def execHostBarRead (tlp : HostTlp) (bar : Nat) (offset : Nat) (size : Width) (s : State) : Result :=
  let n := size.bits / 8
  let port := tlp.lane.port
  if s.hostArrives port tlp.lane.stream = false then .next s
  else if tlp.integrityOk = false then .next (s.failStream port tlp.lane.stream (word offset))
  else if bar = 0 then .next (if offset < 2 ^ 25 then s.give (.readData port 0 false) else s.give (.unsupported port))
  else if bar = 2 then .next (s.hostMmioRead port offset n)
  else if bar = 4 then .next (s.hostRead port offset n)
  else .next (s.give (.unsupported port))

/-- A host write of `n` bytes of HBM (23 R419; 13 R293; 20 R400): a poisoned one poisons its sectors. -/
def State.hostWrite (s : State) (port off n v : Nat) (poisoned : Bool) : State :=
  match s.barPa off n with
  | none => s
  | some pa =>
    let s := s.write (.host port) (pointAt (.host port) .system) false 0 pa (leBytes n v)
    if poisoned then (s.poisonAt pa n).record 8 5 false port (word pa) 0 0 0 else s

/-- HOST_BAR_WRITE (23 R419, R420): poisoned data is no valid data for a doorbell or a register (20 R400). -/
def execHostBarWrite (lane : HostLane) (bar : Nat) (offset : Nat) (size : Width) (value : Word) (poisoned : Bool) (integrityOk : Bool) (s : State) :
    Result :=
  let n := size.bits / 8
  let port := lane.port
  if s.hostArrives port lane.stream = false then .next s
  else if integrityOk = false then .next (s.failStream port lane.stream (word offset))
  else if bar = 4 then .next (s.hostWrite port offset n (value.toNat % 2 ^ (8 * n)) poisoned)
  else if poisoned then .next (s.record 8 6 false port (word offset) 0 0 0)
  else if bar = 0 then
    .next (if offset % 4096 = 0 ∧ offset < 2 ^ 25 ∧ n = 8 ∧ s.admitted 0 then s.hostDoorbell port (offset / 4096) value else s)
  else if bar = 2 then .next (s.hostMmioWrite port offset n value)
  else .next s

/-- SPDM_SECURE_SESSION (23 R420): the session with the root of trust over which IDE_KM programs keys. -/
def execSpdmSecureSession (port : Nat) (established : Bool) (s : State) : Result :=
  if s.portUp port ∧ port < Config.hostPorts then
    .next { s with keys := { s.keys with session := Tab.put 0 s.keys.session port (bit established) } }
  else .next s

/-- IDE_KM_REQUEST (23 R420): one link stream and four selective streams a port; a failed stream is in use again with its new key. -/
def execIdeKmRequest (port : Nat) (stream : Nat) (key : Nat) (s : State) : Result :=
  if Tab.get 0 s.keys.session port ≠ 0 ∧ stream < 5 then
    .next { s with
      keys := { s.keys with
        ide := Tab.put 0 s.keys.ide (8 * port + stream) key, insecure := Tab.put 0 s.keys.insecure (8 * port + stream) 0 } }
  else .next s

/-! ### The pod (23 R428) -/

/-- UALINKSEC_KEY_ESTABLISH (23 R428): the keys of a port and the package at its far end. -/
def execUalinksecKeyEstablish (port : Nat) (pkg : Nat) (key : Nat) (s : State) : Result :=
  if s.admitted 9 ∧ port < Config.podPorts ∧ pkg < 1024 then
    .next { s with
      keys := { s.keys with ualink := Tab.put 0 s.keys.ualink port key, podOf := Tab.put 0 s.keys.podOf port (pkg + 1) } }
  else .next s

/-- What an AMO of another package writes (14 R299), operation 9 comparing. -/
def podAmo (op n : Nat) (old operand compare : Nat) : Option Nat :=
  if op = 9 then (if old = compare then some operand else none) else some (vamoNew op n old operand)

/-- An access of `n` bytes from another package that responds here: naturally aligned HBM (23 R428). -/
def State.podReaches (s : State) (pa n : Nat) : Bool := decide (pa < Config.hbmBytes) && s.responds (s.forward pa) && pa % n = 0

/-- An access from package `pkg` by UALink port `k` (23 R428; 20 R400): UALink never forwards poison. -/
def State.podAccess (s : State) (k pkg : Nat) : PodAccess → State
  | .read offset size =>
    let n := size.bits / 8
    let pa := s.forward offset
    if s.podReaches offset n then
      (if s.poisoned pa then (s.record 9 6 false (16 + k) (word pa) 0 0 0).give (.abort (16 + k))
       else ((s.observe (.pod pkg) .pod pa n).touch pa).give (.readData (16 + k) (word (leNat (s.viewBytes (.pod pkg) .pod pa n))) false))
    else s.give (.unsupported (16 + k))
  | .write offset size value =>
    let n := size.bits / 8
    if s.podReaches offset n then
      s.write (.pod pkg) (pointAt (.pod pkg) .pod) false 0 (s.forward offset) (leBytes n value.toNat)
    else s
  | .amo offset dbl op operand compare =>
    let n := amoBytes dbl
    let pa := s.forward offset
    if s.podReaches offset n && op.toNat < 13 then
      if s.poisoned pa then (s.record 9 6 false (16 + k) (word pa) 0 0 0).give (.abort (16 + k))
      else
        let old := leNat (s.amoBytesAt (.pod pkg) pa n)
        let m := 2 ^ (8 * n)
        (s.amoWrite (.pod pkg) pa n (podAmo op.toNat n old (operand.toNat % m) (compare.toNat % m))).give (.readData (16 + k) (word old) false)
    else s.give (.unsupported (16 + k))

/-- POD_REMOTE_ACCESS (23 R421, R428): one that fails its integrity check and its retry does not respond and is logged with kind 13. -/
def execPodRemoteAccess (port : Nat) (access : PodAccess) (integrityOk : Bool) (s : State) : Result :=
  let pkg := Tab.get 0 s.keys.podOf port
  if s.admitted 9 ∧ port < Config.podPorts ∧ bitSet s.regs.podctl 63 ∧ pkg ≠ 0 then
    if integrityOk then .next (s.podAccess port (pkg - 1) access)
    else
      let a := match access with | .read o _ => o | .write o _ _ => o | .amo o _ _ _ _ => o
      .next ((s.record 9 13 false (16 + port) (word a) 0 0 0).give (.unsupported (16 + port)))
  else .next s

/-! ### Links of the ports (20 R387) -/

/-- Is the site a port of the die: a host port of I-die 0, or a UALink port of I-die 1 (22 R414; 23 R421)? -/
def portSite (die site : Nat) : Bool := (die = 8 && site < Config.hostPorts) || (die = 9 && 16 ≤ site && site < 16 + Config.podPorts)

/-- PORT_FLIT_RETRIED (20 R387, R388): counted for the port. -/
def execPortFlitRetried (die site : Nat) (s : State) : Result :=
  if s.admitted die && portSite die site then .next (s.correctedError die (siteKey .port site)) else .next s

end Sys2Proof.Machine
end

