-- ==== Sys2Proof/Machine/Deprecated.lean ====
section
/-! DEFINITION. The deprecated words VDOT8 and XMULS and their expansion (19 R374 to R376). -/

namespace Sys2Proof.Machine

/-- Element `e` of a source of VDOT8 at serial 4e + j: a serial at or above MAXVL reads 0 (19 R375). -/
def Prep.dotSrc (p : Prep) (h : Hart) (r : BitVec 6) (t k : Nat) : Int × Bool :=
  if p.maxvl ≤ k then (0, false) else ((valueOf t (h.elem r.toNat t k)).i, h.poisonBit r.toNat k)

/-- VDOT8 at element `e` of microstep `j` (19 R375). -/
def elemVdot8 (p : Prep) (h : Hart) (j e : Nat) : Eff :=
  let (a, pa) := p.dotSrc h p.f.vs1 p.t1 (4 * e + j)
  let (b, pb) := p.dotSrc h p.f.vs2 p.t2 (4 * e + j)
  let d := h.elem p.f.vd.toNat p.td e
  .write (((d : Int) + a * b) % 2 ^ 32).toNat (pa || pb || h.poisonBit p.f.vd.toNat e) 0 0

/-- XMULS at element `e` (19 R375). -/
def elemXmuls (p : Prep) (h : Hart) (e : Nat) : Eff :=
  let v1 := valueOf p.t1 (h.elem p.f.vs1.toNat p.t1 e)
  let v2 := valueOf p.t2 (h.elem p.f.vs2.toNat p.t2 e)
  let sh := p.f.imm.toNat % 64
  let x := v1.i * v2.i
  let (v, sat) := clampTo p.rt (if sh = 0 then x else (x + 2 ^ (sh - 1)).fdiv (2 ^ sh))
  .write (v % 2 ^ tagBits p.rt).toNat (h.poisonBit p.f.vs1.toNat e || h.poisonBit p.f.vs2.toNat e) 0 sat

/-- One active element of a deprecated word, which never stops. -/
def Prep.deprElem (p : Prep) (j e : Nat) (sr : State × WordRun) : State × WordRun :=
  let x := match p.i with
    | .vdot8 _ => elemVdot8 p sr.1.hart j e
    | _ => elemXmuls p sr.1.hart e
  match applyEff p e sr.1 { sr.2 with met := true } x with
  | .ok r => r
  | .error _ => sr

/-- One microstep over the active elements from `lo` to below `hi`; one that was stopped goes on with its count of poisoned elements (08 R163). -/
def Prep.deprStep (p : Prep) (j lo hi : Nat) (s : State) : State × WordRun :=
  ((List.range hi).filter (fun e => lo ≤ e && p.acts s.hart e)).foldl (fun sr e => p.deprElem j e sr)
    (s, if lo = 0 then WordRun.fresh else p.begun)

/-- mseq (19 R376). -/
def mseqOf (valid : Bool) (step : Nat) : Word := word (bit valid * 2 ^ 63 + step % 4)

/-- How the microsteps end: all of them done, or a stop with mseq and vstart set (19 R376), and how far its microstep has come. -/
inductive DeprOut
  | done (s : State)
  | stop (s : State) (r : WordRun) (vstart : Nat)
  deriving DecidableEq, Repr

/-- The stop boundaries of a microstep: group boundaries, and its end where another step follows (19 R369, R376). -/
def deprBounds (g lo total : Nat) (last : Bool) : List (Option Nat) :=
  ((List.range total).filter (fun e => lo < e && e % g = 0)).map some ++ (if last then [] else [none])

/-- The boundary at which the hart stops in this step, if it does: none within for the step's end. -/
def State.deprStop (s : State) (bs : List (Option Nat)) : State × Option (Option Nat) :=
  match s.stopAt (List.range bs.length) with
  | (s, some k) => (s, bs[k]?)
  | (s, none) => (s, none)

/-- `n` more microsteps from step `j` on, the first from serial `lo` (19 R375, R376). -/
def Prep.deprRun (p : Prep) (g : Nat) : Nat → Nat → Nat → State → DeprOut
  | 0, _, _, s => .done s
  | n + 1, j, lo, s =>
    let (s, b) := s.deprStop (deprBounds g lo p.total (n = 0))
    match b with
    | some (some e) => let (s, r) := p.deprStep j lo e s; .stop ((finishWord false s (p, r)).withHart (fun h => { h with mseq := mseqOf true j })) r e
    | _ =>
      let (s, r) := p.deprStep j lo p.total s
      let s := finishWord true s (p, r)
      if b = some none then .stop (s.withHart (fun h => { h with mseq := mseqOf true (j + 1) })) r 0 else p.deprRun g n (j + 1) 0 s

/-- A deprecated word from where mseq says (19 R375, R376): its completion clears mseq. -/
def Prep.deprWord (p : Prep) (g : Nat) (s : State) : DeprOut :=
  let s0 := if bitSet s.hart.mseq 63 then bits s.hart.mseq 0 2 else 0
  let out := match p.i with
    | .vdot8 _ => p.deprRun g (4 - s0) s0 p.start s
    | _ => p.deprRun g 1 0 p.start s
  match out with
  | .done s => .done (s.withHart (fun h => { h with mseq := 0 }))
  | o => o

end Sys2Proof.Machine
end

