-- ==== Sys2Proof/Machine/Matrix.lean ====
section
/-! DEFINITION. The matrix block words (10 R226 to R236): their checks (09 R215; 10 R228), their rows, and the passes that carry the rows (09 R201,
R208 to R211; 10 R236). -/

namespace Sys2Proof.Machine

/-- A matrix word as it runs: its fields under the repetition's renaming, the hart at its start, the slot it took, and the tags that earlier words of
its convoy give their registers (05 R118). -/
structure MPrep where
  i : Instr
  f : Fields
  h : Hart
  take : Option SlotTake
  tags : List (Nat × Nat)
  deriving DecidableEq, Repr

/-- What a row finds at the start of the pass that would carry it (09 R208, R210). -/
inductive RowState
  | go
  | miss (ms : List MissRow)
  | stop (t : Trap)
  deriving DecidableEq, Repr

/-- How a matrix word ends for now: completed, stopped by a trap or for an interrupt, or waiting. -/
inductive MOut
  | done (s : State)
  | stop (s : State) (t : Trap)
  | async (s : State)
  | wait (s : State) (w : Wait)
  deriving DecidableEq, Repr

/-! ### Fields and operands -/

/-- vl (05 R105). -/
def MPrep.k (p : MPrep) : Nat := p.h.ncols
/-- The tag of vs1. -/
def MPrep.t1 (p : MPrep) : Nat := p.h.tagVia p.tags p.f.vs1.toNat
/-- The tag of vs2. -/
def MPrep.t2 (p : MPrep) : Nat := p.h.tagVia p.tags p.f.vs2.toNat
/-- The tag of vs3. -/
def MPrep.t3 (p : MPrep) : Nat := p.h.tagVia p.tags p.f.vs3.toNat

/-- Is it MOPK, in either form? -/
def MPrep.mopk (p : MPrep) : Bool := match p.i with | .mopk _ => true | .mopkAdapter _ => true | _ => false
/-- Does the word read identifiers from vs2? -/
def MPrep.adapts (p : MPrep) : Bool := match p.i with | .mopkAdapter _ => true | .adfold _ => true | _ => false
/-- Does the word use row channels (10 R236)? -/
def MPrep.channels (p : MPrep) : Bool := match p.i with | .zrd _ => false | .zwr _ => false | _ => true

/-- The tile columns that cm selects (10 R227). -/
def MPrep.cols (p : MPrep) : List Nat := (List.range 64).filter (fun j => p.f.cm.testBit (j / 8))

/-- The active rows (09 R201). -/
def MPrep.rows (p : MPrep) : List Nat := (List.range p.h.nrows).filter (fun i => p.h.selects p.f i)

/-- The value of element `e` of vs1. -/
def MPrep.a (p : MPrep) (e : Nat) : Val := valueOf p.t1 (p.h.elem p.f.vs1.toNat p.t1 e)

/-- Tags of A (09 R198). -/
def aTag (t : Nat) : Bool := isNarrow t || t = 17 || t = 0 || t = 1 || is16 t

/-- A and B, or A and D, by width (10 R229). -/
def pairWidths (a b : Nat) : Bool := is16 a = is16 b

/-- The identifier of row `i` (09 R204). -/
def MPrep.rowId (p : MPrep) (i : Nat) : Nat := p.h.elem p.f.vs2.toNat p.t2 (i * p.k) % 2 ^ 20

/-- No adapter (09 R204). -/
def noAdapter : Nat := 0xFFFFF

/-- The slice of the word's adapter form and its block (09 R206, R208). -/
def MPrep.slice (p : MPrep) : BKind × Nat :=
  match p.i with
  | .adfold _ => (.uslice, adNblock p.h.adbase)
  | _ => (.dslice, match p.take with | some t => t.kb | none => 0)

/-- An item of the row, where Bunting holds it (09 R207). -/
def MPrep.item (p : MPrep) (c : Cluster) (id : Nat) (kind : BKind) (blk : Nat) : Option BItem :=
  c.bunting.find? (fun x => x.is p.h.asid id (adMid p.h.adbase) kind blk)

/-! ### Checks before any row (09 R215; 10 R228) -/

/-- tval of code 18 (05 R114; 10 R228). -/
def MPrep.tagTrap (p : MPrep) (stated : Nat) : Trap :=
  match p.i with
  | .mrank _ => ⟨18, tagTval 0 0 p.t2 p.t1⟩
  | .mopk f => ⟨18, tagTval stated (if f.mx then p.t3 else 0) 0 p.t1⟩
  | .mopkAdapter f => ⟨18, tagTval stated (if f.mx then p.t3 else 0) p.t2 p.t1⟩
  | .adfold _ => ⟨18, tagTval 0 0 p.t2 0⟩
  | .zrd f => ⟨18, tagTval f.ttag 0 0 (if f.scl then p.t1 else 0)⟩
  | _ => ⟨18, tagTval 0 0 0 p.t1⟩

/-- Does the tag fit W (05 R114)? -/
def MPrep.fits (p : MPrep) (t : Nat) : Bool := tagBits t ≤ p.h.vwidth

/-- n32 or i32, the tags of vId (09 R204). -/
def MPrep.idTag (p : MPrep) : Bool := (p.t2 = 4 || p.t2 = 5) && p.fits p.t2

/-- The tags of the word's own operands (10 R229 to R235). -/
def MPrep.tagsOk (p : MPrep) : Bool :=
  match p.i with
  | .mrank _ => aTag p.t1 && aTag p.t2 && p.fits p.t1 && p.fits p.t2
  | .mopk f => aTag p.t1 && p.fits p.t1 && (!f.mx || (mxTag p.t1 && p.t3 = 18))
  | .mopkAdapter f => aTag p.t1 && p.fits p.t1 && (!f.mx || (mxTag p.t1 && p.t3 = 18)) && p.idTag
  | .adfold _ => p.idTag
  | .zrd f => isTag f.ttag && p.fits f.ttag && !(f.ttag = 18 && f.int)
      && (!f.scl || ((p.t1 = 10 || is16 p.t1 || p.t1 = 18) && p.fits p.t1))
  | .zwr f => p.fits p.t1 && (!f.int || isIntTag p.t1)
  | _ => true

/-- A against the slot's tag (10 R229). -/
def MPrep.pairOk (p : MPrep) (b : Nat) : Bool := pairWidths p.t1 b && !(p.f.mx && isIntTag p.t1 && isIntTag b)

/-- Is Mode(rm) evaluated by ZRD (10 R234)? -/
def MPrep.needsMode (p : MPrep) : Bool :=
  match p.i with
  | .zrd f => isWideFloat f.ttag || (isIntTag f.ttag && !(f.int && !f.scl))
  | _ => false

/-- Code 24 (10 R228). -/
def MPrep.shapeBad (p : MPrep) : Bool :=
  match p.i with
  | .adfold _ => false
  | .mrank f => 64 < p.k || p.k ≤ f.kk || p.h.nrows ≤ f.kk
  | _ => 64 < p.k

/-- Is the macro of slot `n` of cluster `c` under repair (20 R396): declared lasting and not retired? -/
def State.macroSick (s : State) (c n : Nat) : Bool :=
  (s.dieAt (dieOfCluster c)).lasting.contains (macroKey c (macroOf n)) && !(s.clusterAt c).macroRetired.contains (macroOf n)

/-- Do the passes that use slot `n` wait for a repair of its macro (20 R396): under way, or the slot not yet loaded again? -/
def State.repairs (s : State) (n : Nat) : Bool :=
  s.macroSick (clusterOf s.cur) n || s.cluster.reloads n

/-- Do the passes of a word that took a slot wait for a repair (20 R396)? -/
def State.takeRepairs (s : State) (t : Option SlotTake) : Bool :=
  match t with
  | some t => s.repairs t.w || (is16 t.tag && s.repairs (t.w + 1))
  | none => false

/-- What a named slot offers (09 R197). -/
inductive SlotView | loading | bad | ready (t : SlotTake)
  deriving DecidableEq, Repr

/-- Slot `n` as a matrix word finds it (09 R197; 20 R396): a macro declared lasting makes its slots wait. -/
def State.slotView (s : State) (n : Nat) : SlotView :=
  let c := s.cluster
  let v := c.slot n
  let hi := c.slot (n + 1)
  if v.state = .loading || (s.macroSick (clusterOf s.cur) n && v.state = .ready) then .loading
  else if v.state ≠ .ready || v.pair = 2 then .bad
  else if v.pair = 0 then .ready ⟨n, v.tag, v.kb⟩
  else if hi.state = .loading then .loading
  else if hi.state = .ready ∧ hi.pair = 2 then .ready ⟨n, v.tag, v.kb⟩
  else .bad

/-- The checks made at issue (09 R215; 10 R228); `at_` is the word's address. -/
def MPrep.issueCheck (p : MPrep) (s : State) (at_ : Word) : Option Trap :=
  let v := s.cluster.slot p.f.w
  if !s.tilesOk then some ⟨19, 0⟩
  else if p.channels && bits s.hart.mgrant 0 7 = 0 then some ⟨20, 0⟩
  else if p.needsMode && (p.h.modeOf p.f).isNone then some ⟨2, at_⟩
  else if !p.tagsOk then some (p.tagTrap (if p.mopk && v.state ≠ .empty then v.tag else 0))
  else if p.mopk && (match s.slotView p.f.w with | .ready t => !p.pairOk t.tag | _ => false) then some (p.tagTrap v.tag)
  else if p.shapeBad then some ⟨24, word (p.k + (match p.i with | .mrank f => f.kk * 2 ^ 16 | _ => 0))⟩
  else if p.mopk && s.slotDenied p.f.w then some ⟨21, word p.f.w⟩
  else none

/-! ### What a row needs (09 R208, R210) -/

/-- Poison in the row's own operands (09 R210; 10 R230, R232, R235). -/
def MPrep.rowPoison (p : MPrep) (i : Nat) : Bool :=
  let v1 := p.f.vs1.toNat
  match p.i with
  | .mrank f => p.h.poisonBit v1 (i * p.k + f.kk)
  | .mopk f => (List.range p.k).any (fun c => p.h.poisonBit v1 (i * p.k + c)) || (f.mx && scales i)
  | .mopkAdapter f => (List.range p.k).any (fun c => p.h.poisonBit v1 (i * p.k + c)) || (f.mx && scales i)
  | .zwr _ => p.cols.any (fun j => j < p.k && p.h.poisonBit v1 (i * p.k + j))
  | _ => false
where
  /-- Poison in the scales of row `i`. -/
  scales (i : Nat) : Bool :=
    let b := (p.k + 31) / 32
    (List.range b).any (fun c => p.h.poisonBit p.f.vs3.toNat (i * b + c))

/-- r, as adbase gives it at the start of the pass (09 R203; 10 R231). -/
def MPrep.rank (p : MPrep) : Nat := adRank p.h.adbase

/-- Poison in the cells of the slice that the row uses (09 R210). -/
def MPrep.slicePoison (p : MPrep) (x : BItem) : Bool :=
  (List.range p.rank).any (fun c =>
    match x.kind with
    | .dslice => (List.range p.k).any (fun kk => x.cellPoison (32 * kk + c))
    | _ => p.cols.any (fun j => x.cellPoison (64 * c + j)))

/-- Is the entry's tag one the word cannot use (10 R231, R233)? -/
def MPrep.entryBad (p : MPrep) (e : BItem) : Bool :=
  match p.i with
  | .adfold f => f.int && e.field 5 ≠ 0
  | _ => !pairWidths p.t1 (e.field 4)

/-- Row `i` at the start of the pass that would carry it (09 R208, R210). DESIGN CHOICE (log entry 52): of several rows that stop the word the lowest
does, and of several causes of a row the first of this order: poison of vId, fault of the entry, poison of the entry, code 23, fault of the slice,
poison of the slice, poison of the row's own elements; poison of its own elements stops a row that misses an item at its first-time pass. -/
def MPrep.rowState (p : MPrep) (c : Cluster) (i : Nat) : RowState :=
  let own := if p.rowPoison i then RowState.stop ⟨33, 0⟩ else .go
  if !p.adapts then own
  else if p.h.poisonBit p.f.vs2.toNat (i * p.k) then .stop ⟨33, 0⟩
  else
    let id := p.rowId i
    if id = noAdapter then own
    else
      let (kind, blk) := p.slice
      let miss (k : BKind) (b : Nat) : MissRow := ⟨i, id, k, b, .now, false⟩
      let sl := p.item c id kind blk
      match p.item c id .entry 0 with
      | none => if own = .go then .miss (miss .entry 0 :: (if sl.isNone then [miss kind blk] else [])) else own
      | some e =>
        match e.fault with
        | some (code, a) => .stop ⟨code, word a⟩
        | none =>
          if e.poison then .stop ⟨33, 0⟩
          else if p.entryBad e then .stop ⟨23, word id⟩
          else
            match sl with
            | none => if own = .go then .miss [miss kind blk] else own
            | some x =>
              match x.faultFor p.rank with
              | some (code, a) => .stop ⟨code, word a⟩
              | none => if p.slicePoison x then .stop ⟨33, 0⟩ else own

/-! ### What a row does (10 R230 to R235) -/

/-- A sum over k into an accumulator, in the form its tags call for (06 R142 to R144); `sc` gives the scale of a k-block. DESIGN CHOICE (log entry
69): two integer tags take the integer form of 06 R142, without a scale, the adapter term of an i4 A under .mx too, where 09 R206 has the A scale
apply. -/
def sumInto (ta tb k : Nat) (ab : List (Val × Val)) (sc : Nat → FVal) (a : Acc) : Acc × Nat :=
  if isIntTag ta && isIntTag tb then (acc80IntAdd a (intSum (ab.map (fun p => (p.1.i, p.2.i)))), 0)
  else
    let fl := ab.map (fun p => (p.1.f, p.2.f))
    if is16 ta then accSteps (fun a p => rankStep a p.1 p.2) fl a 0
    else accSteps (fun a b => blockStep a b.2 (sc b.1)) (kBlocks k fl) a 0

/-- Element (k, n) of the slot a word took (09 R195). -/
def Cluster.bElem (c : Cluster) (t : SlotTake) (k n : Nat) : Val :=
  let lo := (Tab.get 0 (c.slot t.w).data (64 * k + n)).toNat
  let hi := if is16 t.tag then (Tab.get 0 (c.slot (t.w + 1)).data (64 * k + n)).toNat else 0
  valueOf t.tag ((lo + 256 * hi) % 2 ^ usedBits t.tag)

/-- A scale of the slot. -/
def Cluster.bScale (c : Cluster) (t : SlotTake) (blk n : Nat) : Nat := (Tab.get 0x7F (c.slot t.w).scales (64 * blk + n)).toNat

/-- The scale of k-block `b` of row `i` of A; 127 without .mx (10 R230). -/
def MPrep.aScale (p : MPrep) (i b : Nat) : Nat :=
  if p.f.mx then p.h.elem p.f.vs3.toNat 18 (i * ((p.k + 31) / 32) + b) else 127

/-- Tile elements updated in turn, their flags gathered. -/
def Core.update (c : Core) (step : Nat → Acc → Acc × Nat) (key : Nat → Nat) : List Nat → Nat → Core × Nat
  | [], fl => (c, fl)
  | j :: js, fl =>
    let (a, f) := step j (c.acc (key j))
    (c.setAcc (key j) a).update step key js (fl ||| f)

/-- The base term of MOPK for row `i` (10 R230). -/
def MPrep.baseTerm (p : MPrep) (c : Cluster) (t : SlotTake) (i : Nat) (k : Core) : Core × Nat :=
  let row := (List.range p.k).map (fun kk => (kk, p.a (i * p.k + kk)))
  k.update (fun j a =>
    sumInto p.t1 t.tag p.k (row.map (fun e => (e.2, c.bElem t e.1 j)))
      (fun b => scaleProduct (p.aScale i b) (if p.f.mx then c.bScale t b j else 127)) a) (zKey p.f.z i) p.cols 0

/-- The adapter term of MOPK for row `i` (09 R206; 10 R231): zt columns 0 to r − 1. -/
def MPrep.adapterTerm (p : MPrep) (x : BItem) (i : Nat) (k : Core) : Core × Nat :=
  let row := (List.range p.k).map (fun kk => (kk, p.a (i * p.k + kk)))
  k.update (fun c a =>
    sumInto p.t1 x.etag p.k (row.map (fun e => (e.2, x.elem (32 * e.1 + c))))
      (fun b => scaleProduct (p.aScale i b) 127) a) (ztKey i) (List.range p.rank) 0

/-- MRANK for row `i` (10 R232). -/
def MPrep.rankTerm (p : MPrep) (i : Nat) (k : Core) : Core × Nat :=
  let a := p.a (i * p.k + p.f.kk)
  let b (j : Nat) : Val := valueOf p.t2 (p.h.elem p.f.vs2.toNat p.t2 (p.f.kk * p.k + j))
  k.update (fun j z =>
    if isIntTag p.t1 && isIntTag p.t2 then (acc80IntAdd z (a.i * (b j).i), 0) else rankStep z a.f (b j).f)
    (zKey p.f.z i) (p.cols.filter (· < p.k)) 0

/-- zt row `i` cleared (10 R233). -/
def Core.clearZt (c : Core) (i : Nat) : Core := { c with tile := c.tile.filter (fun p => !(ztKey i 0 ≤ p.1 && p.1 < ztKey i 32)) }

/-- The fold of zt row `i` through U (10 R233): zt columns 0 to r − 1. -/
def MPrep.foldTerm (p : MPrep) (x : BItem) (i : Nat) (k : Core) : Core × Nat :=
  let u (c n : Nat) : Val := x.elem (64 * c + n)
  k.update (fun n a =>
    accSteps (fun a c =>
      let zt := k.acc (ztKey i c)
      if p.f.int then (acc80IntAdd a (accInt zt * (u c n).i), 0) else rankStep a (accFloat zt) (u c n).f) (List.range p.rank) a 0)
    (zKey p.f.z i) p.cols 0

/-- ZRD's delivery (10 R234): the bits, fflags, vxflags. -/
def zrdGive (t : Nat) (m : RMode) (ovf : Bool) (v : Val) : Nat × Nat × Nat :=
  if isIntTag t then
    let out (x : Int) (fl : Nat) : Nat × Nat × Nat :=
      let (y, sat) := clampTo t x
      ((y % 2 ^ tagBits t).toNat, fl, sat)
    match v with
    | .int x => out x 0
    | .flt (.nan _) => (0, NV, 0)
    | .flt (.inf n) => out (if n then -2 ^ 64 else 2 ^ 64) 0
    | .flt (.fin n mg e) =>
      let (r, nx) := roundAt m n mg e 0
      out (if n then -(r : Int) else r) (if nx then NX else 0)
  else
    let (b, fl) := deliver t m ovf v
    (b, fl, 0)

/-- ZRD for element (i, j) (10 R234). -/
def MPrep.readElem (p : MPrep) (i j : Nat) (s : State) : State :=
  let z := s.core.acc (zKey p.f.z i j)
  let tile : Val := if p.f.int then .int (accInt z) else .flt (accFloat z)
  let (v, f1) := if p.f.scl then (let (x, fl) := fMul tile.f (p.a (i * p.k)).f; (Val.flt x, fl)) else (tile, 0)
  let (b, f2, vx) := zrdGive p.f.ttag ((p.h.modeOf p.f).getD .rne) p.f.ovf v
  let poison := p.f.scl && p.h.poisonBit p.f.vs1.toNat (i * p.k)
  ((s.withHart (fun h => h.setElem p.f.vd.toNat p.f.ttag (i * p.k + j) b poison)).elemFlags poison (f1 ||| f2) vx)

/-- ZWR for row `i` (10 R235). -/
def MPrep.writeTerm (p : MPrep) (i : Nat) (k : Core) : Core × Nat :=
  k.update (fun j _ =>
    match p.a (i * p.k + j) with
    | .int v => if p.f.int then (BitVec.ofInt 80 v, 0) else accOf (FVal.ofInt v)
    | .flt v => accOf v) (zKey p.f.z i) (p.cols.filter (· < p.k)) 0

/-- A core changed by a row, with the flags its accumulations raise and the dirty bits of what it writes (09 R208, R213). -/
def State.rowUpdate (s : State) (r : Core × Nat) (dirty : Nat) : State := (s.withCore (fun _ => r.1.dirty dirty)).raiseF r.2

/-- The whole update of row `i` takes effect (09 R208). DESIGN CHOICE (log entry 70): the tile of MRANK and ZWR counts as written (09 R213) also where
cm selects no column below vl. -/
def MPrep.rowDo (p : MPrep) (i : Nat) (s : State) : State :=
  let z := 2 ^ p.f.z
  let id := p.rowId i
  let slice := p.item s.cluster id p.slice.1 p.slice.2
  match p.i with
  | .mopk _ =>
    match p.take with
    | some t => s.rowUpdate (p.baseTerm s.cluster t i s.core) z
    | none => s
  | .mopkAdapter _ =>
    match p.take with
    | some t =>
      let s := s.rowUpdate (p.baseTerm s.cluster t i s.core) z
      match slice with
      | some x => if id = noAdapter then s else s.rowUpdate (p.adapterTerm x i s.core) 16
      | none => s
    | none => s
  | .mrank _ => s.rowUpdate (p.rankTerm i s.core) z
  | .adfold f =>
    let s := match slice with
      | some x => if id = noAdapter then s else s.rowUpdate (p.foldTerm x i s.core) z
      | none => s
    if f.kp then s else s.rowUpdate (s.core.clearZt i, 0) 16
  | .zrd f =>
    let js := p.cols.filter (· < p.k)
    let s := js.foldl (fun s j => p.readElem i j s) s
    if js.isEmpty then s else s.withHart (fun h => { h with vtag := Tab.put 0 h.vtag f.vd.toNat f.ttag })
  | .zwr _ => s.rowUpdate (p.writeTerm i s.core) z
  | _ => s

/-! ### Passes (09 R208 to R211) -/

/-- Row `i` is complete (09 R208). -/
def Core.rowDone (c : Core) (i : Nat) : Core := { c with zrdone := withBits c.zrdone i 1 1 }

/-- Rows `g` at a time. -/
def groupsOf (g : Nat) : Nat → List Nat → List (List Nat)
  | 0, _ => []
  | n + 1, l => if l.isEmpty then [] else l.take (max g 1) :: groupsOf g n (l.drop (max g 1))

/-- A word stops between passes: rv is set (09 R210). -/
def State.markStopped (s : State) : State := s.withCore (fun c => c.setRv true)

/-- A stop at a row: items that faulted leave Bunting, so that the row's re-execution fills them afresh. -/
def MPrep.stopRow (p : MPrep) (i : Nat) (t : Trap) (s : State) : MOut :=
  let id := p.rowId i
  .stop (s.withCluster (fun c => { c with
    bunting := c.bunting.filter (fun x => !((x.fault.isSome || x.poison || !x.faults.isEmpty || x.cells.any (·.testBit 16))
      && decide (x.asid = p.h.asid) && x.id = id && x.mid = adMid p.h.adbase)) })).markStopped t

/-- The items of the row become the most recently used (09 R207). -/
def MPrep.touch (p : MPrep) (i : Nat) (c : Cluster) : Cluster :=
  if p.adapts then
    let used (x : BItem) : Bool := decide (x.asid = p.h.asid) && x.id = p.rowId i && x.mid = adMid p.h.adbase
      && (decide (x.kind = .entry) || (decide (x.kind = p.slice.1) && x.blk = p.slice.2))
    { c with bunting := c.bunting.filter used ++ c.bunting.filter (fun x => !used x) }
  else c

/-- Fills start for missing items, one for rows that share an item (09 R208). -/
def MPrep.startFill (p : MPrep) (s : State) (m : MissRow) : State :=
  s.withCluster (fun c =>
    if c.fills.any (fun f => f.item.is p.h.asid m.id (adMid p.h.adbase) m.kind m.blk) then c
    else
      { c with
        fills := c.fills ++
          [⟨⟨p.h.asid, m.id, adMid p.h.adbase, m.kind, m.blk, adRank p.h.adbase, 0, [], none, false, []⟩, s.cur, adBase p.h.adbase, p.h.ptbase,
            p.h.level, false⟩] })

/-- The misses of some rows. -/
def missesOf (rs : List (Nat × RowState)) : List MissRow := rs.flatMap (fun r => match r.2 with | .miss ms => ms | _ => [])

/-- The first row of a pass that stops the word. -/
def stopOf (rs : List (Nat × RowState)) : Option (Nat × Trap) :=
  rs.findSome? (fun r => match r.2 with | .stop t => some (r.1, t) | _ => none)

/-- A residue failure that strikes this pass (20 R395): counted; the pass runs again with the same result. -/
def MPrep.residue (p : MPrep) (s : State) : State :=
  match s.hart.hwError, p.take with
  | some .residue, some t => (s.residueFailure (clusterOf s.cur) t.w).withHart (fun h => { h with hwError := none })
  | _, _ => s

/-- Rows of a pass take effect; `cost i` is what row `i` adds to amiss (09 R208, R209). -/
def MPrep.carry (p : MPrep) (cost : Nat → Nat) (rows : List Nat) (s : State) : State :=
  rows.foldl (fun s i =>
    ((p.rowDo i s).withCluster (p.touch i)).withCore (fun c => c.rowDone i)
      |>.withHart (fun h => { h with amiss := h.amiss + word (cost i) })) (p.residue s)

/-- A row that has not had its first-time pass. -/
def rowFirst (i : Nat) : MissRow := ⟨i, noAdapter, .entry, 0, .first, false⟩

/-- A row that has missed and waits for a later replay pass, as far as it is marked. -/
def rowLater (i : Nat) : MissRow := ⟨i, noAdapter, .entry, 0, .later, false⟩

/-- Was a fill that row `i` waited for invalidated (24 R439, A1-E01)? -/
def twiceRow (marks : List MissRow) (i : Nat) : Bool := marks.any (fun m => m.row = i && m.twice)

/-- The rows of the replay passes that wait: those of the next pass and of the later ones, each with what it misses and what it was marked with. -/
def MPrep.waiters (p : MPrep) (marks : List MissRow) (grp later : List Nat) (s : State) : List MissRow :=
  let of (t : RowTurn) (rows : List Nat) : List MissRow :=
    (missesOf (rows.map (fun i => (i, p.rowState s.cluster i)))).map (fun m => { m with turn := t, twice := twiceRow marks m.row })
  of .now grp ++ of .later later ++ ((grp ++ later).filter (twiceRow marks)).map (fun i => { rowLater i with twice := true })

/-- A pass of a word whose slot has gone into error since it was taken stops the word: its reload failed, or its macro is retired (20 R396). -/
def MPrep.lostSlot (p : MPrep) (s : State) : Option Trap :=
  match p.take with
  | some t =>
    let bad (n : Nat) : Bool := decide ((s.cluster.slot n).content = .error)
    if bad t.w || (is16 t.tag && bad (t.w + 1)) then some ⟨22, word t.w⟩ else none
  | none => none

/-- The turn ends between two passes (19 R369): the word stops for an interrupt, or waits for the hart's next turn with the rows it has left. -/
def State.betweenPasses (s : State) (take : Option SlotTake) (rows : List MissRow) : MOut :=
  if s.asyncDue.isSome then .async s.markStopped else .wait s (.fill take rows)

/-- The first-time passes (09 R208): the machine and the rows that missed, or an end for now. `marks` is what is known of the rows. -/
def MPrep.firstPasses (p : MPrep) (marks : List MissRow) : List (List Nat) → State → List Nat → MOut × List Nat
  | [], s, missed => (.done s, missed)
  | grp :: rest, s, missed =>
    if let some t := p.lostSlot s then (.stop s.markStopped t, [])
    else if s.takeRepairs p.take then (.wait s (.fill p.take ((grp :: rest).flatten.map rowFirst ++ p.waiters marks [] missed s)), [])
    else
      let rs := grp.map (fun i => (i, p.rowState s.cluster i))
      match stopOf rs with
      | some (i, t) => (p.stopRow i t s, [])
      | none =>
        let s := (missesOf rs).foldl p.startFill s
        let s := p.carry (fun _ => 0) ((rs.filter (fun r => decide (r.2 = .go))).map (·.1)) s
        let missed := missed ++ (rs.filter (fun r => decide (r.2 ≠ .go))).map (·.1)
        if rest.isEmpty && missed.isEmpty then (.done s, [])
        else
          match s.stopAt [0] with
          | (s, some _) => (s.betweenPasses p.take (rest.flatten.map rowFirst ++ p.waiters marks [] missed s), [])
          | (s, none) => p.firstPasses marks rest s missed

/-- The replay passes (09 R208): each starts when its items are there, and the word waits until then. -/
def MPrep.replayPasses (p : MPrep) (marks : List MissRow) : List (List Nat) → State → MOut
  | [], s => .done s
  | grp :: rest, s =>
    if let some t := p.lostSlot s then .stop s.markStopped t
    else if s.takeRepairs p.take then .wait s (.fill p.take (p.waiters marks grp rest.flatten s))
    else
      let rs := grp.map (fun i => (i, p.rowState s.cluster i))
      match stopOf rs with
      | some (i, t) => p.stopRow i t s
      | none =>
        let ms := missesOf rs
        if !ms.isEmpty then
          let s := ms.foldl p.startFill s
          .wait s (.fill p.take (p.waiters marks grp rest.flatten s))
        else
          let s := p.carry (fun i => if twiceRow marks i then 2 else 1) grp s
          if rest.isEmpty then .done s
          else
            match s.stopAt [0] with
            | (s, some _) => s.betweenPasses p.take (p.waiters marks [] rest.flatten s)
            | (s, none) => p.replayPasses marks rest s

/-- The word completes: zrdone and rv are cleared (09 R211). -/
def State.wordDone (s : State) : State := s.withCore (fun c => { c with zrdone := 0 }.setRv false)

/-- What ZRD leaves in vpoison for the rows it has written (08 R163). -/
def MPrep.poisonNote (p : MPrep) (rows : List Nat) (s : State) : State :=
  match p.i with
  | .zrd f =>
    let js := p.cols.filter (· < p.k)
    let bad := rows.filter (fun i => f.scl && p.h.poisonBit f.vs1.toNat (i * p.k))
    match bad, js with
    | i :: _, j :: _ => s.withHart (fun h => { h with vpoison := poisonRecord f.vd.toNat (i * p.k + j) (bad.length * js.length) })
    | _, _ => s
  | _ => s

/-- The rows of a word that are not yet complete: those before their first-time pass, then the others, which are replayed (09 R208). `marks` is what a
word that waited knows of its rows. -/
def MPrep.run (p : MPrep) (replay : Bool) (marks : List MissRow) (s : State) : MOut :=
  let todo := p.rows.filter (fun i => !s.core.zrdone.toNat.testBit i)
  let g := if p.channels then bits s.hart.mgrant 0 7 else 1
  let first := if replay then todo.filter (fun i => marks.any (fun m => m.row = i && decide (m.turn = .first))) else todo
  let out :=
    match p.firstPasses marks (groupsOf g 64 first) s (todo.filter (fun i => !first.contains i)) with
    | (.done s, missed) => p.replayPasses marks (groupsOf g 64 missed) s
    | (o, _) => o
  let note (s : State) : State := p.poisonNote (p.rows.filter (fun i => s.core.zrdone.toNat.testBit i)) s
  match out with
  | .done s => .done (note s).wordDone
  | .stop s t => .stop (note s) t
  | .async s => .async (note s)
  | .wait s w => .wait (note s) w

/-- A poisoned element of MRANK's row of B stops the word before its first pass (10 R232). -/
def MPrep.rankPoison (p : MPrep) : Bool :=
  match p.i with
  | .mrank f => p.cols.any (fun j => j < p.k && p.h.poisonBit f.vs2.toNat (f.kk * p.k + j))
  | _ => false

/-- The word past its checks: it ignores zrdone unless rv is set (09 R211). DESIGN CHOICE (log entry 77): its rows begin without the marks of 24 R439,
A1-E01, that a word stopped before its replay had. -/
def MPrep.begin (p : MPrep) (s : State) : MOut :=
  let s := if s.core.rv then s else s.withCore (fun c => { c with zrdone := 0 })
  if p.rankPoison then .stop s.markStopped ⟨33, 0⟩ else p.run false [] s

/-- Has the word no row or column to act on (10 R228)? -/
def MPrep.idle (p : MPrep) : Bool := p.k = 0 || p.rows.isEmpty || p.cols.isEmpty

/-- A word that needs a slot takes it at its first pass, after any wait (09 R197, R215). -/
def MPrep.withSlot (p : MPrep) (s : State) : MOut :=
  if !p.mopk then p.begin s
  else
    match s.slotView p.f.w with
    | .loading => .wait s (.slot p.f.w)
    | .bad => .stop s ⟨22, word p.f.w⟩
    | .ready t => if p.pairOk t.tag then { p with take := some t }.begin s else .stop s (p.tagTrap t.tag)

/-- A matrix word runs, from its checks on, or from the wait the hart was in (09 R202, R208 to R211). `at_` is its address, `tags` what the words
before it in its convoy make of their registers' tags, `h0` the hart at its start, whose operands it reads also where it goes on between rows (08
R159; 09 R211; 10 R236). DESIGN CHOICE (log entry 54): a MOPK with no row or column to act on raises code 22 for a bad slot, and does not wait for
one that loads. -/
def matrixWord (i : Instr) (f : Fields) (at_ : Word) (tags : List (Nat × Nat)) (h0 : Hart) (s : State) : MOut :=
  let wait := s.hart.run
  let s := s.withHart Hart.resume
  match wait with
  | .waiting (.fill take rows) => (⟨i, f, h0.resume, take, tags⟩ : MPrep).run true rows s
  | .waiting (.slot _) => (⟨i, f, h0.resume, none, tags⟩ : MPrep).withSlot s
  | _ =>
    let p : MPrep := ⟨i, f, h0.resume, none, tags⟩
    match p.issueCheck s at_ with
    | some t => .stop s t
    | none =>
      if p.idle then
        (if p.mopk && decide (s.slotView f.w = .bad) then .stop s ⟨22, word f.w⟩ else .done s.wordDone)
      else p.withSlot s

end Sys2Proof.Machine
end

