-- ==== Sys2Proof/Machine/Vfetch.lean ====
section
/-! DEFINITION. VFETCH (05 R118 to R123): the block, its convoys and repetitions, their stops (05 R123; 09 R202; 19 R369), and the retirement of a
pending VFETCH (05 R122). -/

namespace Sys2Proof.Machine

/-- How part of a block ends: the machine goes on, or the VFETCH has come to a stop in this state. -/
inductive Flow
  | go (s : State)
  | halt (s : State)
  deriving DecidableEq, Repr

/-- Go on with what follows. -/
def Flow.andThen (r : Flow) (k : State → Flow) : Flow :=
  match r with
  | .go s => k s
  | .halt s => .halt s

/-! ### Stops (05 R123; 19 R369) -/

/-- Where a VFETCH resumes: repetition `j`, word `w`, serial `e` (05 R123). -/
def State.resumeAt (s : State) (j w e : Nat) : State :=
  s.withHart (fun h => { (h.setVtype 24 12 j).setVtype 40 6 w with vstart := word e })

/-- The VFETCH stops by a trap; a check mismatch is logged, and counted, as it is taken (20 R390). -/
def stopTrap (s : State) (j w e : Nat) (t : Trap) : Flow :=
  let s := (s.resumeAt j w e).trap t
  .halt (if t.code = 35 then s.mismatch (bits t.tval 16 4) else s)

/-- The turn ends at a boundary that the VFETCH has come to: it stops for an asynchronous interrupt, or goes on in the hart's next turn. -/
def stopAsync (s : State) (j w e : Nat) : Flow :=
  let s := s.resumeAt j w e
  .halt (match s.asyncDue with
    | some c => s.takeAsync c
    | none => s.withHart (fun h => { h with run := .waiting (.boundary 0) }))

/-- The turn ends at the start of a convoy, of which `inner` is a serial at which an interrupt stops it. Nothing of the convoy is performed yet: the
element reads of an ordered load have a descending order (15 R319, R324), so that no other agent acts between those of a convoy that is not stopped.
-/
def waitInside (s : State) (j w e inner : Nat) : Flow :=
  .halt ((s.resumeAt j w e).withHart (fun h => { h with run := .waiting (.boundary inner) }))

/-! ### A convoy without a matrix word -/

/-- A word of a convoy with its offset in the block. -/
abbrev BWord := Nat × Instr

/-- The words of a convoy prepared in block order, each under the tags its predecessors give (05 R118); a refusal ends the list. -/
def prepAll (h : Hart) (at_ : Nat → Word) : List BWord → (Nat → Nat) → List Prep × Option Trap
  | [], _ => ([], none)
  | (off, i) :: rest, tags =>
    match prepWord h (at_ off) off i tags with
    | .error t => ([], some t)
    | .ok p =>
      let writesV := match blockShape i with | some sh => decide (sh.vd = .vec) | none => false
      let (ps, t) := prepAll h at_ rest (fun r => if writesV && r = p.f.vd.toNat then p.rt else tags r)
      (p :: ps, t)

/-- The registers and the mask each word reads as they were at the convoy's start: those that it or a later word writes (08 R159). -/
def keepOld : List Prep → List Prep
  | [] => []
  | p :: ps =>
    let later := ps.flatMap (fun q => writeSet q.i)
    { p with old := p.old ++ later.filterMap (fun r => match r with | .v n => some n | _ => none), oldMask := later.contains (.m p.f.pm.toNat) }
      :: keepOld ps

/-- How far the word at `a` in repetition `j` had come when its convoy was stopped at serial `e` (08 R165). -/
def Hart.partOf (h : Hart) (a : Word) (j e : Nat) : Option Partial :=
  h.partials.find? (fun q => decide (q.at_ = a) && q.rep = j && q.serial = e)

/-- The number of the ordered store at offset `off` in repetition `j` that begins in this step (15 R324). -/
def State.storeNumber (s : State) (j off : Nat) : Nat := ((s.tick + 1) * 4096 + j) * 64 + off

/-- The words with what the machine adds at the convoy's start: how far a resumed one has come, the number of its ordered store (15 R324), the scalars
it read before a later word of the convoy wrote them (07 R159), and, found with the words before, H pages (13 R289) and a reduction's active elements
(08 R179). `g` is the size of a group, `h0` the hart at the convoy's start. -/
def State.attachFrom (s : State) (h0 : Hart) (at_ : Nat → Word) (j g : Nat) : List Prep → List Prep → List Prep
  | _, [] => []
  | before, p :: ps =>
    let q := s.hart.partOf (at_ p.off) j p.start
    let later := ps.flatMap (fun q => writeSet q.i)
    let was (n : Nat) (cur : Word) (f : Partial → Word) : Word := if later.contains (.x n) then (q.map f).getD cur else cur
    let p := { p with
      hpage := p.onHPage h0 g before s, live := p.isLive h0 g before s, wtag := (q.map (·.wtag)).getD (s.storeNumber j p.off), part := q
      x := was p.f.xs.toNat p.x (·.x), x2 := was (p.f.xs.toNat + 1) p.x2 (·.x2) }
    p :: s.attachFrom h0 at_ j g (before ++ [p]) ps

/-- Serials of an element group (05 R116): G chunks at the widest width. -/
def groupSize (h : Hart) (ps : List Prep) : Nat := max 1 (h.g * 64 / (ps.foldl (fun w p => max w p.width) 4))

/-- The words of a convoy as they run. -/
def State.attach (s : State) (h0 : Hart) (at_ : Nat → Word) (j : Nat) (ps : List Prep) : List Prep :=
  s.attachFrom h0 at_ j (groupSize s.hart ps) [] (keepOld ps)

/-! ### The start of a convoy that was stopped (08 R159, R165) -/

/-- The bits a stopped convoy overwrote in a register, put back unless the register has been written since. -/
def Overwritten.back (o : Overwritten) (t : Tab Nat) : Tab Nat :=
  Tab.modify 0 t o.reg (fun x => if x &&& o.mask = o.was ^^^ o.mask then x ^^^ o.mask else x)

/-- What has changed from one table to another. -/
def overwritten (old new : Tab Nat) : List Overwritten :=
  ((old ++ new).map (·.1)).eraseDups.filterMap (fun r =>
    let d := Tab.get 0 old r ^^^ Tab.get 0 new r
    if d = 0 then none else some ⟨r, d, Tab.get 0 old r &&& d⟩)

/-- The hart as the convoy at `a` in repetition `j` found it at its start, where it was stopped at vstart. -/
def Hart.asStarted (h : Hart) (a : Word) (j : Nat) : Hart :=
  match h.stopped.find? (fun k => decide (k.at_ = a) && k.rep = j && k.serial = h.start) with
  | some k =>
    { h with
      v := k.v.foldl (fun t o => o.back t) h.v
      vpois := k.vpois.foldl (fun t o => o.back t) h.vpois
      m := k.m.foldl (fun t o => o.back t) h.m
      vtag := k.tags.foldl (fun t x => if Tab.get 0 t x.1 = x.2.2 then Tab.put 0 t x.1 x.2.1 else t) h.vtag }
  | none => h

/-- The hart keeps what the convoy at `a`, which found the vector state of `h0`, has changed of it, if anything, when it stops at serial `e`. -/
def Hart.keepStart (h h0 : Hart) (a : Word) (j e : Nat) : Hart :=
  let tags := ((h0.vtag ++ h.vtag).map (·.1)).eraseDups.filterMap (fun r => if h0.tagOf r = h.tagOf r then none else some (r, h0.tagOf r, h.tagOf r))
  let k : Stopped := ⟨a, j, e, overwritten h0.v h.v, overwritten h0.vpois h.vpois, overwritten h0.m h.m, tags⟩
  let rest := h.stopped.filter (fun k => decide (k.at_ ≠ a))
  { h with stopped := if k.v.isEmpty && k.vpois.isEmpty && k.m.isEmpty && k.tags.isEmpty then rest else k :: rest }

/-- May the word stop for an interrupt at serial `e` (08 R165)? -/
def Prep.boundary (p : Prep) (g e : Nat) : Bool :=
  match p.i with
  | .vredsum _ => true
  | .vredtsum _ => e % p.cols = 0
  | .mand _ => false | .mor _ => false | .mxor _ => false | .mandn _ => false | .mpopc _ => false | .mfirst _ => false | .mfromp _ => false
  | _ => e % g = 0

/-- The boundaries inside a convoy (08 R165). -/
def boundaries (ps : List Prep) (g start total : Nat) : List Nat :=
  (List.range total).filter (fun e => start < e && ps.all (fun p => p.boundary g e))

/-- A trim takes place as its convoy ends (13 R274): the lowest trimmed serial becomes vl. -/
def applyTrim (rs : List (Prep × WordRun)) (s : State) : State :=
  match (rs.filterMap (fun r => r.2.trimmed)) with
  | [] => s
  | e :: es => s.withHart (fun h => { h.setVtype 16 1 1 with vl := word (es.foldl min e) })

/-- Does the word keep its running value in the machine, not in X(xs) (08 R182)? -/
def keepsCount : Instr → Bool
  | .mpopc _ => true | .mfirst _ => true | _ => false

/-- How far a word of a convoy that stops at serial `e` has come is kept for its resumption (08 R165; log entry 58). -/
def Prep.partAt (p : Prep) (r : WordRun) (at_ : Nat → Word) (j e : Nat) : Partial where
  at_ := at_ p.off
  rep := j
  serial := e
  x := p.x
  x2 := p.x2
  acc := if keepsCount p.i then r.acc else 0
  held := keepsCount p.i && r.held
  met := r.met || p.wasMet
  trimmed := r.trimmed
  pcount := r.pcount
  pfirst := r.pfirst
  wtag := p.wtag

/-- Nothing of the words of a convoy is kept: it has completed, or stops anew. -/
def Hart.forget (h : Hart) (at_ : Nat → Word) (ps : List Prep) : Hart :=
  let mine (a : Word) : Bool := ps.any (fun p => decide (a = at_ p.off))
  { h with partials := h.partials.filter (fun q => !mine q.at_), stopped := h.stopped.filter (fun k => !mine k.at_) }

/-- What the words of a convoy that stops have done so far is kept. -/
def Hart.keepParts (h : Hart) (at_ : Nat → Word) (j e : Nat) (rs : List (Prep × WordRun)) : Hart :=
  let h := h.forget at_ (rs.map (·.1))
  { h with partials := rs.map (fun r => r.1.partAt r.2 at_ j e) ++ h.partials }

/-- A word as it is resumed: the poison of its elements above the stop, which it performs again, counts then (08 R163, R186). -/
def WordRun.withoutLoose (all below : Prep × WordRun) : Prep × WordRun :=
  (all.1, { all.2 with pcount := below.2.pcount, pfirst := below.2.pfirst })

/-- The words of a convoy that stopped at serial `e` in repetition `j`; `sync` says that a trap stopped it (05 R123; 08 R165, R186, R189). `h0` is
the hart at the convoy's start, `full` has the whole results of the words that deliver them at once. -/
def stopWords (h0 full : Hart) (at_ : Nat → Word) (j e total : Nat) (sync : Bool) (rs : List (Prep × WordRun)) (s : State) : State :=
  let (s, all) := if sync then runLooseAll h0 full e total [] rs s else (s, rs)
  let s := all.foldl finishStop (all.foldl (finishWord false) s)
  s.withHart (fun h => (h.keepParts at_ j e (all.zipWith WordRun.withoutLoose rs)).keepStart h0 (match rs with | [] => 0 | r :: _ => at_ r.1.off) j e)

/-- The stop of the words before one that is refused, where one of them stops at the convoy's first serial (08 R189). -/
def earlierStop (at_ : Nat → Word) (j : Nat) (ps : List Prep) (s : State) : Option Trap :=
  match ps with
  | [] => none
  | p :: _ =>
    let h0 := s.hart.asStarted (at_ p.off) j
    match (runBelow h0 (groupSize s.hart ps) p.start (min p.total (p.start + 1)) (p.start + 1) (s.attach h0 at_ j ps) s).2.2 with
    | some (_, t) => some t
    | none => none

/-- A deprecated word, alone in its convoy (19 R374 to R376). -/
def runDeprecated (at_ : Nat → Word) (j : Nat) (p : Prep) (s : State) : Flow :=
  let p := { p with part := s.hart.partOf (at_ p.off) j p.start }
  match p.deprWord (groupSize s.hart [p]) s with
  | .done s => .go (s.withHart (fun h => { h.forget at_ [p] with vstart := 0 }))
  | .stop s r e => stopAsync (s.withHart (fun h => h.keepParts at_ j e [(p, r)])) j p.off e

/-- Does the word load from memory? -/
def Prep.loads (p : Prep) : Bool :=
  match p.i with
  | .vld _ => true | .vlds _ => true | .vldx _ => true | _ => false

/-- A load of a convoy makes its element reads after those of the memory word before it, and after that word's acquire (15 R319, R321), though the
convoy runs group by group (05 R118): what those reads and that acquire bring to the hart's own point is there from the start. -/
def State.readAhead (s : State) (h0 : Hart) (g start total : Nat) (ps : List Prep) : State :=
  match ps.filter (fun p => isMemWord p.i) with
  | [a, b] =>
    if b.loads && (a.acquires || (a.loads && a.scope ≠ .hart)) then
      let (t, rs, _) := runTo h0 g start total (ps.takeWhile (fun p => p.off ≠ a.off) ++ [a]) s total total none
      let s := if a.loads then { s with pend := t.pend } else s
      if a.acquires && (a.wasMet || rs.any (fun r => r.1.off = a.off && r.2.met)) then s.acquire (.hart s.cur) (scopeOf a.f.sc) else s
    else s
  | _ => s

/-- A convoy, or a phase of one, whose first word has offset `w`, in repetition `j`, from vstart on (05 R118, R123); `tags` are those that an earlier
phase gives its registers. -/
def runConvoy (at_ : Nat → Word) (j w : Nat) (tags : List (Nat × Nat)) (ws : List BWord) (s : State) : Flow :=
  let inner := s.hart.run.inner
  let s := s.withHart Hart.resume
  let h0 := s.hart.asStarted (at_ w) j
  match prepAll s.hart at_ ws (h0.tagVia tags) with
  | (ps, some t) => stopTrap s j w s.hart.start ((earlierStop at_ j ps s).getD t)
  | ([], none) => .go (s.withHart (fun h => { h with vstart := 0 }))
  | (p :: ps, none) =>
    if isDeprecated p.i then runDeprecated at_ j p s
    else
      let g := groupSize s.hart (p :: ps)
      let inside := boundaries (p :: ps) g p.start p.total
      let stop := if s.asyncDue.isSome then inside.find? (fun e => decide (e = inner)) else none
      let (s, due) := if s.hart.stopIn.isNone || stop.isSome then (s, none) else s.stopAt inside
      if due.isSome then waitInside s j w p.start (due.getD 0)
      else
      let ps := s.attach h0 at_ j (p :: ps)
      let (ps, core, m) := issueChecks s.hart ps s.core (match s.hart.hwError with | some (.mismatch e) => some e | _ => none)
      let s := s.withCore (fun _ => core)
      let s := if m.isNone then s.withHart (fun h => { h with hwError := match h.hwError with | some (.mismatch _) => none | x => x }) else s
      let full := wholeResults h0 p.start p.total ps s
      match runTo h0 g p.start p.total ps (s.readAhead h0 g p.start p.total ps) p.total (stop.getD p.total) none with
      | (s', rs, some (e, t)) => stopTrap (stopWords h0 full at_ j e p.total true rs s') j w e t
      | (s', rs, none) =>
        match stop with
        | some e => stopAsync (stopWords h0 full at_ j e p.total false rs s') j w e
        | none => .go ((applyTrim rs (rs.foldl (finishWord true) s')).withHart (fun h => { h.forget at_ ps with vstart := 0 }))

/-! ### Convoys and repetitions -/

/-- The serial at which a matrix word stops (09 R202): 0; where its mode or its tags refuse it, vstart is unchanged (05 R114; 07 R160). -/
def matrixStart (h : Hart) (t : Trap) : Nat := if t.code = 2 ∨ t.code = 18 then h.start else 0

/-- The matrix word of a convoy in its phases (09 R202), under the tags `tags` of the phase before. -/
def runMatrix (at_ : Nat → Word) (j : Nat) (tags : List (Nat × Nat)) (m : BWord) (s : State) : Flow :=
  match blockParts m.2 with
  | none => .go s
  | some (_, f) =>
    let h0 := s.hart.asStarted (at_ m.1) j
    let keep (e : Nat) (s : State) : State := s.withHart (fun h => h.keepStart h0 (at_ m.1) j e)
    match matrixWord m.2 f (at_ m.1) tags h0 s with
    | .done s => .go (s.withHart (fun h => { h with vstart := 0, stopped := h.stopped.filter (fun k => decide (k.at_ ≠ at_ m.1)) }))
    | .stop s t => stopTrap (keep (matrixStart s.hart t) s) j m.1 (matrixStart s.hart t) t
    | .async s => stopAsync (keep 0 s) j m.1 0
    | .wait s w => .halt (((keep 0 s).resumeAt j m.1 0).withHart (fun h => { h with run := .waiting w }))

/-- The words before the matrix word, the matrix word and those after it (09 R202). -/
def splitMatrix : List BWord → List BWord × Option BWord × List BWord
  | [] => ([], none, [])
  | x :: xs => if isMatrixWord x.2 then ([], some x, xs) else let (a, m, b) := splitMatrix xs; (x :: a, m, b)

/-- The tags that words give the vector registers they write, the last one's first (05 R118). -/
def givenTags (ps : List Prep) : List (Nat × Nat) :=
  (ps.filterMap (fun p =>
    match blockShape p.i with
    | some sh => if sh.vd = .vec then some (p.f.vd.toNat, p.rt) else none
    | none => none)).reverse

/-- The tag that a matrix word gives the register it writes (10 R234). -/
def matrixTags (i : Instr) : List (Nat × Nat) :=
  match i with
  | .zrd f => [(f.vd.toNat, f.ttag)]
  | _ => []

/-- The block under way keeps the tags that the next phase of a convoy reads under. -/
def State.noteTags (s : State) (tags : List (Nat × Nat)) : State :=
  s.withHart (fun h => { h with block := h.block.map (fun k => { k with tags := tags }) })

/-- A phase of a convoy after another one, at whose start the hart may stop for an interrupt (08 R165; 09 R202); `first` says that no phase came
before in this VFETCH. -/
def convoyPhase (j w : Nat) (first : Bool) (tags : List (Nat × Nat)) (k : State → Flow) (s : State) : Flow :=
  let s := s.noteTags tags
  match (if first then (s, none) else s.stopAt [0]) with
  | (s, some _) => stopAsync s j w 0
  | (s, none) => k s

/-- A convoy resumed at word `wofs` (05 R118, R123; 09 R202). -/
def runWhole (at_ : Nat → Word) (j wofs : Nat) (ws : List BWord) (s : State) : Flow :=
  let head (l : List BWord) : Nat := match l with | [] => 0 | x :: _ => x.1
  let kept := match s.hart.block with | some k => k.tags | none => []
  match splitMatrix ws with
  | (pre, none, _) => convoyPhase j (head pre) true [] (runConvoy at_ j (head pre) [] pre) s
  | (pre, some m, post) =>
    let skip := pre.isEmpty || head ws < wofs
    let t1 := if head ws < wofs then kept else givenTags (prepAll s.hart at_ pre (s.hart.asStarted (at_ (head pre)) j).tagOf).1
    let t2 := if m.1 < wofs then kept else matrixTags m.2 ++ t1
    let ph1 := if skip then Flow.go s else convoyPhase j (head pre) true [] (runConvoy at_ j (head pre) [] pre) s
    let ph2 := if m.1 < wofs then ph1 else ph1.andThen (convoyPhase j m.1 skip t1 (runMatrix at_ j t1 m))
    if post.isEmpty then ph2 else ph2.andThen (convoyPhase j (head post) (m.1 < wofs) t2 (runConvoy at_ j (head post) t2 post))

/-- Does a resumption at word `wofs` pass the convoy over? -/
def passed (wofs : Nat) (ws : List BWord) : Bool := ws.all (fun x => x.1 < wofs)

/-- The convoys of one repetition in block order; between convoys the hart may stop for an interrupt (08 R165). `fresh` says that none has run
yet in this VFETCH. -/
def runConvoys (at_ : Nat → Word) (j wofs : Nat) : Bool → List (List BWord) → State → Flow
  | _, [], s => .go s
  | fresh, ws :: rest, s =>
    if passed wofs ws then runConvoys at_ j wofs fresh rest s
    else
      match (if fresh then (s, none) else s.stopAt [0]) with
      | (s, some _) => stopAsync s j (match ws with | [] => 0 | x :: _ => x.1) 0
      | (s, none) => (runWhole at_ j wofs ws s).andThen (runConvoys at_ j wofs false rest)

/-- The convoys of a block's words, STOP left out (05 R118). -/
def convoysOf : Nat → List BWord → List Instr → List (List BWord)
  | _, cur, [] => if cur.isEmpty then [] else [cur]
  | k, cur, i :: is => if endsConvoy i then (cur ++ [(k, i)]) :: convoysOf (k + 1) [] is else convoysOf (k + 1) (cur ++ [(k, i)]) is

/-- `n` repetitions from repetition `j` on, the first resumed at word `wofs` (05 R119, R121). -/
def runReps (at_ : Nat → Word) (stg : Nat) (cs : List (List BWord)) : Nat → Nat → Nat → Bool → State → Flow
  | 0, _, _, _, s => .go s
  | n + 1, j, wofs, fresh, s =>
    let ws := cs.map (fun c => c.map (fun x => (x.1, x.2.renamed stg j s.hart.vcount)))
    (runConvoys at_ j wofs fresh ws s).andThen (fun s => runReps at_ stg cs n (j + 1) 0 (fresh && (ws.all (passed wofs))) s)

/-- The words of a checked block, from vtype.rep, wofs and vstart on (05 R119); the VFETCH is then pending, and the scalar pipeline runs ahead
(05 R122). -/
def runBlock (k : HeldBlock) (s : State) : Result :=
  let s := s.withHart (fun h => { h with block := some k })
  match runReps (fun i => k.base + word (8 * i)) k.stagger (convoysOf 0 [] k.words) (k.n - s.hart.rep) s.hart.rep s.hart.wofs true s with
  | .halt s => .next s
  | .go s =>
    .next (s.withHart (fun h =>
      { (h.setVtype 24 12 0).setVtype 40 6 0 with pc := h.pc + 4, ahead := some 0, aheadAt := s.tick, run := .running, block := none }))

/-- The tags that a stopped convoy of the block at `b` has left (log entry 58). -/
def Hart.blockTags (h : Hart) (b : Word) : List (Nat × Nat) :=
  match h.block with
  | some k => if k.base = b then k.tags else []
  | none => []

/-- Block decode and execution of the fetched words of the block at `b` (05 R119, R120; 07 R157). -/
def runWords (b : Word) (ws : List (BitVec 64)) (stg n : Nat) (s : State) : Result :=
  match checkBlock s.hart.vcount stg n 0 [] ws with
  | .error k => raise (s.withHart Hart.resume) 17 (b + word (8 * k))
  | .ok is => runBlock ⟨b, is, stg, n, s.hart.blockTags b⟩ s

/-- The word STOP (07 R155). -/
def stopWord : BitVec 64 := 0x0100000000000000

/-- The words of a block up to its first STOP, at most `n` more (05 R119; 07 R155). -/
def State.fetchBlock (s : State) : Nat → Word → Except Trap (List (BitVec 64))
  | 0, _ => .ok []
  | n + 1, b =>
    match s.fetch b 8 with
    | .error t => .error t
    | .ok w =>
      if BitVec.ofNat 64 w = stopWord then .ok [stopWord]
      else
        match s.fetchBlock n (b + 8) with
        | .error t => .error t
        | .ok ws => .ok (BitVec.ofNat 64 w :: ws)

/-- The requests of a block fetch at `b` to the HBM channels (13 R281). -/
def State.blockRequests (s : State) (b : Word) : State :=
  let n := match s.fetchBlock 64 b with
    | .ok ws => ws.length
    | .error _ => 64
  s.requestAll s.ctx .fetch ((List.range n).map (fun i => (b + word (8 * i), 8)))

/-- VFETCH (05 R119). -/
def execVfetch (xc : Reg) (stg : BitVec 3) (off : BitVec 17) (s0 : State) : Result :=
  let s := s0.withHart Hart.settle
  let r := s.withHart Hart.resume
  let n := if xc = 0 then 1 else (s.x xc).toNat
  if 4096 < n then illegal r (.vfetch xc stg off)
  else if s.hart.ill then raise r 16 0
  else if n = 0 then done r
  else
    let b := withBits s.hart.pc 0 3 0 + off17 off
    let s := (s0.blockRequests b).withHart Hart.settle
    orTrap (s.withHart Hart.resume) (s0.fetchBlock 64 b) fun ws => runWords b ws stg.toNat n s

/-- VFETCH_RETIRE (05 R122): the pending VFETCH and the instructions that ran ahead of it retire. -/
def execVfetchRetire (s : State) : Result := .next (s.withHart Hart.settle)

/-- May a matrix word that waits for its slot, for items or for the repair of a macro go on (09 R197, R208; 20 R396)? A VFETCH at a boundary may. -/
def State.matrixReady (s : State) : Bool :=
  match s.hart.run with
  | .waiting (.slot w) => decide (s.slotView w ≠ .loading)
  | .waiting (.fill t rows) =>
    let c := s.cluster
    !s.takeRepairs t
      && rows.all (fun m => decide (m.turn ≠ .now) || c.bunting.any (fun x => x.is s.hart.asid m.id (adMid s.hart.adbase) m.kind m.blk)
        || !c.fills.any (fun f => f.item.is s.hart.asid m.id (adMid s.hart.adbase) m.kind m.blk))
  | .waiting (.boundary _) => true
  | _ => false

/-- MATRIX_SLOT_READY (09 R197, R208): the matrix word that waits goes on where it stood, in the block as its VFETCH fetched it (05 R119); so does a
VFETCH at one of its boundaries. -/
def execMatrixSlotReady (s : State) : Result :=
  if s.matrixReady then
    match s.hart.block with
    | some k => runBlock k s
    | none => .next (s.withHart Hart.resume)
  else .next s

/-! ### A block word by itself -/

/-- The block address of a block word that runs by itself: the dword after the one that holds the VFETCH. -/
def State.loneBlock (s : State) : Word := withBits s.hart.pc 0 3 0 + 8

/-- A block word by itself: what `VFETCH x0` does over a block of this word and STOP (05 R119). -/
def runLone (i : Instr) (s : State) : Result :=
  let s := s.withHart Hart.settle
  if s.hart.ill then raise s 16 0
  else
    match encodeBlock i with
    | some w => runWords s.loneBlock (if w = stopWord then [w] else [w, stopWord]) 0 1 s
    | none => .next s

end Sys2Proof.Machine
end

