-- ==== Sys2Proof/Machine/VectorWords.lean ====
section
/-! DEFINITION. The meaning of each block word standing by itself: what `VFETCH x0` does over a block of this word and STOP (05 R119; 07 R155).
What a word makes of one element, or of one row, is the definition its convoy calls: elemVadd and its like, MPrep.rowDo. -/

namespace Sys2Proof.Machine

/-- STOP (07 R155): a block of STOP alone performs nothing. -/
def execStop (s : State) : Result := runLone .stop s

/-- VADD (08 R167). -/
def execVadd (f : Fields) (s : State) : Result := runLone (.vadd f) s

/-- VSUB (08 R167). -/
def execVsub (f : Fields) (s : State) : Result := runLone (.vsub f) s

/-- VMUL (08 R167). -/
def execVmul (f : Fields) (s : State) : Result := runLone (.vmul f) s

/-- VMULH (08 R167). -/
def execVmulh (f : Fields) (s : State) : Result := runLone (.vmulh f) s

/-- VDIV (08 R168). -/
def execVdiv (f : Fields) (s : State) : Result := runLone (.vdiv f) s

/-- VREM (08 R168). -/
def execVrem (f : Fields) (s : State) : Result := runLone (.vrem f) s

/-- VMIN (08 R167). -/
def execVmin (f : Fields) (s : State) : Result := runLone (.vmin f) s

/-- VMAX (08 R167). -/
def execVmax (f : Fields) (s : State) : Result := runLone (.vmax f) s

/-- VABS (08 R167). -/
def execVabs (f : Fields) (s : State) : Result := runLone (.vabs f) s

/-- VNEG (08 R167). -/
def execVneg (f : Fields) (s : State) : Result := runLone (.vneg f) s

/-- VFMA (08 R167). -/
def execVfma (f : Fields) (s : State) : Result := runLone (.vfma f) s

/-- VAND (08 R167). -/
def execVand (f : Fields) (s : State) : Result := runLone (.vand f) s

/-- VOR (08 R167). -/
def execVor (f : Fields) (s : State) : Result := runLone (.vor f) s

/-- VXOR (08 R167). -/
def execVxor (f : Fields) (s : State) : Result := runLone (.vxor f) s

/-- VSLL (08 R167). -/
def execVsll (f : Fields) (s : State) : Result := runLone (.vsll f) s

/-- VSRL (08 R167). -/
def execVsrl (f : Fields) (s : State) : Result := runLone (.vsrl f) s

/-- VSRA (08 R167). -/
def execVsra (f : Fields) (s : State) : Result := runLone (.vsra f) s

/-- VSADD (08 R167). -/
def execVsadd (f : Fields) (s : State) : Result := runLone (.vsadd f) s

/-- VSSUB (08 R167). -/
def execVssub (f : Fields) (s : State) : Result := runLone (.vssub f) s

/-- VCLZ (08 R167). -/
def execVclz (f : Fields) (s : State) : Result := runLone (.vclz f) s

/-- VPOPC (08 R167). -/
def execVpopc (f : Fields) (s : State) : Result := runLone (.vpopc f) s

/-- VSQRT (08 R167). -/
def execVsqrt (f : Fields) (s : State) : Result := runLone (.vsqrt f) s

/-- VRCP (08 R167). -/
def execVrcp (f : Fields) (s : State) : Result := runLone (.vrcp f) s

/-- VRSQ (08 R167). -/
def execVrsq (f : Fields) (s : State) : Result := runLone (.vrsq f) s

/-- VEXP2 (08 R167). -/
def execVexp2 (f : Fields) (s : State) : Result := runLone (.vexp2 f) s

/-- VLOG2 (08 R167). -/
def execVlog2 (f : Fields) (s : State) : Result := runLone (.vlog2 f) s

/-- VCMP (08 R169). -/
def execVcmp (f : Fields) (s : State) : Result := runLone (.vcmp f) s

/-- VSEL (08 R170). -/
def execVsel (f : Fields) (s : State) : Result := runLone (.vsel f) s

/-- VCVT (08 R171). -/
def execVcvt (f : Fields) (s : State) : Result := runLone (.vcvt f) s

/-- VSAT (08 R172). -/
def execVsat (f : Fields) (s : State) : Result := runLone (.vsat f) s

/-- VRNG (08 R173). -/
def execVrng (f : Fields) (s : State) : Result := runLone (.vrng f) s

/-- VID (08 R174). -/
def execVid (f : Fields) (s : State) : Result := runLone (.vid f) s

/-- VMV (08 R167). -/
def execVmv (f : Fields) (s : State) : Result := runLone (.vmv f) s

/-- VBCAST (08 R174). -/
def execVbcast (f : Fields) (s : State) : Result := runLone (.vbcast f) s

/-- VSLIDEUP (08 R175). -/
def execVslideup (f : Fields) (s : State) : Result := runLone (.vslideup f) s

/-- VSLIDEDN (08 R175). -/
def execVslidedn (f : Fields) (s : State) : Result := runLone (.vslidedn f) s

/-- VGATHERR (08 R175). -/
def execVgatherr (f : Fields) (s : State) : Result := runLone (.vgatherr f) s

/-- VCOMPRESS (08 R176). -/
def execVcompress (f : Fields) (s : State) : Result := runLone (.vcompress f) s

/-- VEXPAND (08 R176). -/
def execVexpand (f : Fields) (s : State) : Result := runLone (.vexpand f) s

/-- VINS (08 R177). -/
def execVins (f : Fields) (s : State) : Result := runLone (.vins f) s

/-- VEXT (08 R177). -/
def execVext (f : Fields) (s : State) : Result := runLone (.vext f) s

/-- VROWB (08 R175). -/
def execVrowb (f : Fields) (s : State) : Result := runLone (.vrowb f) s

/-- VREDSUM (08 R179). -/
def execVredsum (f : Fields) (s : State) : Result := runLone (.vredsum f) s

/-- VREDTSUM (08 R180). -/
def execVredtsum (f : Fields) (s : State) : Result := runLone (.vredtsum f) s

/-- VREDMAX (08 R181). -/
def execVredmax (f : Fields) (s : State) : Result := runLone (.vredmax f) s

/-- VREDMIN (08 R181). -/
def execVredmin (f : Fields) (s : State) : Result := runLone (.vredmin f) s

/-- VREDAND (08 R181). -/
def execVredand (f : Fields) (s : State) : Result := runLone (.vredand f) s

/-- VREDOR (08 R181). -/
def execVredor (f : Fields) (s : State) : Result := runLone (.vredor f) s

/-- MAND (08 R182). -/
def execMand (f : Fields) (s : State) : Result := runLone (.mand f) s

/-- MOR (08 R182). -/
def execMor (f : Fields) (s : State) : Result := runLone (.mor f) s

/-- MXOR (08 R182). -/
def execMxor (f : Fields) (s : State) : Result := runLone (.mxor f) s

/-- MANDN (08 R182). -/
def execMandn (f : Fields) (s : State) : Result := runLone (.mandn f) s

/-- MPOPC (08 R182). -/
def execMpopc (f : Fields) (s : State) : Result := runLone (.mpopc f) s

/-- MFIRST (08 R182). -/
def execMfirst (f : Fields) (s : State) : Result := runLone (.mfirst f) s

/-- MFROMP (08 R182). -/
def execMfromp (f : Fields) (s : State) : Result := runLone (.mfromp f) s

/-- VLD (08 R183). -/
def execVld (f : Fields) (s : State) : Result := runLone (.vld f) s

/-- VLDS (08 R183). -/
def execVlds (f : Fields) (s : State) : Result := runLone (.vlds f) s

/-- VLDX (08 R183). -/
def execVldx (f : Fields) (s : State) : Result := runLone (.vldx f) s

/-- VST (08 R183). -/
def execVst (f : Fields) (s : State) : Result := runLone (.vst f) s

/-- VSTS (08 R183). -/
def execVsts (f : Fields) (s : State) : Result := runLone (.vsts f) s

/-- VSTX (08 R183). -/
def execVstx (f : Fields) (s : State) : Result := runLone (.vstx f) s

/-- VAMO (14 R303). -/
def execVamo (f : Fields) (s : State) : Result := runLone (.vamo f) s

/-- VAMOCAS (14 R303). -/
def execVamocas (f : Fields) (s : State) : Result := runLone (.vamocas f) s

/-- MRANK (10 R232). -/
def execMrank (f : Fields) (s : State) : Result := runLone (.mrank f) s

/-- MOPK (10 R230). -/
def execMopk (f : Fields) (s : State) : Result := runLone (.mopk f) s

/-- MOPK_ADAPTER (10 R231). -/
def execMopkAdapter (f : Fields) (s : State) : Result := runLone (.mopkAdapter f) s

/-- ADFOLD (10 R233). -/
def execAdfold (f : Fields) (s : State) : Result := runLone (.adfold f) s

/-- ZRD (10 R234). -/
def execZrd (f : Fields) (s : State) : Result := runLone (.zrd f) s

/-- ZWR (10 R235). -/
def execZwr (f : Fields) (s : State) : Result := runLone (.zwr f) s

/-- VDOT8 (19 R375). -/
def execVdot8 (f : Fields) (s : State) : Result := runLone (.vdot8 f) s

/-- XMULS (19 R375). -/
def execXmuls (f : Fields) (s : State) : Result := runLone (.xmuls f) s

end Sys2Proof.Machine
end

