-- ==== Sys2Proof/Machine/Dispatch.lean ====
section
/-! DEFINITION. Which meaning each instruction has: one arm per constructor. -/

namespace Sys2Proof.Machine

/-- What instruction `i` does in state `s`. -/
def exec (i : Instr) (s : State) : Host.Outcome State Fault Refusal :=
  match i with
  | .add w d a b => Sys2Proof.Machine.execAdd w d a b s
  | .sub w d a b => Sys2Proof.Machine.execSub w d a b s
  | .andR w d a b => Sys2Proof.Machine.execAnd w d a b s
  | .orR w d a b => Sys2Proof.Machine.execOr w d a b s
  | .xorR w d a b => Sys2Proof.Machine.execXor w d a b s
  | .sll w d a b => Sys2Proof.Machine.execSll w d a b s
  | .srl w d a b => Sys2Proof.Machine.execSrl w d a b s
  | .sra w d a b => Sys2Proof.Machine.execSra w d a b s
  | .slt w d a b => Sys2Proof.Machine.execSlt w d a b s
  | .sltu w d a b => Sys2Proof.Machine.execSltu w d a b s
  | .minR w d a b => Sys2Proof.Machine.execMin w d a b s
  | .maxR w d a b => Sys2Proof.Machine.execMax w d a b s
  | .minu w d a b => Sys2Proof.Machine.execMinu w d a b s
  | .maxu w d a b => Sys2Proof.Machine.execMaxu w d a b s
  | .clz w d a => Sys2Proof.Machine.execClz w d a s
  | .ctz w d a => Sys2Proof.Machine.execCtz w d a s
  | .popc w d a => Sys2Proof.Machine.execPopc w d a s
  | .mul w d a b => Sys2Proof.Machine.execMul w d a b s
  | .mulh w d a b => Sys2Proof.Machine.execMulh w d a b s
  | .mulhu w d a b => Sys2Proof.Machine.execMulhu w d a b s
  | .div w d a b => Sys2Proof.Machine.execDiv w d a b s
  | .divu w d a b => Sys2Proof.Machine.execDivu w d a b s
  | .rem w d a b => Sys2Proof.Machine.execRem w d a b s
  | .remu w d a b => Sys2Proof.Machine.execRemu w d a b s
  | .lih d imm => Sys2Proof.Machine.execLih d imm s
  | .addpc d imm => Sys2Proof.Machine.execAddpc d imm s
  | .addi d a imm => Sys2Proof.Machine.execAddi d a imm s
  | .andi d a imm => Sys2Proof.Machine.execAndi d a imm s
  | .ori d a imm => Sys2Proof.Machine.execOri d a imm s
  | .xori d a imm => Sys2Proof.Machine.execXori d a imm s
  | .slti d a imm => Sys2Proof.Machine.execSlti d a imm s
  | .sltiu d a imm => Sys2Proof.Machine.execSltiu d a imm s
  | .slli w d a sh => Sys2Proof.Machine.execSlli w d a sh s
  | .srli w d a sh => Sys2Proof.Machine.execSrli w d a sh s
  | .srai w d a sh => Sys2Proof.Machine.execSrai w d a sh s
  | .lb d a imm => Sys2Proof.Machine.execLb d a imm s
  | .lbu d a imm => Sys2Proof.Machine.execLbu d a imm s
  | .lh d a imm => Sys2Proof.Machine.execLh d a imm s
  | .lhu d a imm => Sys2Proof.Machine.execLhu d a imm s
  | .lw d a imm => Sys2Proof.Machine.execLw d a imm s
  | .lwu d a imm => Sys2Proof.Machine.execLwu d a imm s
  | .ld d a imm => Sys2Proof.Machine.execLd d a imm s
  | .sb b a imm => Sys2Proof.Machine.execSb b a imm s
  | .sh b a imm => Sys2Proof.Machine.execSh b a imm s
  | .sw b a imm => Sys2Proof.Machine.execSw b a imm s
  | .sd b a imm => Sys2Proof.Machine.execSd b a imm s
  | .beq a b off => Sys2Proof.Machine.execBeq a b off s
  | .bne a b off => Sys2Proof.Machine.execBne a b off s
  | .blt a b off => Sys2Proof.Machine.execBlt a b off s
  | .bge a b off => Sys2Proof.Machine.execBge a b off s
  | .bltu a b off => Sys2Proof.Machine.execBltu a b off s
  | .bgeu a b off => Sys2Proof.Machine.execBgeu a b off s
  | .loop a off => Sys2Proof.Machine.execLoop a off s
  | .jal d off => Sys2Proof.Machine.execJal d off s
  | .jalr d a imm => Sys2Proof.Machine.execJalr d a imm s
  | .fadd f rm d a b => Sys2Proof.Machine.execFadd f rm d a b s
  | .fsub f rm d a b => Sys2Proof.Machine.execFsub f rm d a b s
  | .fmul f rm d a b => Sys2Proof.Machine.execFmul f rm d a b s
  | .fdiv f rm d a b => Sys2Proof.Machine.execFdiv f rm d a b s
  | .fsqrt f rm d a => Sys2Proof.Machine.execFsqrt f rm d a s
  | .fmin f d a b => Sys2Proof.Machine.execFmin f d a b s
  | .fmax f d a b => Sys2Proof.Machine.execFmax f d a b s
  | .fsgnj f d a b => Sys2Proof.Machine.execFsgnj f d a b s
  | .fsgnjn f d a b => Sys2Proof.Machine.execFsgnjn f d a b s
  | .fsgnjx f d a b => Sys2Proof.Machine.execFsgnjx f d a b s
  | .fcmpEq f d a b => Sys2Proof.Machine.execFcmpEq f d a b s
  | .fcmpLt f d a b => Sys2Proof.Machine.execFcmpLt f d a b s
  | .fcmpLe f d a b => Sys2Proof.Machine.execFcmpLe f d a b s
  | .fclass f d a => Sys2Proof.Machine.execFclass f d a s
  | .fcvt dst src rm d a => Sys2Proof.Machine.execFcvt dst src rm d a s
  | .fmaF16 np na rm d a b c => Sys2Proof.Machine.execFmaF16 np na rm d a b c s
  | .fmaF32 np na rm d a b c => Sys2Proof.Machine.execFmaF32 np na rm d a b c s
  | .fmaF64 np na rm d a b c => Sys2Proof.Machine.execFmaF64 np na rm d a b c s
  | .crrw d a crn => Sys2Proof.Machine.execCrrw d a crn s
  | .crrs d a crn => Sys2Proof.Machine.execCrrs d a crn s
  | .crrc d a crn => Sys2Proof.Machine.execCrrc d a crn s
  | .sysc => Sys2Proof.Machine.execSysc s
  | .brk => Sys2Proof.Machine.execBrk s
  | .tret => Sys2Proof.Machine.execTret s
  | .waiti => Sys2Proof.Machine.execWaiti s
  | .halt => Sys2Proof.Machine.execHalt s
  | .rngx d a b stream => Sys2Proof.Machine.execRngx d a b stream s
  | .vfetch xc stg off => Sys2Proof.Machine.execVfetch xc stg off s
  | .vfetchRetire => Sys2Proof.Machine.execVfetchRetire s
  | .vconfig d a b => Sys2Proof.Machine.execVconfig d a b s
  | .vsetvl d a => Sys2Proof.Machine.execVsetvl d a s
  | .vsetrows d a => Sys2Proof.Machine.execVsetrows d a s
  | .mattach d a => Sys2Proof.Machine.execMattach d a s
  | .mdetach => Sys2Proof.Machine.execMdetach s
  | .wload a b => Sys2Proof.Machine.execWload a b s
  | .wloadEmptySlot a b => Sys2Proof.Machine.execWloadEmptySlot a b s
  | .wloadEmptyAsid a b => Sys2Proof.Machine.execWloadEmptyAsid a b s
  | .wloadApply cluster => Sys2Proof.Machine.execWloadApply cluster s
  | .wloadFetchComplete cluster => Sys2Proof.Machine.execWloadFetchComplete cluster s
  | .zzero a => Sys2Proof.Machine.execZzero a s
  | .zsave a => Sys2Proof.Machine.execZsave a s
  | .zload a => Sys2Proof.Machine.execZload a s
  | .adcfg a b => Sys2Proof.Machine.execAdcfg a b s
  | .adinv a b sc => Sys2Proof.Machine.execAdinv a b sc s
  | .adinvComplete => Sys2Proof.Machine.execAdinvComplete s
  | .spawn d a b => Sys2Proof.Machine.execSpawn d a b s
  | .spawnChildStart core => Sys2Proof.Machine.execSpawnChildStart core s
  | .send d a b => Sys2Proof.Machine.execSend d a b s
  | .recv d a => Sys2Proof.Machine.execRecv d a s
  | .recvWake => Sys2Proof.Machine.execRecvWake s
  | .recvTimeout => Sys2Proof.Machine.execRecvTimeout s
  | .pgrab d d2 => Sys2Proof.Machine.execPgrab d d2 s
  | .pdone d a => Sys2Proof.Machine.execPdone d a s
  | .pnarrive d a b => Sys2Proof.Machine.execPnarrive d a b s
  | .pnwait d a b => Sys2Proof.Machine.execPnwait d a b s
  | .pnwaitWake => Sys2Proof.Machine.execPnwaitWake s
  | .rput d a b sc => Sys2Proof.Machine.execRput d a b sc s
  | .rputSlotFree => Sys2Proof.Machine.execRputSlotFree s
  | .rtake d a b sc => Sys2Proof.Machine.execRtake d a b sc s
  | .rtakeSlotFull => Sys2Proof.Machine.execRtakeSlotFull s
  | .endHart => Sys2Proof.Machine.execEndHart s
  | .lds w d a imm sc acq => Sys2Proof.Machine.execLds w d a imm sc acq s
  | .sts w b a imm sc rel => Sys2Proof.Machine.execSts w b a imm sc rel s
  | .amoadd dbl d a b sc ord => Sys2Proof.Machine.execAmoadd dbl d a b sc ord s
  | .amoand dbl d a b sc ord => Sys2Proof.Machine.execAmoand dbl d a b sc ord s
  | .amoor dbl d a b sc ord => Sys2Proof.Machine.execAmoor dbl d a b sc ord s
  | .amoxor dbl d a b sc ord => Sys2Proof.Machine.execAmoxor dbl d a b sc ord s
  | .amomin dbl d a b sc ord => Sys2Proof.Machine.execAmomin dbl d a b sc ord s
  | .amomax dbl d a b sc ord => Sys2Proof.Machine.execAmomax dbl d a b sc ord s
  | .amominu dbl d a b sc ord => Sys2Proof.Machine.execAmominu dbl d a b sc ord s
  | .amomaxu dbl d a b sc ord => Sys2Proof.Machine.execAmomaxu dbl d a b sc ord s
  | .amoswap dbl d a b sc ord => Sys2Proof.Machine.execAmoswap dbl d a b sc ord s
  | .amocas dbl d a b sc ord => Sys2Proof.Machine.execAmocas dbl d a b sc ord s
  | .amofmax dbl d a b sc ord => Sys2Proof.Machine.execAmofmax dbl d a b sc ord s
  | .amofmin dbl d a b sc ord => Sys2Proof.Machine.execAmofmin dbl d a b sc ord s
  | .amofadd dbl d a b sc ord => Sys2Proof.Machine.execAmofadd dbl d a b sc ord s
  | .fence sc fi pr pw sr sw => Sys2Proof.Machine.execFence sc fi pr pw sr sw s
  | .pref a b => Sys2Proof.Machine.execPref a b s
  | .ipref a b => Sys2Proof.Machine.execIpref a b s
  | .cflush d a b sc => Sys2Proof.Machine.execCflush d a b sc s
  | .tlbinv a b sc => Sys2Proof.Machine.execTlbinv a b sc s
  | .tlbinvComplete => Sys2Proof.Machine.execTlbinvComplete s
  | .scfg d a b => Sys2Proof.Machine.execScfg d a b s
  | .scfgUnbind d a b => Sys2Proof.Machine.execScfgUnbind d a b s
  | .vldq v q => Sys2Proof.Machine.execVldq v q s
  | .vstq v q => Sys2Proof.Machine.execVstq v q s
  | .streamFetch hart q => Sys2Proof.Machine.execStreamFetch hart q s
  | .streamElementArrive hart q => Sys2Proof.Machine.execStreamElementArrive hart q s
  | .streamElementWrite hart q => Sys2Proof.Machine.execStreamElementWrite hart q s
  | .outputStreamDrained hart q => Sys2Proof.Machine.execOutputStreamDrained hart q s
  | .skick d a => Sys2Proof.Machine.execSkick d a s
  | .skickOfferRetry => Sys2Proof.Machine.execSkickOfferRetry s
  | .copyTransfer engine => Sys2Proof.Machine.execCopyTransfer engine s
  | .pageMigration engine => Sys2Proof.Machine.execPageMigration engine s
  | .transferComplete engine => Sys2Proof.Machine.execTransferComplete engine s
  | .swaitMailbox d a b => Sys2Proof.Machine.execSwaitMailbox d a b s
  | .swaitStream d a b => Sys2Proof.Machine.execSwaitStream d a b s
  | .swaitWake => Sys2Proof.Machine.execSwaitWake s
  | .ssave a => Sys2Proof.Machine.execSsave a s
  | .sload a => Sys2Proof.Machine.execSload a s
  | .uiret => Sys2Proof.Machine.execUiret s
  | .ctxsave d a b => Sys2Proof.Machine.execCtxsave d a b s
  | .ctxload a => Sys2Proof.Machine.execCtxload a s
  | .emret => Sys2Proof.Machine.execEmret s
  | .undefinedWord word => Sys2Proof.Machine.execUndefinedWord word s
  | .asyncInterruptEntry => Sys2Proof.Machine.execAsyncInterruptEntry s
  | .userInterruptEntry => Sys2Proof.Machine.execUserInterruptEntry s
  | .waitiWake => Sys2Proof.Machine.execWaitiWake s
  | .stop => Sys2Proof.Machine.execStop s
  | .vadd f => Sys2Proof.Machine.execVadd f s
  | .vsub f => Sys2Proof.Machine.execVsub f s
  | .vmul f => Sys2Proof.Machine.execVmul f s
  | .vmulh f => Sys2Proof.Machine.execVmulh f s
  | .vdiv f => Sys2Proof.Machine.execVdiv f s
  | .vrem f => Sys2Proof.Machine.execVrem f s
  | .vmin f => Sys2Proof.Machine.execVmin f s
  | .vmax f => Sys2Proof.Machine.execVmax f s
  | .vabs f => Sys2Proof.Machine.execVabs f s
  | .vneg f => Sys2Proof.Machine.execVneg f s
  | .vfma f => Sys2Proof.Machine.execVfma f s
  | .vand f => Sys2Proof.Machine.execVand f s
  | .vor f => Sys2Proof.Machine.execVor f s
  | .vxor f => Sys2Proof.Machine.execVxor f s
  | .vsll f => Sys2Proof.Machine.execVsll f s
  | .vsrl f => Sys2Proof.Machine.execVsrl f s
  | .vsra f => Sys2Proof.Machine.execVsra f s
  | .vsadd f => Sys2Proof.Machine.execVsadd f s
  | .vssub f => Sys2Proof.Machine.execVssub f s
  | .vclz f => Sys2Proof.Machine.execVclz f s
  | .vpopc f => Sys2Proof.Machine.execVpopc f s
  | .vsqrt f => Sys2Proof.Machine.execVsqrt f s
  | .vrcp f => Sys2Proof.Machine.execVrcp f s
  | .vrsq f => Sys2Proof.Machine.execVrsq f s
  | .vexp2 f => Sys2Proof.Machine.execVexp2 f s
  | .vlog2 f => Sys2Proof.Machine.execVlog2 f s
  | .vcmp f => Sys2Proof.Machine.execVcmp f s
  | .vsel f => Sys2Proof.Machine.execVsel f s
  | .vcvt f => Sys2Proof.Machine.execVcvt f s
  | .vsat f => Sys2Proof.Machine.execVsat f s
  | .vrng f => Sys2Proof.Machine.execVrng f s
  | .vid f => Sys2Proof.Machine.execVid f s
  | .vmv f => Sys2Proof.Machine.execVmv f s
  | .vbcast f => Sys2Proof.Machine.execVbcast f s
  | .vslideup f => Sys2Proof.Machine.execVslideup f s
  | .vslidedn f => Sys2Proof.Machine.execVslidedn f s
  | .vgatherr f => Sys2Proof.Machine.execVgatherr f s
  | .vcompress f => Sys2Proof.Machine.execVcompress f s
  | .vexpand f => Sys2Proof.Machine.execVexpand f s
  | .vins f => Sys2Proof.Machine.execVins f s
  | .vext f => Sys2Proof.Machine.execVext f s
  | .vrowb f => Sys2Proof.Machine.execVrowb f s
  | .vredsum f => Sys2Proof.Machine.execVredsum f s
  | .vredtsum f => Sys2Proof.Machine.execVredtsum f s
  | .vredmax f => Sys2Proof.Machine.execVredmax f s
  | .vredmin f => Sys2Proof.Machine.execVredmin f s
  | .vredand f => Sys2Proof.Machine.execVredand f s
  | .vredor f => Sys2Proof.Machine.execVredor f s
  | .mand f => Sys2Proof.Machine.execMand f s
  | .mor f => Sys2Proof.Machine.execMor f s
  | .mxor f => Sys2Proof.Machine.execMxor f s
  | .mandn f => Sys2Proof.Machine.execMandn f s
  | .mpopc f => Sys2Proof.Machine.execMpopc f s
  | .mfirst f => Sys2Proof.Machine.execMfirst f s
  | .mfromp f => Sys2Proof.Machine.execMfromp f s
  | .vld f => Sys2Proof.Machine.execVld f s
  | .vlds f => Sys2Proof.Machine.execVlds f s
  | .vldx f => Sys2Proof.Machine.execVldx f s
  | .vst f => Sys2Proof.Machine.execVst f s
  | .vsts f => Sys2Proof.Machine.execVsts f s
  | .vstx f => Sys2Proof.Machine.execVstx f s
  | .vamo f => Sys2Proof.Machine.execVamo f s
  | .vamocas f => Sys2Proof.Machine.execVamocas f s
  | .mrank f => Sys2Proof.Machine.execMrank f s
  | .mopk f => Sys2Proof.Machine.execMopk f s
  | .mopkAdapter f => Sys2Proof.Machine.execMopkAdapter f s
  | .adfold f => Sys2Proof.Machine.execAdfold f s
  | .zrd f => Sys2Proof.Machine.execZrd f s
  | .zwr f => Sys2Proof.Machine.execZwr f s
  | .vdot8 f => Sys2Proof.Machine.execVdot8 f s
  | .xmuls f => Sys2Proof.Machine.execXmuls f s
  | .matrixSlotReady => Sys2Proof.Machine.execMatrixSlotReady s
  | .buntingFillArrive cluster => Sys2Proof.Machine.execBuntingFillArrive cluster s
  | .macroRepair cluster mac row => Sys2Proof.Machine.execMacroRepair cluster mac row s
  | .slotReloadComplete cluster slot => Sys2Proof.Machine.execSlotReloadComplete cluster slot s
  | .laneSpare core lane => Sys2Proof.Machine.execLaneSpare core lane s
  | .laneSpareComplete core => Sys2Proof.Machine.execLaneSpareComplete core s
  | .launchPlace => Sys2Proof.Machine.execLaunchPlace s
  | .launchAging index => Sys2Proof.Machine.execLaunchAging index s
  | .doorbellWrite queue value => Sys2Proof.Machine.execDoorbellWrite queue value s
  | .wqSlotTake queue => Sys2Proof.Machine.execWqSlotTake queue s
  | .msigenWrite value => Sys2Proof.Machine.execMsigenWrite value s
  | .hirqWrite hart value => Sys2Proof.Machine.execHirqWrite hart value s
  | .diestateRead => Sys2Proof.Machine.execDiestateRead s
  | .elogctlWrite die value => Sys2Proof.Machine.execElogctlWrite die value s
  | .cycleRecordFree die => Sys2Proof.Machine.execCycleRecordFree die s
  | .waitCycleDetect die => Sys2Proof.Machine.execWaitCycleDetect die s
  | .hbmctlWrite die value => Sys2Proof.Machine.execHbmctlWrite die value s
  | .lendWatch die pair channel => Sys2Proof.Machine.execLendWatch die pair channel s
  | .lendDrainStart die pair => Sys2Proof.Machine.execLendDrainStart die pair s
  | .lendDrainDone die pair => Sys2Proof.Machine.execLendDrainDone die pair s
  | .lendRetrainDone die pair => Sys2Proof.Machine.execLendRetrainDone die pair s
  | .lendReclaimStart die pair => Sys2Proof.Machine.execLendReclaimStart die pair s
  | .lendReclaimDone die pair => Sys2Proof.Machine.execLendReclaimDone die pair s
  | .powerSample => Sys2Proof.Machine.execPowerSample s
  | .grantThrottleOnset hart => Sys2Proof.Machine.execGrantThrottleOnset hart s
  | .writeMove write target => Sys2Proof.Machine.execWriteMove write target s
  | .diectlResetDie die => Sys2Proof.Machine.execDiectlResetDie die s
  | .diectlRollKeys die => Sys2Proof.Machine.execDiectlRollKeys die s
  | .powerGood firmwareOk => Sys2Proof.Machine.execPowerGood firmwareOk s
  | .spdmRequest die message => Sys2Proof.Machine.execSpdmRequest die message s
  | .dieAdmissionCheck die chainOk challengeOk measurementOk => Sys2Proof.Machine.execDieAdmissionCheck die chainOk challengeOk measurementOk s
  | .linkKeyEstablish die link secret signed => Sys2Proof.Machine.execLinkKeyEstablish die link secret signed s
  | .dieTrainingComplete die result => Sys2Proof.Machine.execDieTrainingComplete die result s
  | .flitReceive die link keyBit tagOk => Sys2Proof.Machine.execFlitReceive die link keyBit tagOk s
  | .linkKeyRollover die link => Sys2Proof.Machine.execLinkKeyRollover die link s
  | .linkOldKeyRetire die link => Sys2Proof.Machine.execLinkOldKeyRetire die link s
  | .hostBarRead tlp bar offset size => Sys2Proof.Machine.execHostBarRead tlp bar offset size s
  | .hostBarWrite lane bar offset size value poisoned integrityOk => Sys2Proof.Machine.execHostBarWrite lane bar offset size value poisoned integrityOk s
  | .ideKmRequest port stream key => Sys2Proof.Machine.execIdeKmRequest port stream key s
  | .podRemoteAccess port access integrityOk => Sys2Proof.Machine.execPodRemoteAccess port access integrityOk s
  | .mmioRegisterWrite die offset value => Sys2Proof.Machine.execMmioRegisterWrite die offset value s
  | .hartReset hart => Sys2Proof.Machine.execHartReset hart s
  | .packageReset => Sys2Proof.Machine.execPackageReset s
  | .freeze => Sys2Proof.Machine.execFreeze s
  | .portFlitRetried die site => Sys2Proof.Machine.execPortFlitRetried die site s
  | .spdmSecureSession port established => Sys2Proof.Machine.execSpdmSecureSession port established s
  | .ualinksecKeyEstablish port pkg key => Sys2Proof.Machine.execUalinksecKeyEstablish port pkg key s

end Sys2Proof.Machine
end

