-- ==== Sys2Proof/Machine/Turn.lean ====
section
/-! DEFINITION. One turn of the machine: whose turn it is (11 R264; log entry 1), what a hart's turn does (05 R122; 17 R354; 19 R368, R369), how the
word at the pc runs (01 R33), and what the device does while a hart waits. -/

namespace Sys2Proof.Machine

/-- Time passes: one clk, and what contention and latency add (13 R272; 04 R97; log entry 5). clk counts while the package runs (00 R2; 20 R401); the
model's own count of steps goes on. -/
def State.pass (s : State) : State :=
  { s with clk := if s.powered && !s.frozen then s.clk + 1 + Config.extraClk s.tick else s.clk, tick := s.tick + 1 }

/-- Time passes before the next turn; a turn at a clk that has begun is at that clk. -/
def State.passTurn (s : State) : State :=
  match s.agenda with
  | .same true _ :: _ => { s with tick := s.tick + 1 }
  | _ => s.pass

/-! ### The word at the pc -/

/-- The word at the pc runs: fetched, decoded, executed; a fetch that faults and a word that is illegal raise their cause (01 R33, R34). -/
def runWord (s : State) : Result :=
  match s.fetch s.hart.pc 4 with
  | .error t => .next (s.trap t)
  | .ok w =>
    match decode (BitVec.ofNat 32 w) with
    | .error _ => raise s 2 (word w)
    | .ok i => exec i s

/-- May the word at the pc run ahead of a pending VFETCH: is it a defined word of majors 0x01 to 0x34 or 0x3A (05 R122)? -/
def State.runsAhead (s : State) : Bool :=
  match s.fetch s.hart.pc 4 with
  | .error _ => false
  | .ok w =>
    let major := w / 2 ^ 25 % 128
    ((1 ≤ major && major ≤ 0x34) || major = 0x3A)
      && match decode (BitVec.ofNat 32 w) with
        | .ok (.undefinedWord _) => false
        | .ok _ => true
        | .error _ => false

/-- Must the pending VFETCH retire before the hart goes on (05 R122)? -/
def State.mustRetire (s : State) : Bool :=
  match s.hart.ahead with
  | none => false
  | some k => 32 ≤ k || !s.runsAhead

/-- What an issuing hart does next: a due retirement, an interrupt, or the word at its pc. -/
def issueTurn (s : State) : Result :=
  if s.mustRetire then exec .vfetchRetire s
  else if s.asyncDue.isSome then exec .asyncInterruptEntry s
  else if s.userDue.isSome then exec .userInterruptEntry s
  else runWord s

/-! ### Bring-up, engines, waits -/

/-- Something the device does by itself. -/
abbrev Act := State → Result

/-- How the bring-up of die `d` goes on when nothing goes wrong (22 R407): the exchange with the root, the keys of its links, training; a die that has
left service boots again. -/
def State.bringUpAct (s : State) (d : Nat) : Option Act :=
  match (s.dieAt d).st with
  | 1 => some (execSpdmRequest d .negotiateAlgorithms)
  | 2 => some (execDieAdmissionCheck d true true true)
  | 3 =>
    ((linksOf d).find? (fun k => !(s.link d k).keyed && s.keysReady (linkPeer d k))).map
      (fun k => execLinkKeyEstablish d k (Config.freeWord s.tick).toNat true)
  | 4 => some (execDieTrainingComplete d ⟨true, 0, 0⟩)
  | 7 => some (execPowerGood true)
  | _ => none

/-- What bring-up does next, the lowest die first. -/
def State.bringUpNext (s : State) : Option Act :=
  if s.powered then (List.range 12).findSome? s.bringUpAct else if s.held then none else some (execPowerGood true)

/-- Bring-up goes on (22 R407). -/
def bringUp (s : State) : Result :=
  match s.bringUpNext with
  | some act => act s
  | none => .next s

/-- What an engine does next, if it has a transfer (13 R290; 17 R346, R349). -/
def State.engineNext (s : State) (e : EngineId) : Option Act :=
  match s.engineQueue e with
  | [] => none
  | t :: _ => some (if t.ended.isSome then execTransferComplete e else if t.eng = 2 then execPageMigration e else execCopyTransfer e)

/-- What the stream controller does next for stream `q` of slot `h`, if anything (17 R340, R342). -/
def State.streamNext (s : State) (h q : Nat) : Option Act :=
  let t := s.stream h q
  if !t.bound then none
  else if t.out then (if t.produced.isEmpty then none else some (execStreamElementWrite h (BitVec.ofNat 4 q)))
  else if t.resume then some (execStreamFetch h (BitVec.ofNat 4 q))
  else if t.issued ≠ 0 then some (execStreamElementArrive h (BitVec.ofNat 4 q))
  else none

/-- What the controller of a cluster may do next for its weight slots and Bunting (09 R197, R208; 20 R396). -/
def State.slotActs (s : State) (c : Nat) : List Act :=
  let k := s.clusterAt c
  (if k.wloads.any (·.applied) then [execWloadFetchComplete c] else [])
    ++ ((if k.wloads.any (fun r => !r.applied) then [execWloadApply c] else [])
    ++ ((if k.fills.isEmpty then [] else [execBuntingFillArrive c])
    ++ (k.slots.filter (fun p => k.reloads p.1)).map (fun p => execSlotReloadComplete c p.1)))

/-- What the launcher does next, if anything (11 R265; 23 R424): it takes every posted record before it places. -/
def State.launcherNext (s : State) : Option Act :=
  match s.queues.find? (fun p => ((s.syncQueue p.1).fullSlot p.1).isSome) with
  | some p => some (execWqSlotTake p.1)
  | none => if s.posted.isEmpty then none else some execLaunchPlace

/-- The oldest write under way that has not appeared and may, by its place in State.pend (15 R316). -/
def State.appearNext (s : State) : Option Act :=
  ((List.range s.pend.length).reverse.find? (fun n => match s.pend[n]? with | some p => !p.appeared && !s.heldBack p | none => false)).map
    (fun n => execWriteMove n (match s.pend[n]? with | some p => p.first | none => .device))

/-- What the device may do by itself around the current hart's core. -/
def State.deviceActs (s : State) : List Act :=
  let c := clusterOf s.cur
  (List.range 16).filterMap (s.streamNext s.cur)
    ++ (s.slotActs c
    ++ ((s.engineNext (.ctl c)).toList
    ++ ((List.range 8).filterMap (fun e => s.engineNext (.edge (dieOf s.cur) e))
    ++ ((if s.core.children.isEmpty then [] else [execSpawnChildStart (coreOf s.cur)])
    ++ ((if s.core.sparing.isSome then [execLaneSpareComplete (coreOf s.cur)] else [])
    ++ (s.launcherNext.toList ++ (s.appearNext.toList ++ s.bringUpNext.toList)))))))

/-- A number that runs through the residues of every small modulus as the ticks go by, whatever their stride. -/
def mix (n : Nat) : Nat := n * 40503 / 1024

/-- What the device does next: each of what it may do gets its turn. -/
def State.deviceNext (s : State) : Option Act := s.deviceActs[mix s.tick % s.deviceActs.length]?

/-- How a waiting hart tries to go on. -/
def wakeOf : Wait → Instr
  | .recv _ _ _ => .recvWake
  | .pnwait _ _ _ => .pnwaitWake
  | .rput _ _ _ => .rputSlotFree
  | .rtake _ _ _ => .rtakeSlotFull
  | .swait _ _ _ => .swaitWake
  | .skick _ _ _ _ => .skickOfferRetry
  | .waiti => .waitiWake
  | .vldq v q _ => .vldq v q
  | .vstq v q => .vstq v q
  | .adinv _ _ _ => .adinvComplete
  | .tlbinv _ _ _ _ => .tlbinvComplete
  | .drained i => i
  | .ctxsave d a b _ => .ctxsave d a b
  | .slot _ => .matrixSlotReady
  | .fill _ _ => .matrixSlotReady
  | .boundary _ => .matrixSlotReady

/-- Is the RECV timeout of a hart that waits since `t` due (11 R254)? -/
def State.recvDue (s : State) (w : Wait) : Bool :=
  match w with
  | .recv _ _ t => decide (s.hart.recvto ≠ 0) && t + s.hart.recvto.toNat * 1024 ≤ s.clk
  | _ => false

/-- What the device does next, or nothing. -/
def idleTurn (s : State) : Result :=
  match s.deviceNext with
  | some act => act s
  | none => .next s

/-- A try of a waiting hart to go on; where it waits on, the device acts. -/
def tryTurn (w : Wait) (s : State) : Result :=
  match exec (wakeOf w) s with
  | .next t => if t.hart.run = s.hart.run then idleTurn t else .next t
  | .fault r => .fault r
  | .refused r => .refused r

/-- The turn of a waiting hart: an interrupt, its timeout, or a try to go on; a convoy that an interrupt stops inside goes on to that point. DESIGN
CHOICE (log entry 72): a timeout that is due comes before a message that has arrived. -/
def waitTurn (w : Wait) (s : State) : Result :=
  if s.asyncDue.isSome && s.hart.run.stopPoint && s.hart.run.inner = 0 then exec .asyncInterruptEntry s
  else if s.userDue.isSome then exec .userInterruptEntry s
  else if s.recvDue w then exec .recvTimeout s
  else tryTurn w s

/-- The turn of a waiting hart, which does nothing while one of its lanes is copied to the spare (20 R393). -/
def heldTurn (w : Wait) (s : State) : Result := if s.copiesLane s.cur then idleTurn s else waitTurn w s

/-- The current hart's turn: while its die is not admitted, bring-up (22 R407). -/
def hartTurn (s : State) : Result :=
  if s.admitted (dieOf s.cur) then
    match s.hart.run with
    | .running => if s.copiesLane s.cur then idleTurn s else issueTurn s
    | .waiting w => heldTurn w s
    | _ => idleTurn s
  else bringUp s

/-! ### Whose turn -/

/-- Is the instruction an event of the device, no word of a program? -/
def isEvent (i : Instr) : Bool := (encode i).isNone && (encodeBlock i).isNone

/-- A corrected error of a site of die `d` (20 R387, R392): of a link, which takes its die out when it becomes lasting (22 R410); of a lane, on
which the sequencer acts (20 R393, R394); of another site. -/
def State.siteStrike (s : State) (d key : Nat) : State :=
  let n := key % 2 ^ 48
  if key / 2 ^ 48 = 4 then (if (s.link d n).up && decide (linkPeer d n ≠ d) then s.linkError d n else s)
  else
    let s := s.correctedError d key
    if key / 2 ^ 48 = 0 then s.tendLane (256 * d + n / 16) (n % 16) else s

/-- What strikes as a hart's turn begins (13 R292, R293; 20 R387, R388). -/
def State.strike (s : State) (e : Option HwError) : State :=
  match e with
  | some (.corrected site) => s.siteStrike (dieOf s.cur) site
  | some (.correctedSector sector dword) => s.correctedSector sector dword
  | some (.uncorrectable sector dword) => s.uncorrectable sector dword
  | _ => s

/-- What comes first in the current hart's turn: the fetches of its accepted weight loads (10 R219), what the sequencer does about the lanes of its
core (20 R393), what its context leaves in the translation unit (13 R288), and, where it issues, the requests of its instruction fetch (13 R281). -/
def State.beginTurn (s : State) : State :=
  let s := (s.performFetches.tendLanes (coreOf s.cur)).noteContext
  if s.hart.run = .running ∧ s.copiesLane s.cur = false then s.requests s.ctx .fetch s.hart.pc else s

/-- Does the event act on the current hart? -/
def actsOnHart : Instr → Bool
  | .recvWake | .recvTimeout | .pnwaitWake | .rputSlotFree | .rtakeSlotFull | .swaitWake | .skickOfferRetry | .waitiWake | .adinvComplete
  | .tlbinvComplete | .matrixSlotReady | .asyncInterruptEntry | .userInterruptEntry | .vfetchRetire => true
  | _ => false

/-- May slot `h` issue the instruction at its pc: its hart runs, none of its lanes is copied to the spare (20 R393), and neither a retirement nor an
interrupt comes first? -/
def State.issues (s : State) (h : Nat) : Bool :=
  s.admitted (dieOf h) && decide ((s.hartAt h).run = .running) && !s.copiesLane h
    && (let t := s.switchTo h; !t.mustRetire && t.asyncDue.isNone && t.userDue.isNone)

/-- The slot of two ready ones of equal priority that issues: the one that issued less recently, H0 where neither has (11 R264). -/
def lessRecent (issued : List Nat) : Nat :=
  match issued with
  | [] => 0
  | k :: _ => 1 - k

/-- The slot of core `c` whose turn it is, and the arbitration count after it (11 R264). -/
def State.arbitrate (s : State) (c : Nat) : Nat × Nat :=
  let k := s.coreAt c
  let p0 := (s.hartAt (2 * c)).prio
  let p1 := (s.hartAt (2 * c + 1)).prio
  match s.issues (2 * c), s.issues (2 * c + 1) with
  | true, false => (0, k.arbCount)
  | false, true => (1, k.arbCount)
  | true, true =>
    if p0 = p1 then (lessRecent k.issued, k.arbCount)
    else
      let high := if p0 < p1 then 1 else 0
      if k.arbCount + 1 = 4 then (1 - high, 0) else (high, k.arbCount + 1)
  | false, false => (mix s.tick % 2, k.arbCount)

/-- Slot `h` has its turn (11 R264): where it issues, it is the latest of its core to have issued, and the arbitration count follows the rule; it
stands where the other slot is not ready (`alone`). -/
def State.noteIssue (s : State) (h : Nat) (alone : Bool) : State :=
  if s.issues h then
    let n := if alone then (s.coreAt (coreOf h)).arbCount else (s.arbitrate (coreOf h)).2
    s.modCore (coreOf h) (fun x => { x with arbCount := n, issued := slotOf h :: x.issued.erase (slotOf h) })
  else s

/-- The slot that has the turn the agenda gives slot `h`: where both slots of its core are ready to issue, the one that arbitration names (11 R264).
-/
def State.turnOf (s : State) (h : Nat) (alone : Bool) : Nat :=
  if !alone && s.issues (2 * coreOf h) && s.issues (2 * coreOf h + 1) then 2 * coreOf h + (s.arbitrate (coreOf h)).1 else h

/-- A hart's turn as the agenda gives it to slot `h`: the boundary at which it ends, and what strikes the hart in it, for that slot alone. -/
def State.arm (s : State) (h : Nat) (alone : Bool) (until_ : Option Nat) (e : Option HwError) : State :=
  let k := s.turnOf h alone
  let own := k = h
  ((((s.noteIssue k alone).switchTo k).withHart (fun x =>
    { x with stopIn := if own then until_ else none, hwError := if own then e else none })).strike e).beginTurn

/-- The end of a turn: what has not struck is gone. -/
def State.disarm (s : State) : State := { s with portMet := none }.withHart (fun x => { x with stopIn := none, hwError := none })

/-- The transfers of every engine. -/
def State.allTransfers (s : State) : List Transfer := s.dies.flatMap (fun p => p.2.edge.flatMap (·.2)) ++ s.clusters.flatMap (fun p => p.2.copies)

/-- The accepted weight loads of every cluster. -/
def State.allLoads (s : State) : List WloadReq := s.clusters.flatMap (fun p => p.2.wloads)

/-- The streams of every slot that has any, by slot and number. -/
def State.streamNumbers (s : State) : List (Nat × Nat) :=
  ((s.cur, s.hart) :: s.others).flatMap (fun p => p.2.streams.map (fun q => (p.1, q.1)))

/-- For whom the device's own accesses that met a port failure were made (23 R421), as ASID and hart: those of the transfers, weight loads, fills and
streams of `s` of which `t`, the machine after the turn, and `u`, what it would be without the failure, differ. -/
def State.blamed (s t u : State) : List (Word × Nat) :=
  (t.allTransfers.filter (fun x => x.ended = some 1 && !u.allTransfers.contains x)).map (fun x => (x.asid, x.hart))
  ++ (t.allLoads.filter (fun r => !u.allLoads.contains r) ++ s.allLoads.filter (fun r =>
      !t.allLoads.contains r && decide ((t.clusterAt (clusterOf r.hart)).slots ≠ (u.clusterAt (clusterOf r.hart)).slots))).map (fun r => (r.asid, r.hart))
  ++ ((s.clusters.flatMap (fun p => p.2.fills)).filter (fun f =>
      let t := t.clusterAt (clusterOf f.hart)
      !t.fills.contains f && decide (t.bunting ≠ (u.clusterAt (clusterOf f.hart)).bunting))).map (fun f => (f.item.asid, f.hart))
  ++ (s.streamNumbers.filter (fun p => decide (t.stream p.1 p.2 ≠ u.stream p.1 p.2))).map (fun p => ((s.stream p.1 p.2).asid, p.1))

/-- The hart whose access met a port failure in a turn of `s`, its ASID and its number (23 R421): the current one, where `own` says that its
instruction was performed or its wait polls a slot, else whom the device acted for, else the current one, if it ends otherwise. Zeros for an access
of the device's own. -/
def State.blame (s t u : State) (own : Bool) : Word × Nat :=
  if own || decide (t.portMet = some (.hart s.cur)) then (s.hart.asid, s.cur)
  else
    match s.blamed t u with
    | w :: _ => w
    | [] => if t.hart ≠ u.hart then (s.hart.asid, s.cur) else (0, 0)

/-- The record of an access that failed its integrity check at a port (23 R420, R421, R428), of the hart `who`: at I-die 1 for UALink, else at I-die
0, where its stream fails; the address is 0 where what failed carried none. -/
def State.logPortFailure (s : State) (pa stream : Nat) (addressed : Bool) (who : Word × Nat) : State :=
  let at_ : Word := if addressed then word pa else 0
  match s.portAt pa with
  | some (8, port, _) =>
    ({ s with keys := { s.keys with insecure := Tab.put 0 s.keys.insecure (8 * port + stream) 1 } }).record 8 13 false port at_ who.1 who.2 stream
  | some (d, site, _) => s.record d 13 false site at_ who.1 who.2 0
  | none => s

/-- The outcome with a next state changed by `f`. -/
def mapNext (f : State → State) (r : Result) : Result :=
  match r with
  | .next s => .next (f s)
  | .fault x => .fault x
  | .refused x => .refused x

/-- The turn `go` of `s` in which the error `e` strikes, and the record of the access that failed at a port in it, if one met the failure: if the turn
ends otherwise than it does without it, or a poll of a ring's slot has met it (23 R421). `own`: the current hart's instruction is performed in it. -/
def struckTurn (own : Bool) (s : State) (e : Option HwError) (go : Option HwError → Result) : Result :=
  match e, go e with
  | some (.portFailure pa stream addressed), .next t =>
    match go none with
    | .next u =>
      .next (if t.disarm = u.disarm && t.portMet.isNone then t.disarm else (t.logPortFailure pa stream addressed (s.blame t u own)).disarm)
    | _ => .next t.disarm
  | _, r => mapNext State.disarm r

/-- The turn that the agenda gives slot `h`. -/
def armedTurn (h : Nat) (alone : Bool) (until_ : Option Nat) (e : Option HwError) (s : State) : Result :=
  let u := s.switchTo (s.turnOf h alone)
  struckTurn (decide (u.hart.run = .running)) u e (fun e => hartTurn (s.arm h alone until_ e))

/-- How far hart `h` stands behind the one served last in the rotating order of its cluster's 16 slots (09 R193). -/
def State.rotation (s : State) (h : Nat) : Nat := (chanKey h + 15 - (s.clusterAt (clusterOf h)).lastServed % 16) % 16

/-- The hart of several whose turn comes first at one clk: their requests are served in the rotating order (09 R193). -/
def State.firstOf (s : State) (hs : List Nat) : Option Nat :=
  (List.range 16).findSome? (fun r => hs.find? (fun h => s.rotation h = r))

/-- The turns of several harts at one clk, one in a step; a core issues from one of its slots (11 R264). -/
def sameTurn (hs : List Nat) (s : State) : Result :=
  match s.firstOf (hs.filter isHart) with
  | none => .next s
  | some h =>
    let rest := hs.filter (fun k => isHart k && decide (coreOf k ≠ coreOf h))
    armedTurn h false none none (if rest.isEmpty then s else { s with agenda := .same true rest :: s.agenda })

/-- The current core's next slot becomes the current hart (11 R264). -/
def State.nextSlot (s : State) : State :=
  let h := 2 * coreOf s.cur + (s.arbitrate (coreOf s.cur)).1
  ((s.noteIssue h false).switchTo h).beginTurn

/-- A turn of the current core's slots that do not issue, and of the device around them. -/
def serviceTurn (s : State) : Result :=
  let s := (s.switchTo (2 * coreOf s.cur + mix s.tick / 4 % 2)).beginTurn
  if s.admitted (dieOf s.cur) then
    match s.hart.run with
    | .waiting w => heldTurn w s
    | _ => idleTurn s
  else bringUp s

/-- The turn where the agenda gives none: mostly the current core's next slot issues, now and then its waits and the device go on. -/
def freeTurn (s : State) : Result := if mix s.tick % 4 = 0 then serviceTurn s else hartTurn s.nextSlot

/-- An event: one that acts on the current hart finds it as at its turn, and does nothing while one of its lanes is copied to the spare (20 R393). -/
def eventTurn (i : Instr) (s : State) : Result :=
  if actsOnHart i then (if s.beginTurn.copiesLane s.cur then .next s.beginTurn else exec i s.beginTurn) else exec i s

/-- An event's turn, in which the error `e` may strike. -/
def armedEvent (i : Instr) (e : Option HwError) (s : State) : Result :=
  match e with
  | none => eventTurn i s
  | some _ => struckTurn (actsOnHart i) s e (fun e => eventTurn i ((s.withHart (fun x => { x with hwError := e })).strike e))

/-- The turn that the head of the agenda gives: to a hart, to the first of several, or to an event (log entry 1). -/
def agendaTurn (t : Turn) (s : State) : Result :=
  match t with
  | .hart h alone until_ e => if isHart h then armedTurn h alone until_ e s else .fault .noSuchHart
  | .same _ hs => sameTurn hs s
  | .event i e => if isEvent i then armedEvent i e s else .next s

/-- The turn of a frozen package: only reset acts (20 R401). -/
def frozenTurn (t : Option Turn) (s : State) : Result :=
  match t with
  | some (.event .packageReset _) => exec .packageReset s
  | _ => .next s

/-- The machine's next turn: the agenda's, or the current core's. -/
def turn (s : State) : Result :=
  let s := s.passTurn
  match s.agenda with
  | t :: rest => if s.frozen then frozenTurn (some t) { s with agenda := rest } else agendaTurn t { s with agenda := rest }
  | [] => if s.frozen then frozenTurn none s else freeTurn s

/-! ### Placing an instruction where the next step fetches -/

/-- The location an instruction fetch of the current hart at `va` reads. -/
def State.fetchPa (s : State) (va : Word) : Nat :=
  match s.translate s.ctx .fetch va with
  | .ok x => if (mmioOf x.pa).isSome then x.pa else s.forward x.pa
  | .error _ => va.toNat

/-- Bytes placed at `pa`, as every agent sees them. -/
def State.place' (s : State) (pa : Nat) (bs : List Byte) : State :=
  { s with
    mem := putBytes s.mem pa bs
    poison := s.poison.filter (fun k => !(pa < 32 * k + 32 && 32 * k < pa + bs.length))
    pend := s.pend.filter (fun p => !p.touches pa bs.length) }

/-- The machine about to run the current hart's next word: its die in service, the hart issuing, nothing pending that comes first. -/
def State.readyToFetch (s : State) : State :=
  let d := dieOf s.cur
  let s := (s.modDie d (fun x => { x with st := 5, hirq := Tab.put 0 x.hirq (s.cur % 512) 0, lasting := [] })).dropEntries s.cur
  let s := s.withCore (fun k => { k with sparing := none })
  { s with
    powered := true
    held := false
    frozen := false
    agenda := [.hart s.cur true none none]
    hart := { s.hart with run := .running, ahead := none, block := none, partials := [], stopped := [], stopIn := none, hwError := none } }

/-- A vector configuration of 64 registers of 64 bits on eight lanes, one column, so that a block word runs (05 R101, R104). -/
def Hart.configured (h : Hart) : Hart :=
  { h with vtype := 0xF0, vl := 1, rows := 1, vstart := 0, vgrant := vgrantOf 8 8 8 128 128, held := 0xFF }

/-- `VFETCH x0` of the block in the next dword but one (05 R119): the word before a block word that runs by itself. -/
def vfetchNext : Word32 := ((encode (.vfetch 0 0 1)).getD 0)

end Sys2Proof.Machine
end

