-- ==== Sys2Proof/Machine/Step.lean ====
section
/-! DEFINITION. One step of the machine, and the placing of one instruction where the step fetches. -/

namespace Sys2Proof.Machine

/-- One step: the next turn. -/
def step (s : State) : Host.Outcome State Fault Refusal := turn s

/-- `s` with the instruction of `nbits` bits `w` where the next step fetches: a scalar word at the pc; a block word behind a VFETCH of it and
STOP (log entry 9). -/
def State.withFetchWord (s : State) (nbits w : Nat) : State :=
  let s := s.readyToFetch
  if nbits = 64 then
    let s := { s with hart := s.hart.configured }
    let b := s.loneBlock
    ((s.place' (s.fetchPa s.hart.pc) (leBytes 4 vfetchNext.toNat)).place' (s.fetchPa b) (leBytes 8 w)).place' (s.fetchPa (b + 8))
      (leBytes 8 stopWord.toNat)
  else s.place' (s.fetchPa s.hart.pc) (leBytes 4 w)

end Sys2Proof.Machine
end

