-- ==== Sys2Proof/WellFormed.lean ====
section
/-! DEFINITION. Which terms of Instr are instructions of the part: the operand limits of 03 R53, R57, R59, 14 R305 and, for block words,
the first check of 07 R157. An ill-formed term is refused by `Instr.wf`. -/

namespace Sys2Proof

/-- A shift amount below its width (03 R57). -/
def shiftWf (w : Width) (sh : BitVec 6) : Bool := sh.toNat < w.bits

/-- A cluster number, 24 x die + cluster (01 R22). -/
def clusterWf (c : Nat) : Bool := c < 192

/-- A C-die number (00 R1). -/
def dieWf (d : Nat) : Bool := d < 8

/-- A hart position: die, cluster below 24, core, slot (01 R22). -/
def hartWf (h : Nat) : Bool := h < 4096 && h / 16 % 32 < 24

/-- A core position: a hart position without its slot (01 R22). -/
def coreWf (c : Nat) : Bool := hartWf (2 * c)

/-- An engine that exists: a cluster's controller or one of a die's eight edge engines (17 R345). -/
def engineWf : EngineId → Bool
  | .ctl c => clusterWf c
  | .edge d n => dieWf d && n < 8

/-- Well-formed instructions. Block words are checked for the largest register count, 64; a smaller count refuses more (05 R120). -/
def Instr.wf : Instr → Bool
  | .slli w _ _ amt => shiftWf w amt
  | .srli w _ _ amt => shiftWf w amt
  | .srai w _ _ amt => shiftWf w amt
  | .fcvt dst src _ _ _ => cvtPairOk dst src
  | .fence c i pr pw qr qw => fenceOk c i pr pw qr qw
  | .undefinedWord w => (match decode w with | .ok (.undefinedWord v) => decide (v = w) | _ => false)
  | .wloadApply c => clusterWf c
  | .wloadFetchComplete c => clusterWf c
  | .spawnChildStart c => coreWf c
  | .streamFetch h _ => hartWf h
  | .streamElementArrive h _ => hartWf h
  | .streamElementWrite h _ => hartWf h
  | .outputStreamDrained h _ => hartWf h
  | .copyTransfer e => engineWf e
  | .pageMigration e => engineWf e
  | .transferComplete e => engineWf e
  | .buntingFillArrive c => clusterWf c
  | .macroRepair c _ _ => clusterWf c
  | .slotReloadComplete c w => clusterWf c && w < 512
  | .laneSpare c l => coreWf c && l < 9
  | .laneSpareComplete c => coreWf c
  | .doorbellWrite q _ => q < 8192
  | .wqSlotTake q => q < 8192
  | .hirqWrite h _ => hartWf h
  | .grantThrottleOnset h => hartWf h
  | .hartReset h => hartWf h
  | .stop => true
  | i => if (blockParts i).isSome then wordOk 64 i else true

end Sys2Proof
end

