-- ==== Sys2Proof/Safety.lean ====
section
/-! DEFINITION. The terms the claims are stated in: the machine's invariants, what two states share, the operands as bit vectors, and the
conditions on a state under which an access reaches memory. -/

namespace Sys2Proof.Machine

/-! ### Outcomes -/

/-- The outcome is a next state. -/
def goesOn (r : Result) : Prop := ∃ t, r = .next t

/-! ### Instructions and their words -/

/-- The name under which the decoder gives an instruction back: forms that only differ in register contents share one word (10 R219; 17 R338,
R351). -/
def spelled : Instr → Instr
  | .wloadEmptySlot a b => .wload a b
  | .wloadEmptyAsid a b => .wload a b
  | .scfgUnbind d a b => .scfg d a b
  | .swaitStream d a b => .swaitMailbox d a b
  | i => i

/-! ### What two states share -/

/-- `t` is `s` but for the pc, the retired count, the run-ahead count and register `d` of the current hart. -/
def writesOnly (d : Reg) (s t : State) : Prop :=
  { t with hart := { t.hart with x := s.hart.x, pc := s.hart.pc, retired := s.hart.retired, ahead := s.hart.ahead } } = s
    ∧ ∀ r, r ≠ d → t.x r = s.x r

/-- As `writesOnly`, but the sticky flags may have gained bits. -/
def writesFlags (d : Reg) (s t : State) : Prop :=
  writesOnly d s { t with hart := { t.hart with fflags := s.hart.fflags, iflags := s.hart.iflags } }
    ∧ t.hart.fflags &&& s.hart.fflags = s.hart.fflags ∧ t.hart.iflags &&& s.hart.iflags = s.hart.iflags

/-- The current hart has gone on past a block word that ran by itself: no trap was entered, nothing of it remains to be performed. -/
def passedBlock (s t : State) : Prop :=
  t.hart.pc = s.hart.pc + 4 ∧ t.hart.ahead = some 0 ∧ t.hart.start = 0 ∧ t.hart.run = .running ∧ t.hart.level = s.hart.level
    ∧ t.hart.trapS = s.hart.trapS ∧ t.hart.trapM = s.hart.trapM

/-! ### Operands -/

/-- The low n bits of a register (04 R73). -/
def State.low (s : State) (w : Width) (r : Reg) : BitVec w.bits := (s.x r).setWidth w.bits

/-- The shift amount of a shift by X(b), its low 3, 4, 5 or 6 bits (04 R73). -/
def State.amount (s : State) (w : Width) (b : Reg) : Nat := (s.low w b).toNat % w.bits

/-- An aligned load of `n` bytes at `va` by the current hart at scope `sc` reads `v`: memory that responds and holds no poison, as the hart
sees it there, the boot ROM, or an MMIO register (01 R27, R28; 13 R277; 15 R317; 19 R370). -/
def State.readsAs (s : State) (sc : Scope) (va : Word) (n v : Nat) : Prop :=
  (∃ pa h, s.target s.ctx .load va n = .ok (.mem pa h) ∧ s.poisoned pa = false ∧ v = leNat (s.viewBytes (.hart s.cur) sc pa n))
    ∨ (∃ pa, s.target s.ctx .load va n = .ok (.rom pa) ∧ v = leNat (s.latestBytes pa n))
    ∨ (∃ d off w, s.target s.ctx .load va n = .ok (.reg d off) ∧ s.mmioRead d (off / 8 * 8) = some w
        ∧ v = w.toNat / 2 ^ (8 * (off % 8)) % 2 ^ (8 * n))

/-- No write under way waits to appear but those of `a` that nothing holds back (15 R316; 05 R122). -/
def State.othersAppeared (s : State) (a : AgentId) : Prop := ∀ p ∈ s.pend, p.appeared = true ∨ (p.owner = a ∧ s.heldBack p = false)

/-! ### Block words by themselves -/

/-- Block word `i` stands by itself in a machine where nothing is left over from an earlier VFETCH and nothing strikes: the vector state is
configured, block decode accepts the word before STOP, and its checks at the start of the convoy give `p` (05 R119, R120; 07 R157; 08 R189). -/
structure State.ready (s : State) (i : Instr) (p : Prep) : Prop where
  settled : s.hart.ahead = none ∧ s.hart.rep = 0 ∧ s.hart.wofs = 0 ∧ s.hart.ill = false ∧ s.hart.block = none ∧ s.hart.partials = []
    ∧ s.hart.stopped = []
  calm : s.hart.stopIn = none ∧ s.hart.hwError = none
  decoded : ∃ w, encodeBlock i = some w ∧ checkBlock s.hart.vcount 0 1 0 [] [w, stopWord] = .ok [i]
  prepared : prepWord s.hart s.loneBlock 0 i s.hart.tagOf = .ok p

/-- The machine in which the word runs: it holds the block of this word alone until the VFETCH ends (05 R119). -/
def State.inBlock (s : State) (i : Instr) : State := s.withHart (fun h => { h with block := some ⟨s.loneBlock, [i], 0, 1, []⟩ })

/-- The same for a matrix word over fields `f`, which passes its checks and finds `t` where it needs a slot (09 R197, R215; 10 R228). -/
structure State.matrixReadyFor (s : State) (i : Instr) (f : Fields) (t : Option SlotTake) : Prop where
  settled : s.hart.ahead = none ∧ s.hart.rep = 0 ∧ s.hart.wofs = 0 ∧ s.hart.ill = false ∧ s.hart.block = none ∧ s.hart.partials = []
    ∧ s.hart.stopped = []
  calm : s.hart.stopIn = none ∧ s.hart.hwError = none ∧ s.hart.run = .running
  decoded : isMatrixWord i = true ∧ (blockParts i).map (·.2) = some f
    ∧ ∃ w, encodeBlock i = some w ∧ checkBlock s.hart.vcount 0 1 0 [] [w, stopWord] = .ok [i]
  legal : (⟨i, f, s.hart, none, []⟩ : MPrep).issueCheck s s.loneBlock = none
  slot : match t with
    | some t => (⟨i, f, s.hart, none, []⟩ : MPrep).mopk = true ∧ s.slotView f.w = .ready t ∧ (⟨i, f, s.hart, none, []⟩ : MPrep).pairOk t.tag = true
    | none => (⟨i, f, s.hart, none, []⟩ : MPrep).mopk = false

/-- Serial `e` is one at which the word acts (05 R106; 08 R180). -/
def Prep.active (p : Prep) (s : State) (e : Nat) : Bool := p.start ≤ e && e < p.total && p.acts s.hart e

/-- The serials at which the word acts, in order. -/
def Prep.actives (p : Prep) (s : State) : List Nat := (List.range p.total).filter (p.active s)

/-- What the word makes of element `e`, its operands read at the word's start. -/
def elementOf (p : Prep) (s : State) (e : Nat) : Eff :=
  match elemOf p s.hart e WordRun.fresh s with
  | .done _ x => x
  | .trim => .none

/-- Where an effect on element `e` lands in vd, the bits and the poison. -/
def Eff.lands (x : Eff) (e : Nat) : Option (Nat × Nat × Bool) :=
  match x with
  | .write b p _ _ => some (e, b, p)
  | .writeAt k b p _ => some (k, b, p)
  | _ => Option.none

/-- The fflags an effect raises: none where its result is poisoned (08 R161). -/
def Eff.flags (x : Eff) : Nat :=
  match x with
  | .write _ p fl _ => if p then 0 else fl
  | .writeAt _ _ p fl => if p then 0 else fl
  | .mask _ p fl => if p then 0 else fl
  | .acc _ fl => fl
  | _ => 0

/-- The vxflags an effect raises. -/
def Eff.vxflags (x : Eff) : Nat :=
  match x with
  | .write _ p _ vx => if p then 0 else vx
  | _ => 0

/-- The words that write elements of a vector register and touch neither memory nor a scalar register (08 R166 to R177, R180). -/
def elementWord (i : Instr) (f : Fields) : Prop :=
  i ∈ [.vadd f, .vsub f, .vmul f, .vmulh f, .vdiv f, .vrem f, .vmin f, .vmax f, .vabs f, .vneg f, .vfma f, .vand f, .vor f, .vxor f, .vsll f, .vsrl f,
    .vsra f, .vsadd f, .vssub f, .vclz f, .vpopc f, .vsqrt f, .vrcp f, .vrsq f, .vexp2 f, .vlog2 f, .vsel f, .vcvt f, .vsat f, .vrng f, .vid f, .vmv f,
    .vbcast f, .vslideup f, .vslidedn f, .vgatherr f, .vcompress f, .vexpand f, .vins f, .vrowb f, .vredtsum f]

/-- `t` has the vector, mask, scalar registers and memory of `s` but for vector register `v`. -/
def keepsBut (v : Nat) (s t : State) : Prop :=
  (∀ r, r ≠ v → Tab.get 0 t.hart.v r = Tab.get 0 s.hart.v r ∧ Tab.get 0 t.hart.vpois r = Tab.get 0 s.hart.vpois r
      ∧ t.hart.tagOf r = s.hart.tagOf r)
    ∧ t.hart.x = s.hart.x ∧ t.hart.m = s.hart.m ∧ t.others = s.others

/-- Memory as a function of the address after writes in turn: of each serial, `size` bytes at `pa` receive what `new` makes of the number that
stood there, where it makes one (08 R183; 14 R303; 15 R324). -/
def writesIn (size : Nat) (pa : Nat → Nat) (new : Nat → Nat → Option Nat) : List Nat → (Nat → Byte) → Nat → Byte
  | [], m => m
  | e :: es, m =>
    writesIn size pa new es (match new e (leNat ((List.range size).map (fun k => m (pa e + k)))) with
      | some v => fun q => if pa e ≤ q ∧ q < pa e + size then BitVec.ofNat 8 (v / 256 ^ (q - pa e)) else m q
      | none => m)

/-- The word as its convoy runs it: on a host-shared page its accesses have system scope (13 R289). -/
def Prep.attached (p : Prep) (s : State) : Prep := { p with hpage := p.onHPage s.hart 1 [] s }

/-- The machine in which the first access of a memory word is made: a word that releases has carried the hart's writes (08 R185). -/
def Prep.released (p : Prep) (s : State) : State := if p.releases then s.release (.hart s.cur) (scopeOf p.f.sc) else s

/-- The running value of a reduction over serials in order, and the flags raised on the way (08 R178, R179, R181). -/
def Prep.reduce (p : Prep) (s : State) (op : Val → Val → Val × Nat) : List Nat → Nat → Nat × Nat
  | [], acc => (acc, 0)
  | e :: es, acc =>
    let v := op (valueOf p.rt acc) (p.a s.hart s.hart e).1
    let d := deliver p.rt p.mode false v.1
    let r := p.reduce s op es d.1
    (r.1, v.2 ||| d.2 ||| r.2)

/-- Node i of the tree of 08 R180, `levels` above its leaves: two present children combined, one passed on, or none. -/
def treeSum (t : Nat) (m : RMode) (leaf : Nat → Option (Nat × Nat)) : Nat → Nat → Option (Nat × Nat)
  | 0, i => leaf i
  | levels + 1, i =>
    match treeSum t m leaf levels (2 * i), treeSum t m leaf levels (2 * i + 1) with
    | some (x, fx), some (y, fy) =>
      let v := vAddV (decide (m = .rdn)) (valueOf t x) (valueOf t y)
      let d := deliver t m false v.1
      some (d.1, fx ||| fy ||| v.2 ||| d.2)
    | some x, none => some x
    | none, y => y

/-- The passes of the loop of R96. -/
def rngLoop : Nat → Word → Word → Word → Word
  | 0, s0, s1, _ => s0 ^^^ s1.rotateLeft 41
  | n + 1, s0, s1, k =>
    let s0 := (s0 ^^^ k).rotateLeft 23 * 0xB3C17E5A94F26D2B
    let s1 := s1 + s0
    rngLoop n s0 (s1 ^^^ (s1 >>> 29)) (k + 0x7A4F1C93E6B82D55)

end Sys2Proof.Machine
end

