-- ==== Sys2Proof/Certificates/Slice0/Obligations.lean ====
section
/-! DEFINITION. The statements about the model, one `def Obligations.<Name> : Prop` each; OBLIGATIONS.json lists them with the rules they rest on. -/

open Sys2Proof Sys2Proof.Machine

/-! ### The scalar machine -/

/-- R13: x0 reads as zero and a write to it is discarded; every other register holds the last value written; a write of a register changes nothing
else of the machine. R72 with R23 and R122: an instruction that completes without a transfer goes to pc + 4 and is counted, behind a pending
VFETCH in the run-ahead count; nothing else of the machine changes. -/
def Obligations.RegistersAndRetirement : Prop :=
  (∀ (s : State) (d r : Reg) (v : Word),
      s.x 0 = 0 ∧ s.setX 0 v = s ∧ (d ≠ 0 → (s.setX d v).x d = v) ∧ (r ≠ d → (s.setX d v).x r = s.x r)
        ∧ { s.setX d v with hart := { (s.setX d v).hart with x := s.hart.x } } = s)
    ∧ (∀ s : State,
        (s.hart.ahead = none → s.retire = { s with hart := { s.hart with pc := s.hart.pc + 4, retired := s.hart.retired + 1 } })
          ∧ ∀ k, s.hart.ahead = some k → s.retire = { s with hart := { s.hart with pc := s.hart.pc + 4, ahead := some (k + 1) } })

/-- R73: the seventeen INT operations, each of which completes in every state with its result of the table in xd. R74: the products, which complete in
every state. -/
def Obligations.IntegerArithmetic : Prop :=
  (∀ (s : State) (w : Width) (d a b : Reg),
      let x := s.low w a
      let y := s.low w b
      let k := s.amount w b
      let answers := fun (i : Instr) (v : Word) => exec i s = .next (s.setX d v).retire
      answers (.add w d a b) ((x + y).signExtend 64)
        ∧ answers (.sub w d a b) ((x - y).signExtend 64)
        ∧ answers (.andR w d a b) ((x &&& y).signExtend 64)
        ∧ answers (.orR w d a b) ((x ||| y).signExtend 64)
        ∧ answers (.xorR w d a b) ((x ^^^ y).signExtend 64)
        ∧ answers (.sll w d a b) ((x <<< k).signExtend 64)
        ∧ answers (.srl w d a b) ((x >>> k).setWidth 64)
        ∧ answers (.sra w d a b) ((x.sshiftRight k).signExtend 64)
        ∧ answers (.slt w d a b) (if x.slt y then 1 else 0)
        ∧ answers (.sltu w d a b) (if x.ult y then 1 else 0)
        ∧ answers (.minR w d a b) ((if x.slt y then x else y).signExtend 64)
        ∧ answers (.maxR w d a b) ((if x.slt y then y else x).signExtend 64)
        ∧ answers (.minu w d a b) ((if x.ult y then x else y).setWidth 64)
        ∧ answers (.maxu w d a b) ((if x.ult y then y else x).setWidth 64)
        ∧ (∃ c, c ≤ w.bits ∧ (∀ i, w.bits - c ≤ i → i < w.bits → x.getLsbD i = false) ∧ (c < w.bits → x.getLsbD (w.bits - 1 - c) = true)
            ∧ answers (.clz w d a) (BitVec.ofNat 64 c))
        ∧ (∃ c, c ≤ w.bits ∧ (∀ i, i < c → x.getLsbD i = false) ∧ (c < w.bits → x.getLsbD c = true) ∧ answers (.ctz w d a) (BitVec.ofNat 64 c))
        ∧ answers (.popc w d a) (BitVec.ofNat 64 ((List.range w.bits).countP (fun i => x.getLsbD i))))
    ∧ (∀ (s : State) (w : Width) (d a b : Reg),
        let x := s.low w a
        let y := s.low w b
        let answers := fun (i : Instr) (v : Word) => exec i s = .next (s.setX d v).retire
        answers (.mul w d a b) ((x * y).signExtend 64)
          ∧ answers (.mulh w d a b)
              (((x.signExtend (2 * w.bits) * y.signExtend (2 * w.bits)).extractLsb' w.bits w.bits).signExtend 64)
          ∧ answers (.mulhu w d a b)
              (((x.setWidth (2 * w.bits) * y.setWidth (2 * w.bits)).extractLsb' w.bits w.bits).setWidth 64))

/-- R36, R37 with R74: the divisions. By zero, and of the most negative number by −1, the result of the table is written and the sticky bit set where
the trap enable is clear; where it is set, code 12 is raised with tval 1 or 2 and nothing else happens. Every other division truncates toward zero
and sets no flag. -/
def Obligations.Divisions : Prop :=
  ∀ (s : State) (w : Width) (d a b : Reg),
    let x := s.low w a
    let y := s.low w b
    let wraps := x = BitVec.intMin w.bits ∧ y = -1
    let dz : State := { s with hart := { s.hart with iflags := s.hart.iflags ||| 2 } }
    let ov : State := { s with hart := { s.hart with iflags := s.hart.iflags ||| 1 } }
    let answers := fun (i : Instr) (u : State) (v : Word) => exec i s = .next (u.setX d v).retire
    (y = 0 → s.hart.iflags.getLsbD 9 = true →
        ∀ i ∈ [Instr.div w d a b, .divu w d a b, .rem w d a b, .remu w d a b], exec i s = .next (s.trap ⟨12, 1⟩))
      ∧ (y = 0 → s.hart.iflags.getLsbD 9 = false →
          answers (.div w d a b) dz (-1) ∧ answers (.divu w d a b) dz ((-1 : BitVec w.bits).setWidth 64)
            ∧ answers (.rem w d a b) dz (x.signExtend 64) ∧ answers (.remu w d a b) dz (x.setWidth 64))
      ∧ (wraps → s.hart.iflags.getLsbD 8 = true → ∀ i ∈ [Instr.div w d a b, .rem w d a b], exec i s = .next (s.trap ⟨12, 2⟩))
      ∧ (wraps → s.hart.iflags.getLsbD 8 = false →
          answers (.div w d a b) ov (x.signExtend 64) ∧ answers (.rem w d a b) ov 0)
      ∧ (y ≠ 0 → ¬wraps → answers (.div w d a b) s ((x.sdiv y).signExtend 64) ∧ answers (.rem w d a b) s ((x.srem y).signExtend 64))
      ∧ (y ≠ 0 → answers (.divu w d a b) s ((x.udiv y).setWidth 64) ∧ answers (.remu w d a b) s ((x.umod y).setWidth 64))

/-- R75, R76, R77: immediates, shifts by an immediate below the width, constants. R96: RNGX completes in every state with the value of its loop,
whatever else the state holds. -/
def Obligations.ImmediateOperations : Prop :=
  (∀ (s : State) (w : Width) (d a : Reg) (imm : BitVec 15) (c : BitVec 20) (sh : BitVec 6),
      let i := imm.signExtend 64
      let j := c.signExtend 64 * 32768
      let x := s.low w a
      let answers := fun (i : Instr) (v : Word) => exec i s = .next (s.setX d v).retire
      answers (.addi d a imm) (s.x a + i)
        ∧ answers (.andi d a imm) (s.x a &&& i)
        ∧ answers (.ori d a imm) (s.x a ||| i)
        ∧ answers (.xori d a imm) (s.x a ^^^ i)
        ∧ answers (.slti d a imm) (if (s.x a).slt i then 1 else 0)
        ∧ answers (.sltiu d a imm) (if (s.x a).ult i then 1 else 0)
        ∧ (sh.toNat < w.bits →
            answers (.slli w d a sh) ((x <<< sh.toNat).signExtend 64)
              ∧ answers (.srli w d a sh) ((x >>> sh.toNat).setWidth 64)
              ∧ answers (.srai w d a sh) ((x.sshiftRight sh.toNat).signExtend 64))
        ∧ answers (.lih d c) j
        ∧ answers (.addpc d c) (s.hart.pc + j))
    ∧ (∀ (s : State) (d a b : Reg) (n : BitVec 10),
        exec (.rngx d a b n) s =
          .next (s.setX d (rngLoop 10 (s.x b) ((n.setWidth 64 <<< 54) ^^^ 0x5E0BA7C419D38F61) (s.x a))).retire)

/-- R80, R81, R82: branches, LOOP and jumps complete in every state, but for a JALR whose target is not word-aligned, which raises code 0 and writes
nothing. Branches write no register. -/
def Obligations.ControlTransfers : Prop :=
  ∀ (s : State) (d a b : Reg) (off imm : BitVec 15) (far : BitVec 20),
    let goes := fun (i : Instr) (u : State) (pc : Word) => exec i s = .next { u with hart := u.hart.retireTo pc }
    let target := fun (c : Bool) => if c then s.hart.pc + 4 * off.signExtend 64 else s.hart.pc + 4
    let t := s.x a + imm.signExtend 64
    goes (.beq a b off) s (target (s.x a = s.x b))
      ∧ goes (.bne a b off) s (target (s.x a ≠ s.x b))
      ∧ goes (.blt a b off) s (target ((s.x a).toInt < (s.x b).toInt))
      ∧ goes (.bge a b off) s (target ((s.x b).toInt ≤ (s.x a).toInt))
      ∧ goes (.bltu a b off) s (target ((s.x a).toNat < (s.x b).toNat))
      ∧ goes (.bgeu a b off) s (target ((s.x b).toNat ≤ (s.x a).toNat))
      ∧ goes (.loop a off) (s.setX a (s.x a - 1)) (target (s.x a - 1 ≠ 0))
      ∧ goes (.jal d far) (s.setX d (s.hart.pc + 4)) (s.hart.pc + 4 * far.signExtend 64)
      ∧ (t.extractLsb' 0 2 = 0 → goes (.jalr d a imm) (s.setX d (s.hart.pc + 4)) t)
      ∧ (t.extractLsb' 0 2 ≠ 0 → exec (.jalr d a imm) s = .next (s.trap ⟨0, t⟩))

/-- The frame of the integer instructions, immediates, branches and jumps, where they take no trap: the register destination, the pc, the retired
count and (a division) the sticky bits of iflags are all that changes: every byte of memory, every other register of the hart and every other hart
is as it was. -/
def Obligations.IntegerFrame : Prop :=
  ∀ (s t : State) (w : Width) (d a b : Reg) (imm off : BitVec 15) (c far : BitVec 20) (sh : BitVec 6) (n : BitVec 10) (i : Instr),
    exec i s = .next t →
    (i ∈ [.add w d a b, .sub w d a b, .andR w d a b, .orR w d a b, .xorR w d a b, .sll w d a b, .srl w d a b, .sra w d a b, .slt w d a b,
        .sltu w d a b, .minR w d a b, .maxR w d a b, .minu w d a b, .maxu w d a b, .clz w d a, .ctz w d a, .popc w d a, .mul w d a b,
        .mulh w d a b, .mulhu w d a b, .lih d c, .addpc d c, .addi d a imm, .andi d a imm, .ori d a imm, .xori d a imm, .slti d a imm,
        .sltiu d a imm, .slli w d a sh, .srli w d a sh, .srai w d a sh, .rngx d a b n, .jal d far] → writesOnly d s t)
      ∧ (i ∈ [.div w d a b, .divu w d a b, .rem w d a b, .remu w d a b] → s.hart.iflags.extractLsb' 8 2 = 0 → writesFlags d s t)
      ∧ (i = .jalr d a imm → (s.x a + imm.signExtend 64).extractLsb' 0 2 = 0 → writesOnly d s t)
      ∧ (i ∈ [.beq a b off, .bne a b off, .blt a b off, .bge a b off, .bltu a b off, .bgeu a b off] → writesOnly 0 s t)
      ∧ (i = .loop a off → writesOnly a s t)

/-! ### Traps -/

/-- R31: entry of a synchronous trap where no VFETCH is pending: the target level, the five fields that are written, level and pc, and that the other
set of trap registers, the general registers and everything else stay. -/
def Obligations.TrapEntry : Prop :=
  ∀ (s : State) (code : Nat) (val : Word), s.hart.ahead = none → code < 2 ^ 16 →
    let t := s.trap ⟨code, val⟩
    let toM := s.hart.level = .m ∨ code = 9
    let entered := fun (o n : TrapRegs) =>
      n.epc = s.hart.pc ∧ n.cause.toNat = code ∧ n.tval = val ∧ n.tvec = o.tvec ∧ n.scratch = o.scratch
        ∧ n.status.getLsbD 1 = o.status.getLsbD 0 ∧ n.status.getLsbD 0 = false
        ∧ n.status.extractLsb' 2 2 = (match s.hart.level with | .u => 0 | .s => 1 | .m => 3)
        ∧ n.status.extractLsb' 4 60 = o.status.extractLsb' 4 60
    (toM → t.hart.level = .m ∧ entered s.hart.trapM t.hart.trapM ∧ t.hart.trapS = s.hart.trapS
        ∧ t.hart.pc = s.hart.trapM.tvec &&& 0xFFFFFFFFFFFFFFFC)
      ∧ (¬toM → t.hart.level = .s ∧ entered s.hart.trapS t.hart.trapS ∧ t.hart.trapM = s.hart.trapM
        ∧ t.hart.pc = s.hart.trapS.tvec &&& 0xFFFFFFFFFFFFFFFC)
      ∧ { t with hart := { t.hart with level := s.hart.level, pc := s.hart.pc, trapS := s.hart.trapS, trapM := s.hart.trapM } } = s

/-- R32: TRET at S or M: pc and level come from the level's own registers, ie becomes pie, pie 1 and ppriv 0; nothing else changes but the retired
count. At U it raises code 2 with its word. R92: SYSC raises code 8, 9 or 11 by the level with tval 0, BRK code 3 with tval the pc. -/
def Obligations.TrapReturnAndCalls : Prop :=
  (∀ s : State, s.hart.ahead = none →
      let left := fun (o n : TrapRegs) =>
        n.status.getLsbD 0 = o.status.getLsbD 1 ∧ n.status.getLsbD 1 = true ∧ n.status.extractLsb' 2 2 = 0
          ∧ n.status.extractLsb' 4 60 = o.status.extractLsb' 4 60 ∧ { n with status := o.status } = o
      let restored := fun (o : TrapRegs) (l : Level) =>
        (o.status.extractLsb' 2 2 = 0 → l = .u) ∧ (o.status.extractLsb' 2 2 = 1 → l = .s) ∧ (o.status.extractLsb' 2 2 = 3 → l = .m)
      let rest := fun (t : State) =>
        { t with hart := { t.hart with level := s.hart.level, pc := s.hart.pc, trapS := s.hart.trapS, trapM := s.hart.trapM, retired := s.hart.retired } } = s
          ∧ t.hart.retired = s.hart.retired + 1
      (s.hart.level = .m → ∃ t, exec .tret s = .next t ∧ t.hart.pc = s.hart.trapM.epc ∧ restored s.hart.trapM t.hart.level
          ∧ left s.hart.trapM t.hart.trapM ∧ t.hart.trapS = s.hart.trapS ∧ rest t)
        ∧ (s.hart.level = .s → ∃ t, exec .tret s = .next t ∧ t.hart.pc = s.hart.trapS.epc ∧ restored s.hart.trapS t.hart.level
          ∧ left s.hart.trapS t.hart.trapS ∧ t.hart.trapM = s.hart.trapM ∧ rest t)
        ∧ (s.hart.level = .u → exec .tret s = .next (s.trap ⟨2, 0x72000002⟩)))
    ∧ (∀ s : State,
        (s.hart.level = .u → exec .sysc s = .next (s.trap ⟨8, 0⟩)) ∧ (s.hart.level = .s → exec .sysc s = .next (s.trap ⟨9, 0⟩))
          ∧ (s.hart.level = .m → exec .sysc s = .next (s.trap ⟨11, 0⟩)) ∧ exec .brk s = .next (s.trap ⟨3, s.hart.pc⟩))

/-- R94, R95: WAITI retires and issues on where an interrupt is pending, else waits until one is; HALT at M retires and stops the hart's issue, and
below M raises code 2. -/
def Obligations.WaitAndHalt : Prop :=
  ∀ s : State,
    (s.interruptPending s.cur = true → exec .waiti s = .next s.retire)
      ∧ (s.interruptPending s.cur = false → exec .waiti s = .next { s.retire with hart := { s.retire.hart with run := .waiting .waiti } })
      ∧ (s.hart.run = .waiting .waiti → s.interruptPending s.cur = true →
          exec .waitiWake s = .next { s with hart := { s.hart with run := .running } })
      ∧ (s.hart.run = .waiting .waiti → s.interruptPending s.cur = false → exec .waitiWake s = .next s)
      ∧ (s.hart.level = .m → exec .halt s = .next { s.retire with hart := { s.retire.hart with run := .halted } })
      ∧ (s.hart.level ≠ .m → exec .halt s = .next (s.trap ⟨2, 0x72000004⟩))

/-! ### Control registers -/

/-- R16, R17, R89: an access of an assigned register that the level may make completes: CRRW writes X(xs1), CRRS and CRRC set or clear the bits of
X(xs1) unless xs1 is x0, and xd receives the old value. R17: an unassigned number, one above the level, and a write of a read-only register raise
code 2 with the word as tval. -/
def Obligations.ControlRegisterAccess : Prop :=
  (∀ (s : State) (d a : Reg) (crn : BitVec 12) (r : Cr),
      crOf crn.toNat = some r →
      (crn.toNat < 0x100 ∨ (crn.toNat < 0x400 ∧ s.hart.level ≠ .u) ∨ (crn.toNat < 0x800 ∧ s.hart.level = .m)) →
      let old := s.readCr r
      let u := s.afterCrRead r
      (r.readOnly = false → exec (.crrw d a crn) s = .next ((u.writeCr r (s.x a)).setX d old).retire)
        ∧ (a = 0 → exec (.crrs d a crn) s = .next (u.setX d old).retire ∧ exec (.crrc d a crn) s = .next (u.setX d old).retire)
        ∧ (a ≠ 0 → r.readOnly = false →
            exec (.crrs d a crn) s = .next ((u.writeCr r (old ||| s.x a)).setX d old).retire
              ∧ exec (.crrc d a crn) s = .next ((u.writeCr r (old &&& ~~~s.x a)).setX d old).retire))
    ∧ (∀ (s : State) (d a : Reg) (crn : BitVec 12),
        let refused := crOf crn.toNat = none ∨ (0x100 ≤ crn.toNat ∧ s.hart.level = .u) ∨ (0x400 ≤ crn.toNat ∧ s.hart.level ≠ .m)
        let readOnly := ∃ r, crOf crn.toNat = some r ∧ r.readOnly = true
        let illegalWord := fun (fn : BitVec 3) => (Host.Outcome.next (s.trap ⟨2, (((0x38 : BitVec 7) ++ d ++ a ++ crn ++ fn : BitVec 32)).setWidth 64⟩) : Result)
        (refused ∨ readOnly → exec (.crrw d a crn) s = illegalWord 0)
          ∧ (refused ∨ (readOnly ∧ a ≠ 0) → exec (.crrs d a crn) s = illegalWord 1 ∧ exec (.crrc d a crn) s = illegalWord 2))

/-- R19, R20, R21, R24, R25, R26: what a write leaves to be read: reserved bits zero, ppriv 0b10 as 0b00 and in status_s 0b11 as 0b01, tvec mode 0b10
and 0b11 as 0b00, epc word-aligned. The frame of a control-register write: no register but the one written reads otherwise, and memory, the
general registers, the vector registers and the tiles stay. -/
def Obligations.ControlRegisterFields : Prop :=
  (∀ (s : State) (v : Word),
      let after := fun (r : Cr) => (s.writeCr r v).readCr r
      after .fflags = v &&& 0x1F ∧ after .frm = v &&& 7 ∧ after .iflags = v &&& 0x303
        ∧ (∀ r ∈ [Cr.statusS, .statusM], (after r).extractLsb' 0 2 = v.extractLsb' 0 2 ∧ (after r).getLsbD 4 = v.getLsbD 4
            ∧ (after r).extractLsb' 5 59 = 0)
        ∧ (after .statusM).extractLsb' 2 2 = (if v.extractLsb' 2 2 = 2 then 0 else v.extractLsb' 2 2)
        ∧ (after .statusS).extractLsb' 2 2 = (if v.extractLsb' 2 2 = 2 then 0 else if v.extractLsb' 2 2 = 3 then 1 else v.extractLsb' 2 2)
        ∧ (∀ r ∈ [Cr.tvecS, .tvecM], (after r).extractLsb' 2 62 = v.extractLsb' 2 62
            ∧ (after r).extractLsb' 0 2 = (if v.getLsbD 1 then 0 else v.extractLsb' 0 2))
        ∧ (∀ r ∈ [Cr.epcS, .epcM], after r = v &&& 0xFFFFFFFFFFFFFFFC)
        ∧ (∀ r ∈ [Cr.causeS, .causeM], after r = v &&& 0x800000000000FFFF)
        ∧ (∀ r ∈ [Cr.tvalS, .tvalM, .scratchS, .scratchM], after r = v))
    ∧ (∀ (s : State) (r q : Cr) (v : Word), q ≠ r →
        let t := s.writeCr r v
        t.readCr q = s.readCr q ∧ t.mem = s.mem ∧ t.pend = s.pend ∧ t.poison = s.poison ∧ t.hart.x = s.hart.x ∧ t.hart.pc = s.hart.pc
          ∧ t.hart.level = s.hart.level ∧ t.hart.v = s.hart.v ∧ t.hart.vtag = s.hart.vtag ∧ t.hart.m = s.hart.m
          ∧ (∀ c, (t.coreAt c).tile = (s.coreAt c).tile) ∧ t.others = s.others)

/-! ### Scalar floating point -/

/-- R83, R86, R87 with R20, R40: the rounding operations take their mode first; where it is none they raise code 2 and nothing else happens; else they
complete with the exact value rounded once into xd and the flags in fflags. R44, R45, as the rounding operations take them. A signalling NaN,
infinities of opposite signs added, 0 × ∞ (with any addend), 0 / 0, ∞ / ∞ and the root of a value below −0 are invalid: NV and a NaN; a quiet NaN
gives a NaN and no flag; a nonzero value over a zero is an infinity with DZ. A sum, a product and a fused sum of finite values are exact, an exact
zero sum positive but in RDN unless both signs agree. A quotient and a root are the exact ones cut 160 places on, with a last place that is odd
where something was cut off, so that rounding them rounds the exact value. R46, R47, R86: what FCVT reads, and what it delivers. To an integer: a
NaN and a value that rounds above the range give its maximum, one below it the minimum, with NV alone; a value that rounds into it is delivered,
with NX where it differs. To a float: the value rounded. -/
def Obligations.RoundingOperations : Prop :=
  (∀ (s : State) (f : SFmt) (rm : RMode) (d a b c : Reg) (np na : Bool) (dst src : CvtType),
      let x := f.fmt.value ((s.x a).toNat % 2 ^ f.fmt.width)
      let y := f.fmt.value ((s.x b).toNat % 2 ^ f.fmt.width)
      let fused := fun (g : FFmt) (m : RMode) =>
        let op := fun (neg : Bool) (r : Reg) =>
          let v := g.value ((s.x r).toNat % 2 ^ g.width)
          if neg then v.negate else v
        fFma (decide (m = .rdn)) (op np a) (op false b) (op na c)
      let gives := fun (g : FFmt) (m : RMode) (p : FVal × Nat) =>
        (Host.Outcome.next (((s.raiseF (p.2 ||| (g.round m p.1).2)).setX d (BitVec.ofNat 64 (g.round m p.1).1)).retire) : Result)
      (∀ m, s.mode rm = some m →
          exec (.fadd f rm d a b) s = gives f.fmt m (fAdd (decide (m = .rdn)) x y)
            ∧ exec (.fsub f rm d a b) s = gives f.fmt m (fAdd (decide (m = .rdn)) x y.negate)
            ∧ exec (.fmul f rm d a b) s = gives f.fmt m (fMul x y)
            ∧ exec (.fdiv f rm d a b) s = gives f.fmt m (fDiv x y)
            ∧ exec (.fsqrt f rm d a) s = gives f.fmt m (fSqrt x)
            ∧ exec (.fmaF16 np na rm d a b c) s = gives fmtF16 m (fused fmtF16 m)
            ∧ exec (.fmaF32 np na rm d a b c) s = gives fmtF32 m (fused fmtF32 m)
            ∧ exec (.fmaF64 np na rm d a b c) s = gives fmtF64 m (fused fmtF64 m)
            ∧ exec (.fcvt dst src rm d a) s =
                .next (((s.raiseF (dst.result m (src.operand (s.x a))).2).setX d (dst.result m (src.operand (s.x a))).1).retire))
        ∧ (s.mode rm = none →
          ∀ i ∈ [Instr.fadd f rm d a b, .fsub f rm d a b, .fmul f rm d a b, .fdiv f rm d a b, .fsqrt f rm d a, .fmaF16 np na rm d a b c,
              .fmaF32 np na rm d a b c, .fmaF64 np na rm d a b c, .fcvt dst src rm d a],
            ∃ w, encode i = some w ∧ exec i s = .next (s.trap ⟨2, w.setWidth 64⟩)))
    ∧ (∀ (rdn n1 n2 : Bool) (m1 m2 : Nat) (e1 e2 : Int) (x y z : FVal),
        let a := FVal.fin n1 m1 e1
        let b := FVal.fin n2 m2 e2
        let product := FVal.fin (n1 != n2) (m1 * m2) (e1 + e2)
        let signed := fun (n : Bool) (m : Nat) => if n then -(m : Int) else (m : Int)
        let invalid := (FVal.nan false, 16)
        let quiet := (FVal.nan false, 0)
        let zeroInf := (m1 = 0 ∧ x = a ∧ y = .inf n2) ∨ (m2 = 0 ∧ x = .inf n1 ∧ y = b)
        (x.isSig ∨ y.isSig → fAdd rdn x y = invalid ∧ fMul x y = invalid ∧ fDiv x y = invalid)
          ∧ (x.isSig → fSqrt x = invalid) ∧ (x.isSig ∨ y.isSig ∨ z.isSig → fFma rdn x y z = invalid)
          ∧ (x.isNan ∨ y.isNan → x.isSig = false → y.isSig = false → fAdd rdn x y = quiet ∧ fMul x y = quiet ∧ fDiv x y = quiet)
          ∧ fSqrt (.nan false) = quiet
          ∧ (x.isNan ∨ y.isNan → x.isSig = false → y.isSig = false → z.isSig = false → fFma rdn x y z = quiet)
          ∧ (zeroInf → fMul x y = invalid ∧ fFma rdn x y z = invalid)
          ∧ fAdd rdn (.inf n1) (.inf !n1) = invalid ∧ (fMul x y = (.inf n1, 0) → fFma rdn x y (.inf !n1) = invalid)
          ∧ (fMul x y = (.inf n1, 0) → z.isNan = false → z ≠ .inf !n1 → fFma rdn x y z = (.inf n1, 0))
          ∧ fAdd rdn (.inf n1) (.inf n1) = (.inf n1, 0) ∧ fAdd rdn (.inf n1) b = (.inf n1, 0) ∧ fAdd rdn b (.inf n1) = (.inf n1, 0)
          ∧ fMul (.inf n1) (.inf n2) = (.inf (n1 != n2), 0)
          ∧ (m2 ≠ 0 → fMul (.inf n1) b = (.inf (n1 != n2), 0) ∧ fMul b (.inf n1) = (.inf (n2 != n1), 0))
          ∧ fDiv (.inf n1) (.inf n2) = invalid ∧ fDiv (.inf n1) b = (.inf (n1 != n2), 0) ∧ fDiv a (.inf n2) = (.fin (n1 != n2) 0 0, 0)
          ∧ fSqrt (.inf true) = invalid ∧ fSqrt (.inf false) = (.inf false, 0)
          ∧ (∃ n m, fAdd rdn a b = (.fin n m (min e1 e2), 0)
              ∧ signed n m = signed n1 (m1 * 2 ^ (e1 - min e1 e2).toNat) + signed n2 (m2 * 2 ^ (e2 - min e1 e2).toNat)
              ∧ (m = 0 → n = if n1 = n2 then n1 else rdn))
          ∧ fMul a b = (product, 0) ∧ (∀ n m e, fFma rdn a b (.fin n m e) = fAdd rdn product (.fin n m e)) ∧ fFma rdn a b (.inf n1) = (.inf n1, 0)
          ∧ fFma rdn a b (.nan false) = quiet
          ∧ (m2 = 0 → fDiv a b = if m1 = 0 then invalid else (.inf (n1 != n2), 8)) ∧ (m1 = 0 → m2 ≠ 0 → fDiv a b = (.fin (n1 != n2) 0 0, 0))
          ∧ (m1 ≠ 0 → m2 ≠ 0 → ∃ k, fDiv a b = (.fin (n1 != n2) k (e1 - e2 - 161), 0) ∧ m2 * (k / 2) ≤ m1 * 2 ^ 160 ∧ m1 * 2 ^ 160 < m2 * (k / 2 + 1)
              ∧ (k % 2 = 0 ↔ m2 * (k / 2) = m1 * 2 ^ 160))
          ∧ (m1 = 0 → fSqrt a = (.fin n1 0 0, 0)) ∧ (m1 ≠ 0 → n1 → fSqrt a = invalid)
          ∧ (m1 ≠ 0 → n1 = false → ∃ k j, fSqrt a = (.fin false k j, 0) ∧ 2 * j + 2 + 160 ≤ e1 ∧
              let v := m1 * 2 ^ (e1 - (2 * j + 2)).toNat
              k / 2 * (k / 2) ≤ v ∧ v < (k / 2 + 1) * (k / 2 + 1) ∧ (k % 2 = 0 ↔ k / 2 * (k / 2) = v)))
    ∧ (∀ (s : State) (rm : RMode) (d a : Reg) (dst src : CvtType) (m : RMode), s.mode rm = some m →
        let w := s.x a
        let x := src.operand w
        let gives := fun (v : Word) (fl : Nat) => exec (.fcvt dst src rm d a) s = .next (((s.raiseF fl).setX d v).retire)
        let toInteger := fun (lo hi : Int) =>
          (x.isNan ∨ x = .inf false → gives (BitVec.ofInt 64 hi) 16) ∧ (x = .inf true → gives (BitVec.ofInt 64 lo) 16)
            ∧ ∀ n k e, x = .fin n k e →
                let r := roundAt m n k e 0
                let v : Int := if n then -(r.1 : Int) else r.1
                (hi < v → gives (BitVec.ofInt 64 hi) 16) ∧ (v < lo → gives (BitVec.ofInt 64 lo) 16)
                  ∧ (lo ≤ v → v ≤ hi → gives (BitVec.ofInt 64 v) (if r.2 then 1 else 0))
        let toFloat := fun (g : FFmt) => gives (BitVec.ofNat 64 (g.round m x).1) (g.round m x).2
        let integer := fun (v : Int) => x = .fin (decide (v < 0)) v.natAbs 0
        (src = .i32 → integer (w.setWidth 32).toInt) ∧ (src = .n32 → integer (w.setWidth 32).toNat) ∧ (src = .i64 → integer w.toInt)
          ∧ (src = .n64 → integer w.toNat)
          ∧ (src = .f16 → x = fmtF16.value (w.toNat % 2 ^ 16)) ∧ (src = .f32 → x = fmtF32.value (w.toNat % 2 ^ 32))
          ∧ (src = .f64 → x = fmtF64.value w.toNat)
          ∧ (dst = .i32 → toInteger (-2 ^ 31) (2 ^ 31 - 1)) ∧ (dst = .n32 → toInteger 0 (2 ^ 32 - 1)) ∧ (dst = .i64 → toInteger (-2 ^ 63) (2 ^ 63 - 1))
          ∧ (dst = .n64 → toInteger 0 (2 ^ 64 - 1))
          ∧ (dst = .f16 → toFloat fmtF16) ∧ (dst = .f32 → toFloat fmtF32) ∧ (dst = .f64 → toFloat fmtF64))

/-- R84, R85 with R43, R44: the operations that do not round complete in every state. Sign injection moves bits, comparisons write 0 or 1 and raise NV
for a signalling NaN (ordered ones for any NaN), minimum and maximum follow minimumNumber and maximumNumber, FCLASS sets one bit. -/
def Obligations.NonRoundingOperations : Prop :=
  ∀ (s : State) (f : SFmt) (d a b : Reg),
    let g := f.fmt
    let n := g.width
    let p : BitVec n := (s.x a).setWidth n
    let q : BitVec n := (s.x b).setWidth n
    let x := g.value p.toNat
    let y := g.value q.toNat
    let sig := if x.isSig || y.isSig then 16 else 0
    let nan := if x.isNan || y.isNan then 16 else 0
    let gives := fun (fl : Nat) (v : Word) => (Host.Outcome.next (((s.raiseF fl).setX d v).retire) : Result)
    let magnitude := p &&& BitVec.ofNat n (2 ^ (n - 1) - 1)
    let sign := fun (b : Bool) => if b then BitVec.intMin n else 0
    exec (.fsgnj f d a b) s = gives 0 ((sign q.msb ||| magnitude).setWidth 64)
      ∧ exec (.fsgnjn f d a b) s = gives 0 ((sign (!q.msb) ||| magnitude).setWidth 64)
      ∧ exec (.fsgnjx f d a b) s = gives 0 ((sign (p.msb ^^ q.msb) ||| magnitude).setWidth 64)
      ∧ exec (.fcmpEq f d a b) s = gives sig (if fEqual x y then 1 else 0)
      ∧ exec (.fcmpLt f d a b) s = gives nan (if nan = 0 ∧ fLess x y then 1 else 0)
      ∧ exec (.fcmpLe f d a b) s = gives nan (if nan = 0 ∧ (fLess x y ∨ fEqual x y) then 1 else 0)
      ∧ exec (.fmin f d a b) s = gives sig
          ((if x.isNan && y.isNan then BitVec.ofNat n g.canonNan else if x.isNan then q else if y.isNan then p
            else if fLess y x || (fEqual x y && y.neg && !x.neg) then q else p).setWidth 64)
      ∧ exec (.fmax f d a b) s = gives sig
          ((if x.isNan && y.isNan then BitVec.ofNat n g.canonNan else if x.isNan then q else if y.isNan then p
            else if fLess x y || (fEqual x y && x.neg && !y.neg) then q else p).setWidth 64)
      ∧ (∃ k, k < 10 ∧ exec (.fclass f d a) s = gives 0 (BitVec.ofNat 64 (2 ^ k))
          ∧ (k = 8 ↔ x = .nan true) ∧ (k = 9 ↔ x = .nan false) ∧ (k = 0 ↔ x = .inf true) ∧ (k = 7 ↔ x = .inf false)
          ∧ (k = 3 ↔ ∃ e, x = .fin true 0 e) ∧ (k = 4 ↔ ∃ e, x = .fin false 0 e)
          ∧ (k = 2 ↔ ∃ m e, x = .fin true m e ∧ 0 < m ∧ m < 2 ^ g.fbits) ∧ (k = 5 ↔ ∃ m e, x = .fin false m e ∧ 0 < m ∧ m < 2 ^ g.fbits)
          ∧ (k = 1 ↔ ∃ m e, x = .fin true m e ∧ 2 ^ g.fbits ≤ m) ∧ (k = 6 ↔ ∃ m e, x = .fin false m e ∧ 2 ^ g.fbits ≤ m))

/-- R40: a magnitude m × 2^e brought to a multiple of 2^q: nearest with ties to even or away, toward zero, down, up; and NX exactly where the multiple
differs. R41, R42, R133, R140, over f16, bf16, f32, f64 and the float reading of ACC80: a nonzero magnitude m × 2^e, rounded at the format's
precision with unbounded exponent, has the exponent `top`. Above the largest finite value it overflows, with OF and NX, to an infinity or to the
largest finite value by mode and sign; below the smallest normal it is delivered rounded at the last place of the subnormals, with UF and NX where
that differs from it and no flag where it does not; between them the rounded value is delivered, with NX where it differs. R39 with R41: every
finite number of f16, bf16, f32, f64 and of ACC80's float reading is delivered as it is, without a flag, in every mode; an infinity as well; and
every NaN as the canonical NaN. -/
def Obligations.Rounding : Prop :=
  (∀ (neg : Bool) (m : Nat) (e q : Int), e < q →
      let d : Int := 2 ^ (q - e).toNat
      let err := fun (mode : RMode) => ((roundAt mode neg m e q).1 : Int) * d - m
      let r := fun (mode : RMode) => (roundAt mode neg m e q).1
      (∀ mode, (roundAt mode neg m e q).2 = true ↔ err mode ≠ 0)
        ∧ (-d < err .rtz ∧ err .rtz ≤ 0)
        ∧ (neg = false → -d < err .rdn ∧ err .rdn ≤ 0) ∧ (neg = true → 0 ≤ err .rdn ∧ err .rdn < d)
        ∧ (neg = true → -d < err .rup ∧ err .rup ≤ 0) ∧ (neg = false → 0 ≤ err .rup ∧ err .rup < d)
        ∧ (-d ≤ 2 * err .rne ∧ 2 * err .rne ≤ d) ∧ ((2 * err .rne = d ∨ 2 * err .rne = -d) → r .rne % 2 = 0)
        ∧ (-d < 2 * err .rmm ∧ 2 * err .rmm ≤ d))
    ∧ (∀ (g : FFmt) (mode : RMode) (neg : Bool) (m : Nat) (e : Int), g ∈ [fmtF16, fmtBf16, fmtF32, fmtF64, fmtAcc80] → m ≠ 0 →
        let q : Int := (m.log2 : Int) + e - g.fbits
        let low : Int := 1 - (g.bias : Int) - g.fbits
        let r := roundAt mode neg m e q
        let sub := roundAt mode neg m e low
        let top : Int := (r.1.log2 : Int) + q
        let signed := fun (b : Nat) => (if neg then 2 ^ (g.width - 1) else 0) + b
        let infinity := (2 ^ g.ebits - 1) * 2 ^ g.fbits
        let toFinite := mode = .rtz ∨ (mode = .rdn ∧ neg = false) ∨ (mode = .rup ∧ neg = true)
        let got := g.round mode (.fin neg m e)
        ((g.bias : Int) < top → got = (signed (if toFinite then infinity - 1 else infinity), 5))
          ∧ (top < 1 - (g.bias : Int) → got = (signed sub.1, if sub.2 then 3 else 0))
          ∧ (1 - (g.bias : Int) ≤ top → top ≤ (g.bias : Int) →
              g.value got.1 = (if r.1 = 2 ^ (g.fbits + 1) then .fin neg (2 ^ g.fbits) (q + 1) else .fin neg r.1 q)
                ∧ got.2 = if r.2 then 1 else 0))
    ∧ (∀ (g : FFmt) (nan : Nat) (mode : RMode) (b : Nat),
        (g, nan) ∈ [(fmtF16, 0x7E00), (fmtBf16, 0x7FC0), (fmtF32, 0x7FC00000), (fmtF64, 0x7FF8000000000000), (fmtAcc80, 0x7FF80000000000000000)] →
        b < 2 ^ g.width →
        ((g.value b).isNan = false → g.round mode (g.value b) = (b, 0)) ∧ ((g.value b).isNan = true → (g.round mode (g.value b)).1 = nan))

/-! ### Loads, stores, atomic operations, fences -/

/-- R78, R297: a load whose access is aligned, reaches something that responds and meets no poison completes: xd receives the bytes extended under
R71. LDS reads at its scope and, with .acq, acquires there. What a load leaves behind (the writes it returned, at the hart's own point, and the
request to its HBM channel) changes no byte of memory, no hart, and no more of a die than its lending pairs. The scope of an acquire with an MMIO
register is the choice of log entry 81. -/
def Obligations.Loads : Prop :=
  ∀ (s : State) (d a : Reg) (imm : BitVec 15) (imm10 : BitVec 10) (w : Width) (sc : Scope) (acq : Bool) (v : Nat),
    let va := s.x a + imm.signExtend 64
    let va10 := s.x a + imm10.signExtend 64
    let answers := fun (i : Instr) (n : Nat) (r : Word) => exec i s = .next ((s.observeAt s.ctx .hart va n).setX d r).retire
    (s.readsAs .hart va 1 v → answers (.lb d a imm) 1 ((BitVec.ofNat 8 v).signExtend 64) ∧ answers (.lbu d a imm) 1 ((BitVec.ofNat 8 v).setWidth 64))
      ∧ (s.readsAs .hart va 2 v →
          answers (.lh d a imm) 2 ((BitVec.ofNat 16 v).signExtend 64) ∧ answers (.lhu d a imm) 2 ((BitVec.ofNat 16 v).setWidth 64))
      ∧ (s.readsAs .hart va 4 v →
          answers (.lw d a imm) 4 ((BitVec.ofNat 32 v).signExtend 64) ∧ answers (.lwu d a imm) 4 ((BitVec.ofNat 32 v).setWidth 64))
      ∧ (s.readsAs .hart va 8 v → answers (.ld d a imm) 8 (BitVec.ofNat 64 v))
      ∧ (s.readsAs sc va10 (w.bits / 8) v →
          let u := s.observeAt s.ctx sc va10 (w.bits / 8)
          exec (.lds w d a imm10 sc acq) s =
            .next ((if acq then u.acquire (.hart s.cur) sc else u).setX d ((BitVec.ofNat w.bits v).signExtend 64)).retire)
      ∧ ∀ va n, let u := s.observeAt s.ctx sc va n
          { u with pend := s.pend, dies := s.dies } = s ∧ ∀ k, ∃ l, u.dieAt k = { s.dieAt k with lend := l }

/-- R78, R297: a store whose access is aligned and reaches memory completes: the bytes it covers hold the low bytes of X(xs2) and the hart sees them,
every other byte of memory is as it was, and so is everything but memory, the writes under way, the lending pairs, the pc and the retired count.
STS.rel performs the earlier writes at its scope first: they appear, and take their places in the coherence order of their bytes, and no byte
changes otherwise; it is noted as the hart's last release. R277: an 8-byte store to an MMIO register completes with the register's write, a
pending VFETCH having retired before it; a smaller one, and one of any size to the boot ROM, raise code 7. The scope of a release with an MMIO
register is the choice of log entry 81. -/
def Obligations.Stores : Prop :=
  (∀ (s : State) (b a : Reg) (imm : BitVec 15) (imm10 : BitVec 10) (w : Width) (sc : Scope) (rel : Bool) (pa : Nat) (h : Bool),
      let stored := fun (i : Instr) (n : Nat) (releases : Tab Nat) (before : Nat → Byte) =>
        ∃ t, exec i s = .next t ∧ t.hart = s.retire.hart ∧ t.releases = releases
          ∧ { t with hart := s.hart, mem := s.mem, pend := s.pend, dies := s.dies, releases := s.releases } = s
          ∧ (∀ k, ∃ l, t.dieAt k = { s.dieAt k with lend := l })
          ∧ (∀ k, k < n → t.latest (pa + k) = BitVec.ofNat 8 ((s.x b).toNat / 256 ^ k))
          ∧ (∀ k sc', k < n → t.view (.hart s.cur) sc' (pa + k) = t.latest (pa + k))
          ∧ (∀ q, q < pa ∨ pa + n ≤ q → t.latest q = before q)
      let reaches := fun (u : State) (va : Word) (n : Nat) => u.target u.ctx .store va n = .ok (.mem pa h)
      (reaches s (s.x a + imm.signExtend 64) 1 → stored (.sb b a imm) 1 s.releases s.latest)
        ∧ (reaches s (s.x a + imm.signExtend 64) 2 → stored (.sh b a imm) 2 s.releases s.latest)
        ∧ (reaches s (s.x a + imm.signExtend 64) 4 → stored (.sw b a imm) 4 s.releases s.latest)
        ∧ (reaches s (s.x a + imm.signExtend 64) 8 → stored (.sd b a imm) 8 s.releases s.latest)
        ∧ (reaches (if rel then s.release (.hart s.cur) sc else s) (s.x a + imm10.signExtend 64) (w.bits / 8) →
            stored (.sts w b a imm10 sc rel) (w.bits / 8) (if rel then Tab.put 0 s.releases s.cur s.tick else s.releases)
              (if rel then s.appear (.hart s.cur) else s).latest))
    ∧ (∀ (s : State) (b a : Reg) (imm : BitVec 15) (imm10 : BitVec 10) (w : Width) (sc : Scope) (rel : Bool),
        let va := s.x a + imm.signExtend 64
        let va10 := s.x a + imm10.signExtend 64
        let u := if rel then s.release (.hart s.cur) sc else s
        let stores : List (Instr × Nat) := [(.sb b a imm, 1), (.sh b a imm, 2), (.sw b a imm, 4), (.sd b a imm, 8)]
        (∀ die off, s.target s.ctx .store va 8 = .ok (.reg die off) → (off = 0x07000000 → s.hart.level ≠ .u) →
            exec (.sd b a imm) s = .next ((s.withHart Hart.settle).writeReg die off (s.x b)).retire)
          ∧ (∀ p ∈ stores, p.2 < 8 → ∀ die off, s.target s.ctx .store va p.2 = .ok (.reg die off) → exec p.1 s = .next (s.trap ⟨7, va⟩))
          ∧ (∀ p ∈ stores, ∀ pa, s.target s.ctx .store va p.2 = .ok (.rom pa) → exec p.1 s = .next (s.trap ⟨7, va⟩))
          ∧ (∀ die off, u.target s.ctx .store va10 (w.bits / 8) = .ok (.reg die off) →
              (w.bits = 64 → (off = 0x07000000 → s.hart.level ≠ .u) →
                  exec (.sts w b a imm10 sc rel) s = .next ((u.withHart Hart.settle).writeReg die off (s.x b)).retire)
                ∧ (w.bits < 64 → exec (.sts w b a imm10 sc rel) s = .next (s.trap ⟨7, va10⟩)))
          ∧ (∀ pa, u.target s.ctx .store va10 (w.bits / 8) = .ok (.rom pa) → exec (.sts w b a imm10 sc rel) s = .next (s.trap ⟨7, va10⟩)))

/-- R28, R34, R78, R297: a misaligned access, scoped or not, raises code 4 or 6 with the address, before any other cause of it; an access that its
checks refuse raises their cause; a load of a poisoned sector raises code 33. Nothing else happens. R300, R301: an AMO on a misaligned address
raises code 6, one its checks refuse raises their cause, one on MMIO or the boot ROM code 7, one on a poisoned location code 33 with nothing
written. -/
def Obligations.AddressTraps : Prop :=
  (∀ (s : State) (d a : Reg) (imm : BitVec 15) (imm10 : BitVec 10) (w : Width) (sc : Scope) (ord : Bool),
      let va := s.x a + imm.signExtend 64
      let va10 := s.x a + imm10.signExtend 64
      let n := w.bits / 8
      let lds := exec (.lds w d a imm10 sc ord) s
      let sts := exec (.sts w d a imm10 sc ord) s
      let loads : List (Instr × Nat) := [(.lb d a imm, 1), (.lbu d a imm, 1), (.lh d a imm, 2), (.lhu d a imm, 2), (.lw d a imm, 4), (.lwu d a imm, 4), (.ld d a imm, 8)]
      let stores : List (Instr × Nat) := [(.sb d a imm, 1), (.sh d a imm, 2), (.sw d a imm, 4), (.sd d a imm, 8)]
      (∀ p ∈ loads, va.toNat % p.2 ≠ 0 → exec p.1 s = .next (s.trap ⟨4, va⟩))
        ∧ (∀ p ∈ stores, va.toNat % p.2 ≠ 0 → exec p.1 s = .next (s.trap ⟨6, va⟩))
        ∧ (va10.toNat % n ≠ 0 → lds = .next (s.trap ⟨4, va10⟩) ∧ sts = .next (s.trap ⟨6, va10⟩))
        ∧ (∀ p ∈ loads, ∀ t, s.target s.ctx .load va p.2 = .error t → exec p.1 s = .next (s.trap t))
        ∧ (∀ p ∈ stores, ∀ t, s.target s.ctx .store va p.2 = .error t → exec p.1 s = .next (s.trap t))
        ∧ (∀ t, s.target s.ctx .load va10 n = .error t → lds = .next (s.trap t))
        ∧ (∀ t, (if ord then s.release (.hart s.cur) sc else s).target s.ctx .store va10 n = .error t → sts = .next (s.trap t))
        ∧ (∀ p ∈ loads, ∀ pa h, s.target s.ctx .load va p.2 = .ok (.mem pa h) → s.poisoned pa = true → exec p.1 s = .next (s.trap ⟨33, va⟩))
        ∧ (∀ pa h, s.target s.ctx .load va10 n = .ok (.mem pa h) → s.poisoned pa = true → lds = .next (s.trap ⟨33, va10⟩)))
    ∧ (∀ (s : State) (dbl : Bool) (d a b : Reg) (sc : Scope) (ord : Ord) (i : Instr),
        let n := if dbl then 8 else 4
        i ∈ [.amoadd dbl d a b sc ord, .amoand dbl d a b sc ord, .amoor dbl d a b sc ord, .amoxor dbl d a b sc ord, .amomin dbl d a b sc ord,
            .amomax dbl d a b sc ord, .amominu dbl d a b sc ord, .amomaxu dbl d a b sc ord, .amoswap dbl d a b sc ord, .amocas dbl d a b sc ord,
            .amofmax dbl d a b sc ord, .amofmin dbl d a b sc ord, .amofadd dbl d a b sc ord] →
        ((s.x a).toNat % n ≠ 0 → exec i s = .next (s.trap ⟨6, s.x a⟩))
          ∧ (∀ t, s.target s.ctx .store (s.x a) n = .error t → exec i s = .next (s.trap t))
          ∧ (∀ x, s.target s.ctx .store (s.x a) n = .ok x → (∀ pa h, x ≠ .mem pa h) → exec i s = .next (s.trap ⟨7, s.x a⟩))
          ∧ (∀ pa, s.amoTarget s.ctx (s.x a) n false = .ok pa → s.poisoned pa = true → exec i s = .next (s.trap ⟨33, s.x a⟩)))

/-- R299, R300, R296: an AMO whose access is aligned and performed at its home, on an unpoisoned location, completes: xd receives the old value (what
stood there immediately before it in coherence order: no write of another agent that has not appeared), the new value of the table is seen at once
by every agent but one whose own write there has not appeared, and is the latest write where no write of another agent waits to appear; a failing
AMOCAS writes nothing; no flag is raised, no other byte changes but by the hart's earlier writes, which appear before an AMO writes or releases. A
crew goes where the AMO sets the done bit of its completion word (R380), else none. -/
def Obligations.AtomicOperations : Prop :=
  ∀ (s : State) (dbl : Bool) (d a b : Reg) (sc : Scope) (ord : Ord) (pa : Nat),
    let n := if dbl then 8 else 4
    let g := if dbl then fmtF64 else fmtF32
    let me := AgentId.hart s.cur
    let old := leNat (s.amoBytesAt me pa n)
    let v := (s.x b).toNat % 256 ^ n
    let signed := fun (z : Nat) => (z : Int).bmod (256 ^ n)
    let acts := fun (i : Instr) (host : Bool) (new : Option Nat) (r : Word) =>
      s.amoTarget s.ctx (s.x a) n host = .ok pa → s.poisoned pa = false →
      ∃ t, exec i s = .next t ∧ t.hart = (s.setX d r).retire.hart
        ∧ { t with hart := s.hart, mem := s.mem, pend := s.pend, dies := s.dies, releases := s.releases, crews := s.crews, pieces := s.pieces } = s
        ∧ (∀ k, ∃ l, t.dieAt k = { s.dieAt k with lend := l })
        ∧ (∃ ended : List Nat, t.crews = s.crews.filter (fun c => !ended.contains c.number)
            ∧ t.pieces = s.pieces.filter (fun p => !ended.contains p.launch)
            ∧ ((∀ p x, new = some x → setsTop pa n x p = false) → ended = []))
        ∧ (∀ q, q < pa ∨ pa + n ≤ q ∨ new = none → t.latest q = (if new.isSome || ordRel ord then s.appear me else s).latest q)
        ∧ (∀ x, new = some x →
            (∀ ag sc' k, (∀ p ∈ s.pend, p.touches pa n = true → p.owner = ag → p.appeared = true ∨ ag = me) → k < n →
                t.view ag sc' (pa + k) = BitVec.ofNat 8 (x / 256 ^ k))
              ∧ ((∀ p ∈ s.pend, p.touches pa n = true → p.amoSees me = true) →
                ∀ k, k < n → t.latest (pa + k) = BitVec.ofNat 8 (x / 256 ^ k)))
    let sx : Word := BitVec.ofInt 64 (signed old)
    acts (.amoadd dbl d a b sc ord) true (some ((old + v) % 256 ^ n)) sx
      ∧ acts (.amoand dbl d a b sc ord) false (some (old &&& v)) sx
      ∧ acts (.amoor dbl d a b sc ord) false (some (old ||| v)) sx
      ∧ acts (.amoxor dbl d a b sc ord) false (some (old ^^^ v)) sx
      ∧ acts (.amomin dbl d a b sc ord) false (some (if signed v < signed old then v else old)) sx
      ∧ acts (.amomax dbl d a b sc ord) false (some (if signed old < signed v then v else old)) sx
      ∧ acts (.amominu dbl d a b sc ord) false (some (min old v)) sx
      ∧ acts (.amomaxu dbl d a b sc ord) false (some (max old v)) sx
      ∧ acts (.amoswap dbl d a b sc ord) true (some v) sx
      ∧ acts (.amocas dbl d a b sc ord) true (if old = (s.x d).toNat % 256 ^ n then some v else none) sx
      ∧ acts (.amofmax dbl d a b sc ord) false (some (g.minMax true old v).1) (BitVec.ofNat 64 old)
      ∧ acts (.amofmin dbl d a b sc ord) false (some (g.minMax false old v).1) (BitVec.ofNat 64 old)
      ∧ acts (.amofadd dbl d a b sc ord) false (some (g.round .rne (fAdd false (g.value old) (g.value v)).1).1) (BitVec.ofNat 64 old)

/-- R306, R309: FENCE completes in every state: with pw it releases at its scope, with pr or sr it acquires there, with i it orders the hart's fetches
after what it has performed and observed; it changes no byte of memory but that, with pw, the hart's writes appear. PREF and IPREF complete
without an effect. R310: a CFLUSH completes with the number of bytes it covers in xd where every page of them translates; m = 0 does nothing; it
changes no byte of memory but that the hart's writes appear. R311, R312: a TLBINV at S or M performs the hart's writes at its scope, records the
invalidation in every translation unit its scope names and waits; TLBINV_COMPLETE retires it once the writes made from those dies before the
invalidation have been performed. At U it raises code 2. That a CFLUSH of an address that does not respond does not trap is the reading of log
entry 18. -/
def Obligations.OrderingInstructions : Prop :=
  (∀ (s : State) (sc : Scope) (i pr pw sr sw : Bool) (a b : Reg),
      let ag := AgentId.hart s.cur
      let s1 := if pw then s.release ag sc else s
      let s2 := if pr || sr then s1.acquire ag sc else s1
      let s3 := if i then s2.orderFetch s.cur else s2
      exec (.fence sc i pr pw sr sw) s = .next s3.retire ∧ s3.mem = (if pw then s.appear ag else s).mem
        ∧ exec (.pref a b) s = .next s.retire ∧ exec (.ipref a b) s = .next s.retire)
    ∧ (∀ (s : State) (d a b : Reg) (sc : Scope),
        let m := min (s.x b).toNat (2 ^ 20)
        (m = 0 → exec (.cflush d a b sc) s = .next (s.setX d 0).retire)
          ∧ (∀ u, s.flushPages sc 257 (s.x a) m = (u, none) →
              exec (.cflush d a b sc) s = .next (u.setX d (BitVec.ofNat 64 m)).retire ∧ u.mem = (if m = 0 then s else s.appear (.hart s.cur)).mem ∧ u.hart = s.hart)
          ∧ (∀ t, 0 < m → s.translate s.ctx .load (s.x a) = .error t → exec (.cflush d a b sc) s = .next (s.trap t)))
    ∧ (∀ (s : State) (a b : Reg) (sc : Scope),
        (s.hart.level ≠ .u → ∃ t, exec (.tlbinv a b sc) s = .next t ∧ t.hart = { s.hart with run := .waiting (.tlbinv a b sc s.tick) }
            ∧ t.mem = (s.appear (.hart s.cur)).mem ∧ t.pend = (s.release (.hart s.cur) sc).pend
            ∧ (∀ d, (t.dieAt d).tlb =
                (if (scopeRank sc ≤ 4 ∧ d = dieOf s.cur) ∨ (scopeRank sc = 5 ∧ d / 2 = dieOf s.cur / 2) ∨ (6 ≤ scopeRank sc ∧ d < 8)
                 then tlbRecord (s.x a) (s.x b) s.tick :: (s.dieAt d).tlb else (s.dieAt d).tlb)))
          ∧ (s.hart.level = .u → ∃ w, encode (.tlbinv a b sc) = some w ∧ exec (.tlbinv a b sc) s = .next (s.trap ⟨2, w.setWidth 64⟩))
          ∧ (∀ a' b' sc' time, s.hart.run = .waiting (.tlbinv a' b' sc' time) →
              (s.performedFrom (tlbDies sc' (dieOf s.cur)) time = true →
                  exec .tlbinvComplete s = .next { s with hart := ({ s.hart with run := .running } : Hart).retireTo (s.hart.pc + 4) })
                ∧ (s.performedFrom (tlbDies sc' (dieOf s.cur)) time = false → exec .tlbinvComplete s = .next s)))

/-- R317, R320, R321: message passing. What agent `a` has written at some scope, nothing holding it back, once `a` has released at a scope, every
agent that reads through a point which that release reached reads at that scope, until a later write; and after an acquire at that scope it reads
it at its own point too, where no write of its own to the bytes waits to appear. (Memory of a host without multi-copy atomicity is read through
the points of the host agents, other memory through .system: R329.) R316, R317: an agent sees its own writes at once, at every scope, and nobody
sees a write that no point of theirs holds. Where no other write waits to appear, an agent's writes appear without a change of memory. R315, R316:
WRITE_MOVE completes in every state. Where the write it names may move to the point it names, it gains exactly that point when it has appeared,
every other write and memory staying; when it has not, it appears: it gains its first points, and memory follows where it takes its place in the
coherence order below another's that has not. Where it may not move, nothing changes; every hart stays. A write may appear only at its first
point, after every earlier write of its agent, and then goes to a parent or child of a point that holds it; an AMO's moves no more. That a write
takes its place in the coherence order when it appears, after all that have appeared, is the model's choice (log entry 10). -/
def Obligations.MemoryOrder : Prop :=
  (∀ (s : State) (a b : AgentId) (at_ sc : Scope) (w pa k : Nat) (bs : List Byte) (r : Point),
      (∀ h, a = .hart h → (s.hartAt h).ahead = none) → r ∈ s.upTo a sc → r ∈ s.upTo b sc →
      (r = .system ∨ r = .durable → s.splitAt pa = false) → (∀ p, r = .hostPt p → s.splitAt pa = true) → k < bs.length →
      (b ≠ a → ∀ p ∈ s.pend, p.touches pa bs.length = true → p.owner = b → p.appeared = true) →
      let t := (s.write a (pointAt a (s.scoped at_)) false w pa bs).release a sc
      t.view b sc (pa + k) = bs.getD k 0 ∧ (t.acquire b sc).view b .hart (pa + k) = bs.getD k 0)
    ∧ (∀ (s : State) (a b : AgentId) (first : Point) (sc : Scope) (w pa k : Nat) (bs : List Byte), k < bs.length →
        let t := s.write a first false w pa bs
        t.view a sc (pa + k) = bs.getD k 0 ∧ (b ≠ a → t.view b sc (pa + k) = s.view b sc (pa + k))
          ∧ (∀ q, q < pa ∨ pa + bs.length ≤ q → t.view b sc q = s.view b sc q)
          ∧ (s.othersAppeared a → (s.appear a).mem = s.mem))
    ∧ (∀ (s : State) (n : Nat) (q : Point),
        ∃ t, exec (.writeMove n q) s = .next t ∧ { t with mem := s.mem, pend := s.pend } = s ∧ t.pend.length = s.pend.length ∧ (s.pend[n]? = none → t = s)
          ∧ ∀ p, s.pend[n]? = some p →
              let may := s.mayMove (s.pend.take n) p (s.pend.drop (n + 1)) q
              (may = true → p.everywhere = false
                  ∧ (p.appeared = true → t.mem = s.mem ∧ (∀ k, k ≠ n → t.pend[k]? = s.pend[k]?)
                      ∧ t.pend[n]? = some { p with reached := if p.reached.contains q then p.reached else q :: p.reached }
                      ∧ p.fits q = true ∧ ∃ r ∈ p.reached, adjacent r q = true)
                  ∧ (p.appeared = false → q = p.first ∧ (∀ o ∈ s.pend.drop (n + 1), o.owner = p.owner → o.appeared = true)
                      ∧ (∃ o ∈ t.pend, o.appeared = true ∧ o.owner = p.owner ∧ o.pa = p.pa ∧ o.time = p.time
                          ∧ ∀ r, r ∈ o.reached ↔ r ∈ p.reached ∨ (r ∈ p.firstPoints ∧ p.fits r = true))
                      ∧ (∀ a, p.covers a = false → t.latest a = s.latest a)
                      ∧ ((∀ k o, k ≠ n → s.pend[k]? = some o → o.appeared = false → o.touches p.pa p.new.length = false) →
                          t.mem = s.mem ∧ ∀ k, k ≠ n → t.pend[k]? = s.pend[k]?)))
                ∧ (may = false → t = s))

/-! ### Vector configuration and blocks -/

/-- R108: VCONFIG completes in every state: the register file and masks are cleared, vl 0, rows 1, vstart 0; where the configuration can be met,
count, width and MAXVL follow from the request and the granted lanes; else ill is set and xd receives 0. -/
def Obligations.VectorConfiguration : Prop :=
  ∀ (s : State) (d a b : Reg),
    let l := laneCount (s.lanesFor s.cur)
    let p := s.laneLimit
    let g := min l p
    let ok := fun (n : Nat) => n = 8 ∨ n = 16 ∨ n = 32 ∨ n = 64
    let mv := g * 65536 / ((s.x a).toNat * (s.x b).toNat)
    ∃ t, exec (.vconfig d a b) s = .next t ∧ t.hart.v = [] ∧ t.hart.vtag = [] ∧ t.hart.vpois = [] ∧ t.hart.m = []
      ∧ t.hart.ncols = 0 ∧ t.hart.nrows = 1 ∧ t.hart.start = 0 ∧ t.hart.rep = 0 ∧ t.hart.wofs = 0
      ∧ bits t.hart.vgrant 0 4 = g ∧ bits t.hart.vgrant 4 4 = l % 16 ∧ bits t.hart.vgrant 8 4 = p % 16
      ∧ (ok (s.x a).toNat ∧ ok (s.x b).toNat ∧ 16 ≤ mv →
          t.hart.ill = false ∧ t.hart.vcount = (s.x a).toNat ∧ t.hart.vwidth = (s.x b).toNat ∧ t.hart.maxvl = mv
            ∧ bits t.hart.vgrant 32 14 = mv ∧ t.hart.x = (s.setX d (BitVec.ofNat 64 mv)).hart.x)
      ∧ (¬(ok (s.x a).toNat ∧ ok (s.x b).toNat ∧ 16 ≤ mv) →
          t.hart.ill = true ∧ t.hart.maxvl = 0 ∧ bits t.hart.vgrant 32 14 = 0 ∧ t.hart.x = (s.setX d 0).hart.x)

/-- R110: VSETROWS. With ill set it raises code 16. A refused request sets ill and writes 0; else rows, vl and gmax follow, xd receives the rows. It
evaluates no grant: vgrant's g, l and p and the lanes held stay, and so do the register contents. R109: VSETVL. With ill set it raises code 16.
Where the granted lanes are those of the last grant point, lc and trim are cleared, vl is the request up to gmax = floor(MAXVL / rows), and the
register contents stay. Where they changed, the register file is cleared, lc set and MAXVL follows the grant; where it falls below 16, ill is set
and xd receives 0. The lane limit is the one VSETVL sees (R439, A1-E03). That VSETROWS, which evaluates no grant, leaves the lanes the hart holds
as they are is the model's reading (log entry 42; R111 and R246 bear on it). Which earlier limit a grant sees after two writes of pwrcap is the
choice of log entry 78. -/
def Obligations.VectorRowsAndLength : Prop :=
  (∀ (s : State) (d a : Reg),
      let q := (s.x a).toNat
      let refused := q = 0 ∨ 64 < q ∨ s.hart.maxvl < q
      (s.hart.ill = true → exec (.vsetrows d a) s = .next (s.trap ⟨16, 0⟩))
        ∧ (s.hart.ill = false → ∃ t, exec (.vsetrows d a) s = .next t ∧ t.hart.v = s.hart.v ∧ t.hart.vtag = s.hart.vtag ∧ t.hart.m = s.hart.m
            ∧ t.hart.vpois = s.hart.vpois ∧ t.hart.held = s.hart.held ∧ bits t.hart.vgrant 0 4 = bits s.hart.vgrant 0 4
            ∧ bits t.hart.vgrant 4 4 = bits s.hart.vgrant 4 4 ∧ bits t.hart.vgrant 8 4 = bits s.hart.vgrant 8 4
            ∧ (refused → t.hart.ill = true ∧ t.hart.maxvl = 0 ∧ bits t.hart.vgrant 32 14 = 0 ∧ t.hart.ncols = 0 ∧ t.hart.rows = s.hart.rows
                ∧ t.hart.x = (s.setX d 0).hart.x)
            ∧ (¬refused → t.hart.vtype = s.hart.vtype ∧ t.hart.nrows = q ∧ t.hart.ncols = min s.hart.ncols (s.hart.maxvl / q)
                ∧ bits t.hart.vgrant 32 14 = s.hart.maxvl / q ∧ t.hart.maxvl = s.hart.maxvl ∧ t.hart.x = (s.setX d (s.x a)).hart.x)))
    ∧ (∀ (s : State) (d a : Reg),
        let l := laneCount (s.lanesFor s.cur)
        let g := min l s.laneLimitSeen
        let mv := g * 65536 / (s.hart.vcount * s.hart.vwidth)
        let n := fun (maxvl rows : Nat) => min (s.x a).toNat (maxvl / rows)
        (s.hart.ill = true → exec (.vsetvl d a) s = .next (s.trap ⟨16, 0⟩))
          ∧ (s.hart.ill = false → ∃ t, exec (.vsetvl d a) s = .next t ∧ bits t.hart.vgrant 0 4 = g ∧ bits t.hart.vgrant 4 4 = l % 16
              ∧ bits t.hart.vgrant 8 4 = s.laneLimitSeen % 16 ∧ t.hart.start = 0 ∧ bitSet t.hart.vtype 16 = false
              ∧ bits t.hart.vgrant 32 14 = (if t.hart.ill then 0 else t.hart.maxvl / t.hart.nrows)
              ∧ (g = s.hart.g → bitSet t.hart.vtype 17 = false ∧ t.hart.v = s.hart.v ∧ t.hart.vtag = s.hart.vtag ∧ t.hart.m = s.hart.m
                  ∧ t.hart.maxvl = s.hart.maxvl ∧ t.hart.rows = s.hart.rows ∧ t.hart.ncols = n s.hart.maxvl s.hart.nrows
                  ∧ t.hart.x = (s.setX d (BitVec.ofNat 64 (n s.hart.maxvl s.hart.nrows))).hart.x)
              ∧ (g ≠ s.hart.g → bitSet t.hart.vtype 17 = true ∧ t.hart.v = [] ∧ t.hart.vtag = [] ∧ t.hart.m = [] ∧ t.hart.vpois = []
                  ∧ (16 ≤ mv → t.hart.ill = false ∧ t.hart.maxvl = mv ∧ t.hart.nrows = min s.hart.nrows mv
                      ∧ t.hart.ncols = n mv (min s.hart.nrows mv)
                      ∧ t.hart.x = (s.setX d (BitVec.ofNat 64 (n mv (min s.hart.nrows mv)))).hart.x)
                  ∧ (mv < 16 → t.hart.ill = true ∧ t.hart.maxvl = 0 ∧ t.hart.ncols = 0 ∧ t.hart.x = (s.setX d 0).hart.x))))

/-- R119, R118, R155: VFETCH raises code 2 above 4,096 repetitions and code 16 with ill set; with no repetitions it retires; over a block of STOP
alone it performs nothing and is then pending behind pc + 4; VFETCH x0 of one word and STOP does what the word does by itself. The fetch of the
block makes requests of the HBM channels, which may move lending pairs and nothing else (R281). R122, R155: VFETCH_RETIRE counts the VFETCH and
the instructions that ran ahead of its retirement; STOP by itself performs nothing. Where the block of a word by itself lies is the model's choice
(log entry 17). -/
def Obligations.VectorFetch : Prop :=
  (∀ (s : State) (xc : Reg) (stg : BitVec 3) (off : BitVec 17), s.hart.ahead = none → s.hart.run = .running →
      let n := if xc = 0 then 1 else (s.x xc).toNat
      let b := (s.hart.pc &&& 0xFFFFFFFFFFFFFFF8) + 8 * off.signExtend 64
      let u := s.blockRequests b
      ({ u with dies := s.dies } = s ∧ ∀ k, ∃ l, u.dieAt k = { s.dieAt k with lend := l })
        ∧ (4096 < n → ∃ w, encode (.vfetch xc stg off) = some w ∧ exec (.vfetch xc stg off) s = .next (s.trap ⟨2, w.setWidth 64⟩))
        ∧ (n ≤ 4096 → s.hart.ill = true → exec (.vfetch xc stg off) s = .next (s.trap ⟨16, 0⟩))
        ∧ (n = 0 → s.hart.ill = false → exec (.vfetch xc stg off) s = .next s.retire)
        ∧ (0 < n → n ≤ 4096 → s.hart.ill = false → s.fetchBlock 64 b = .ok [stopWord] →
            ∃ t, exec (.vfetch xc stg off) s = .next t ∧ t.hart.pc = s.hart.pc + 4 ∧ t.hart.ahead = some 0 ∧ t.hart.rep = 0 ∧ t.hart.wofs = 0
              ∧ t.hart.block = none ∧ t.hart.aheadAt = s.tick
              ∧ { t with hart := { t.hart with pc := s.hart.pc, ahead := s.hart.ahead, vtype := s.hart.vtype, aheadAt := s.hart.aheadAt, block := s.hart.block } } = u)
        ∧ (∀ i w, xc = 0 → s.hart.ill = false → b = s.loneBlock → i ≠ .stop → encodeBlock i = some w → s.fetchBlock 64 b = .ok [w, stopWord] →
            exec (.vfetch xc 0 off) s = exec i u)
        ∧ (∀ t, 0 < n → n ≤ 4096 → s.hart.ill = false → s.fetchBlock 64 b = .error t → exec (.vfetch xc stg off) s = .next (u.trap t)))
    ∧ (∀ s : State,
        (∀ k, s.hart.ahead = some k →
            exec .vfetchRetire s = .next { s with hart := { s.hart with retired := s.hart.retired + 1 + BitVec.ofNat 64 k, ahead := none } })
          ∧ (s.hart.ahead = none → s.hart.ill = false → ∃ t, exec .stop s = .next t ∧ t.hart.pc = s.hart.pc + 4 ∧ t.hart.ahead = some 0
              ∧ { t with hart := { t.hart with
                    pc := s.hart.pc, ahead := none, vtype := s.hart.vtype, run := s.hart.run, aheadAt := s.hart.aheadAt, block := s.hart.block } } = s))

/-! ### Block words -/

/-- R106, R118, R161, R166: a word that writes elements of vd completes by itself where no element stops it: each active serial has its element under
the result tag, with its poison; every other element, register, mask and byte of memory stays; vd takes the result tag; the flags of the
unpoisoned elements are raised. R163: a word that writes a vector register or a mask and, where no element stops it, poisons at least one element
leaves vpoison with `any` set, the number of its destination (64 on for a mask), the lowest serial it poisoned and how many it poisoned; one that
poisons none leaves vpoison as it was. -/
def Obligations.VectorElements : Prop :=
  (∀ (s : State) (i : Instr) (f : Fields) (p : Prep), elementWord i f → s.ready i p → (∀ e tr, p.active s e → elementOf p s e ≠ .stop tr) →
      let v := p.f.vd.toNat
      let lands := fun (e : Nat) => (elementOf p s e).lands e
      ∃ t, exec i s = .next t ∧ passedBlock s t ∧ keepsBut v s t ∧ t.mem = s.mem ∧ t.pend = s.pend
        ∧ (∀ e k b pz, p.active s e → lands e = some (k, b, pz) →
            t.hart.elem v p.rt k = b % 2 ^ usedBits p.rt ∧ t.hart.poisonBit v k = pz)
        ∧ (∀ k, (∀ e b pz, p.active s e → lands e ≠ some (k, b, pz)) →
            t.hart.elem v p.rt k = s.hart.elem v p.rt k ∧ t.hart.poisonBit v k = s.hart.poisonBit v k)
        ∧ t.hart.tagOf v = (if (p.actives s).any (fun e => (lands e).isSome) then p.rt else s.hart.tagOf v)
        ∧ t.hart.fflags = (p.actives s).foldl (fun w e => orWord w (elementOf p s e).flags) s.hart.fflags
        ∧ t.hart.vxflags = (p.actives s).foldl (fun w e => orWord w (elementOf p s e).vxflags) s.hart.vxflags)
    ∧ (∀ (s : State) (i : Instr) (f : Fields) (p : Prep), elementWord i f ∨ i = .vcmp f → s.ready i p →
        (∀ e tr, p.active s e → elementOf p s e ≠ .stop tr) →
        let poisons := fun (e : Nat) =>
          match elementOf p s e with
          | .write _ true _ _ => some e
          | .writeAt k _ true _ => some k
          | .mask _ true _ => some e
          | _ => none
        let ks := (p.actives s).filterMap poisons
        let dst := if i = .vcmp f then 64 + p.f.vd.toNat % 8 else p.f.vd.toNat
        ∃ t, exec i s = .next t ∧ passedBlock s t ∧ (ks = [] → t.hart.vpoison = s.hart.vpoison)
          ∧ ∀ first ∈ ks, (∀ k ∈ ks, first ≤ k) →
              t.hart.vpoison = BitVec.ofNat 64 (2 ^ 63 + dst * 2 ^ 48 + first % 2 ^ 14 * 2 ^ 32 + ks.length % 2 ^ 14))

/-- R167, R174, R175: over unpoisoned integer operands x, y and an integer result tag, the value of the table modulo 2^n; and what the words that move
bits make. R126 to R131, R159: the operands of element e, and what its bits stand for under a tag: an integer, an e8m0 scale, a float. R160, R133
to R136, R46: what a value is delivered as under a result tag, and the flags: an integer modulo 2^n, a float as an integer as R46 says, as an e8m0
scale as R135 says, as an f16, bf16, f32 or f64 rounded under the mode, as a narrow float to nearest even and saturated unless ovf is set. R167,
R168, R172: the words that take integers. VMULH and VREM form their value at the width of the result tag, or of R113's where that one is floating
(its signedness too: log entry 68). A division by zero, and the most negative number by −1, stop the word where vxtrap enables it, else they give
R36's result and vxflags.dz or ov. R167, R43 to R45: the arithmetic words where an operand or the result tag is floating: the exact value, an
integer counting as the float equal to it, delivered; minimum and maximum ignore a NaN and order −0 below +0. R167: the special functions: a NaN,
NV where it signals; the table's operands; a reciprocal is 1 / a; a reciprocal root is the exact one cut some 240 places on, its last place odd
where something was cut off; 2 to an integer and log2 of a power of two are exact (other values of VEXP2 and VLOG2: fExp2, fLog2, log entry 12).
R167, R170, R171, R173 to R176, R180: the words that copy, choose, convert or gather. VABS and VNEG change a float's sign bit, and under an
override deliver the value so changed; VCVT delivers its value, with mx times or over its block's scale, a scale of 255 giving the tag's NaN, or
its largest value with NV where it has none; VREDTSUM is the root of its row's tree. What VABS and VNEG make of a NaN under an override, which no
clause states, is log entry 50; where a NaN meets a scale of 255, log entry 67. -/
def Obligations.VectorElementValues : Prop :=
  (∀ (s : State) (p : Prep) (f : Fields) (e : Nat) (x y : Int),
      let n := tagBits p.rt
      let gives := fun (i : Instr) (v : Int) => p.i = i → elementOf p s e = .write (v % 2 ^ n).toNat false 0 0
      let u := fun (z : Int) => (z % 2 ^ n).toNat
      let moves := fun (i : Instr) (k : Nat) =>
        p.i = i → elementOf p s e = .write (s.hart.elem p.f.vs1.toNat p.t1 k) (s.hart.poisonBit p.f.vs1.toNat k) 0 0
      (isIntTag p.rt → p.a s.hart s.hart e = (.int x, false) → p.b s.hart s.hart e = (.int y, false) →
          gives (.vadd f) (x + y) ∧ gives (.vsub f) (x - y) ∧ gives (.vmul f) (x * y) ∧ gives (.vmin f) (min x y) ∧ gives (.vmax f) (max x y)
            ∧ gives (.vand f) (u x &&& u y : Nat) ∧ gives (.vor f) (u x ||| u y : Nat) ∧ gives (.vxor f) (u x ^^^ u y : Nat)
            ∧ gives (.vsll f) (x * 2 ^ (y % n).toNat) ∧ gives (.vsrl f) (u x / 2 ^ (y % n).toNat : Nat)
            ∧ gives (.vsra f) ((x.bmod (2 ^ n)).fdiv (2 ^ (y % n).toNat)))
        ∧ (p.i = .vid f → isIntTag p.rt → f = p.f → f.fn % 4 = 0 → elementOf p s e = .write (e % 2 ^ n) false 0 0)
        ∧ (p.f.to = false → moves (.vmv f) e)
        ∧ (p.slideBy ≤ p.col e → moves (.vslideup f) (e - p.slideBy))
        ∧ (p.slideBy > p.col e → p.i = .vslideup f → elementOf p s e = .none)
        ∧ (p.col e + p.slideBy < p.cols → moves (.vslidedn f) (e + p.slideBy))
        ∧ (p.cols ≤ p.col e + p.slideBy → p.i = .vslidedn f → elementOf p s e = .write 0 false 0 0)
        ∧ (p.i = .vbcast f → elementOf p s e = .write p.x.toNat false 0 0)
        ∧ (p.i = .vins f → elementOf p s e = if e = p.f.fn then .write p.x.toNat false 0 0 else .none))
    ∧ ((∀ (s : State) (p : Prep) (e : Nat),
          let at_ := fun (r : BitVec 6) (t : Nat) => (valueOf t (s.hart.elem r.toNat t e), s.hart.poisonBit r.toNat e)
          p.a s.hart s.hart e = at_ p.f.vs1 p.t1 ∧ p.c s.hart s.hart e = at_ p.f.vs3 p.t3
            ∧ p.b s.hart s.hart e = if p.f.sx then (valueOf p.t1 (p.x.toNat % 2 ^ tagBits p.t1), false) else at_ p.f.vs2 p.t2)
        ∧ (∀ (t n b : Nat), b < 2 ^ n →
            ((t, n) ∈ [(0, 8), (2, 16), (4, 32), (6, 64), (17, 4)] → valueOf t b = .int (if 2 * b < 2 ^ n then b else (b : Int) - 2 ^ n))
              ∧ ((t, n) ∈ [(1, 8), (3, 16), (5, 32), (7, 64)] → valueOf t b = .int b))
        ∧ (∀ b, b < 256 → valueOf 18 b = .flt (if b = 255 then .nan false else .fin false 1 ((b : Int) - 127)))
        ∧ ∀ (t eb fb bias b : Nat), b < 2 ^ (1 + eb + fb) →
            (t, eb, fb, bias) ∈ [(8, 5, 10, 15), (9, 8, 7, 127), (10, 8, 23, 127), (11, 11, 52, 1023), (12, 4, 3, 7), (13, 5, 2, 15), (14, 2, 1, 1),
              (15, 2, 3, 1), (16, 3, 2, 3)] →
            let neg := b.testBit (eb + fb)
            let exponent := b / 2 ^ fb % 2 ^ eb
            let fraction := b % 2 ^ fb
            valueOf t b = .flt
              (if exponent = 2 ^ eb - 1 ∧ t ∈ [8, 9, 10, 11, 13] then (if fraction = 0 then .inf neg else .nan !fraction.testBit (fb - 1))
               else if exponent = 15 ∧ fraction = 7 ∧ t = 12 then .nan false
               else if exponent = 0 then .fin neg fraction (1 - bias - fb)
               else .fin neg (2 ^ fb + fraction) ((exponent : Int) - bias - fb)))
    ∧ (∀ (t : Nat) (m : RMode) (ovf : Bool) (v : FVal) (x : Int),
        let n := tagBits t
        let got := deliver t m ovf (.flt v)
        let lo : Int := if isSignedTag t then -2 ^ (n - 1) else 0
        let hi : Int := if isSignedTag t then 2 ^ (n - 1) - 1 else 2 ^ n - 1
        (isIntTag t → deliver t m ovf (.int x) = ((x % 2 ^ n).toNat, 0) ∧ (v.isNan ∨ v = .inf false → got = (hi.toNat, 16))
            ∧ (v = .inf true → got = ((lo % 2 ^ n).toNat, 16))
            ∧ ∀ neg k e, v = .fin neg k e →
                let r := roundAt m neg k e 0
                let z : Int := if neg then -(r.1 : Int) else r.1
                (hi < z → got = (hi.toNat, 16)) ∧ (z < lo → got = ((lo % 2 ^ n).toNat, 16))
                  ∧ (lo ≤ z → z ≤ hi → got = ((z % 2 ^ n).toNat, if r.2 then 1 else 0)))
          ∧ (isIntTag t = false → deliver t m ovf (.int x) = deliver t m ovf (.flt (.fin (decide (x < 0)) x.natAbs 0)))
          ∧ (∀ g, (t, g) ∈ [(8, fmtF16), (9, fmtBf16), (10, fmtF32), (11, fmtF64)] → got = g.round m v)
          ∧ (t = 18 →
              ((∀ k e, v = .fin false k e → k = 0) → got = (255, 16))
                ∧ ∀ k e, v = .fin false k e → k ≠ 0 →
                    let z : Int := (k.log2 : Int) + e + 127
                    got = if z < 0 then (0, 3) else if 254 < z then (254, 5) else (z.toNat, if k = 2 ^ k.log2 then 0 else 1))
          ∧ ∀ (eb fb bias top big : Nat) (last : Int),
              (t, eb, fb, bias, top, big, last) ∈ [(12, 4, 3, 7, 0x7E, 14, 5), (13, 5, 2, 15, 0x7B, 7, 13), (14, 2, 1, 1, 7, 3, 1),
                (15, 2, 3, 1, 0x1F, 15, -1), (16, 3, 2, 3, 0x1F, 7, 2)] →
              let signed := fun (neg : Bool) (b : Nat) => (if neg then 2 ^ (eb + fb) else 0) + b
              let overflow := fun (neg : Bool) => (if ovf ∧ t = 13 then signed neg 0x7C else if ovf ∧ t = 12 then 0x7F else signed neg top, 5)
              (∀ sig, v = .nan sig → got = if 14 ≤ t then (top, 16) else (if t = 12 then 0x7F else 0x7E, if sig then 16 else 0))
                ∧ (∀ neg, v = .inf neg → got = if ovf ∧ t = 13 then (signed neg 0x7C, 0) else overflow neg)
                ∧ (∀ neg e, v = .fin neg 0 e → got = (signed neg 0, 0))
                ∧ ∀ neg k e, v = .fin neg k e → k ≠ 0 →
                    let place : Int := (k.log2 : Int) + e - fb
                    let q := max place (1 - (bias : Int) - fb)
                    let r := roundAt .rne neg k e q
                    let tiny := ((roundAt .rne neg k e place).1.log2 : Int) + place < 1 - (bias : Int)
                    let beyond := last < q ∨ (q = last ∧ big < r.1)
                    (beyond → got = overflow neg)
                      ∧ (¬beyond → valueOf t got.1 = .flt (if r.1 = 2 ^ (fb + 1) then .fin neg (2 ^ fb) (q + 1) else .fin neg r.1 q)
                          ∧ got.1 < 2 ^ (1 + eb + fb) ∧ got.2 = if r.2 then (if tiny then 3 else 1) else 0))
    ∧ (∀ (s : State) (p : Prep) (f : Fields) (e : Nat) (x y z : Int), p.a s.hart s.hart e = (.int x, false) →
        let n := tagBits p.rt
        let t := if isIntTag p.rt then p.rt else (joinTags p.t1 (if p.f.sx then p.t1 else p.t2)).getD 0
        let w := tagBits t
        let sg := isSignedTag t
        let asT := fun (v : Int) => if sg then v.bmod (2 ^ w) else v % 2 ^ w
        let give := fun (v : Int) (vx : Nat) => Eff.write (deliver p.rt p.mode p.f.ovf (.int v)).1 false (deliver p.rt p.mode p.f.ovf (.int v)).2 vx
        let makes := fun (i : Instr) (r : Eff) => p.i = i → elementOf p s e = r
        let lo : Int := if isSignedTag p.rt then -2 ^ (n - 1) else 0
        let hi : Int := if isSignedTag p.rt then 2 ^ (n - 1) - 1 else 2 ^ n - 1
        let clamped := fun (v : Int) => Eff.write (max lo (min hi v) % 2 ^ n).toNat false 0 (if v < lo ∨ hi < v then 4 else 0)
        let a := asT x
        let b := asT y
        let divides := fun (quot : Bool) (i : Instr) => p.i = i →
          (b = 0 → elementOf p s e =
              if bitSet s.hart.vxtrap 1 then .stop ⟨12, 1⟩ else give (if quot then (if sg then -1 else 2 ^ w - 1) else a) 2)
            ∧ (sg → a = -2 ^ (w - 1) → b = -1 → elementOf p s e = if bitSet s.hart.vxtrap 0 then .stop ⟨12, 2⟩ else give (if quot then a else 0) 1)
            ∧ (b ≠ 0 → ¬(sg = true ∧ a = -2 ^ (w - 1) ∧ b = -1) → elementOf p s e = give (if quot then a.tdiv b else a.tmod b) 0)
        (p.b s.hart s.hart e = (.int y, false) →
            makes (.vmulh f) (give (asT ((x * y).fdiv (2 ^ w))) 0) ∧ divides false (.vrem f) ∧ (isIntTag p.rt → divides true (.vdiv f))
              ∧ makes (.vmin f) (give (min x y) 0) ∧ makes (.vmax f) (give (max x y) 0)
              ∧ (isIntTag p.rt → makes (.vsadd f) (clamped (x + y)) ∧ makes (.vssub f) (clamped (x - y)))
              ∧ (isIntTag p.rt → p.c s.hart s.hart e = (.int z, false) →
                  makes (.vfma f) (give ((if p.f.fn.testBit 1 then -1 else 1) * x * y + (if p.f.fn.testBit 0 then -1 else 1) * z) 0)))
          ∧ makes (.vabs f) (give x.natAbs 0) ∧ makes (.vneg f) (give (-x) 0)
          ∧ (isIntTag p.rt → makes (.vsat f) (clamped x)
              ∧ makes (.vclz f) (give (if (x % 2 ^ n).toNat = 0 then n else (n - 1 - (x % 2 ^ n).toNat.log2 : Nat)) 0)
              ∧ makes (.vpopc f) (give ((List.range n).countP (fun k => (x % 2 ^ n).toNat.testBit k)) 0)))
    ∧ (∀ (s : State) (p : Prep) (f : Fields) (e : Nat) (a b c : Val), p.a s.hart s.hart e = (a, false) →
        let makes := fun (i : Instr) (r : FVal × Nat) =>
          let d := deliver p.rt p.mode p.f.ovf (.flt r.1)
          p.i = i → elementOf p s e = .write d.1 false (r.2 ||| d.2) 0
        let whole := fun (l : List Val) => ∀ v ∈ l, ∃ x, v = .int x
        let rdn := decide (p.mode = .rdn)
        let neg := fun (n : Bool) (v : FVal) => if n then v.negate else v
        let sig := if a.f.isSig || b.f.isSig then 16 else 0
        let below := fun (x y : FVal) => fLess x y || (fEqual x y && x.neg && !y.neg)
        let picked := fun (x : Bool) =>
          (if a.f.isNan && b.f.isNan then FVal.nan false else if a.f.isNan then b.f else if b.f.isNan then a.f else if x then b.f else a.f, sig)
        (p.b s.hart s.hart e = (b, false) →
            (¬(isIntTag p.rt = true ∧ whole [a, b]) →
                makes (.vadd f) (fAdd rdn a.f b.f) ∧ makes (.vsub f) (fAdd rdn a.f b.f.negate) ∧ makes (.vmul f) (fMul a.f b.f))
              ∧ (isIntTag p.rt = false → makes (.vdiv f) (fDiv a.f b.f))
              ∧ (¬whole [a, b] → makes (.vmin f) (picked (below b.f a.f)) ∧ makes (.vmax f) (picked (below a.f b.f)))
              ∧ (p.c s.hart s.hart e = (c, false) → ¬(isIntTag p.rt = true ∧ whole [a, b, c]) →
                  makes (.vfma f) (fFma rdn (neg (p.f.fn.testBit 1) a.f) b.f (neg (p.f.fn.testBit 0) c.f))))
          ∧ makes (.vsqrt f) (fSqrt a.f) ∧ makes (.vrcp f) (fRcp a.f) ∧ makes (.vrsq f) (fRsq a.f) ∧ makes (.vexp2 f) (fExp2 a.f)
          ∧ makes (.vlog2 f) (fLog2 a.f))
    ∧ (∀ (n sig : Bool) (m k j : Nat) (e : Int),
        let invalid := (FVal.nan false, 16)
        (∀ g ∈ [fRcp, fRsq, fExp2, fLog2], g (.nan sig) = (.nan false, if sig then 16 else 0))
          ∧ fRcp (.fin n 0 e) = (.inf n, 8) ∧ fRsq (.fin n 0 e) = (.inf n, 8) ∧ fExp2 (.fin n 0 e) = (.fin false 1 0, 0) ∧ fLog2 (.fin n 0 e) = (.inf true, 8)
          ∧ fRcp (.inf n) = (.fin n 0 0, 0) ∧ fRsq (.inf false) = (.fin false 0 0, 0) ∧ fExp2 (.inf false) = (.inf false, 0)
          ∧ fLog2 (.inf false) = (.inf false, 0) ∧ fExp2 (.inf true) = (.fin false 0 0, 0)
          ∧ (∀ g ∈ [fRsq, fLog2], g (.inf true) = invalid ∧ (m ≠ 0 → g (.fin true m e) = invalid))
          ∧ (m ≠ 0 → fRcp (.fin n m e) = fDiv (.fin false 1 0) (.fin n m e))
          ∧ (m ≠ 0 → ∃ r i, fRsq (.fin false m e) = (.fin false r i, 0) ∧ e + 2 * i + 2 ≤ -479 ∧
              let v := 2 ^ (-(e + 2 * i + 2)).toNat
              r / 2 * (r / 2) * m ≤ v ∧ v < (r / 2 + 1) * (r / 2 + 1) * m ∧ (r % 2 = 0 ↔ r / 2 * (r / 2) * m = v))
          ∧ (0 < k → k < 2 ^ 24 → fExp2 (.fin n (k * 2 ^ j) (-(j : Int))) = (.fin false 1 (if n then -(k : Int) else k), 0))
          ∧ fLog2 (.fin false (2 ^ k) e) = (.fin (decide ((k : Int) + e < 0)) ((k : Int) + e).natAbs 0, 0))
    ∧ (∀ (s : State) (p : Prep) (f : Fields) (e : Nat) (a : Val) (j : Int) (pj : Bool),
        let makes := fun (i : Instr) (r : Eff) => p.i = i → elementOf p s e = r
        let give := fun (v : Val) => Eff.write (deliver p.rt p.mode p.f.ovf v).1 false (deliver p.rt p.mode p.f.ovf v).2 0
        let bits := fun (k : Nat) => s.hart.elem p.f.vs1.toNat p.t1 k
        let poison := fun (k : Nat) => s.hart.poisonBit p.f.vs1.toNat k
        let copy := fun (k : Nat) (q : Bool) => Eff.write (bits k) (poison k || q) 0 0
        let isA := p.a s.hart s.hart e = (a, false)
        let top := (tagFmt p.t1).width - 1
        let base := if p.f.fn % 2 = 1 then p.row e * p.cols else 0
        let size := if p.f.fn % 2 = 1 then p.cols else p.maxvl
        let below := (List.range e).countP (fun k => s.hart.selects p.f k)
        let scale := p.row e * ((p.cols + 31) / 32) + p.col e / 32
        let sc := s.hart.elem p.f.vs2.toNat 18 scale
        let by_ := fun (k : Int) => Val.flt (match a.f with | .fin n m x => .fin n m (x + k) | v => v)
        let at_ := fun (c : Nat) => e / p.cols * p.cols + c
        let leaf := fun (c : Nat) => if c < p.cols ∧ s.hart.selects p.f (at_ c) then some (deliver p.rt p.mode false (p.a s.hart s.hart (at_ c)).1) else none
        (p.b s.hart s.hart e = (.int j, pj) →
            makes (.vgatherr f) (if 0 ≤ j ∧ j < size then copy (base + j.toNat) pj else .write 0 pj 0 0))
          ∧ makes (.vrowb f) (if p.f.fn % 64 < p.rowsN then copy (p.f.fn % 64 * p.cols + p.col e) false else .write 0 false 0 0)
          ∧ makes (.vcompress f) (.writeAt below (bits e) (poison e) 0) ∧ makes (.vexpand f) (copy below false)
          ∧ (isFloatTag p.t1 → p.f.to = false →
              makes (.vabs f) (.write (bits e % 2 ^ top) (poison e) 0 0)
                ∧ makes (.vneg f) (.write (bits e % 2 ^ top + if (bits e).testBit top then 0 else 2 ^ top) (poison e) 0 0))
          ∧ (isA → p.f.to → ∀ v, a = .flt v → v.isNan = false → makes (.vabs f) (give (.flt v.abs)) ∧ makes (.vneg f) (give (.flt v.negate)))
          ∧ (isA → p.f.to → makes (.vmv f) (give a))
          ∧ (isA → s.hart.maskBit (p.f.fn % 8) e → makes (.vsel f) (give a))
          ∧ (p.b s.hart s.hart e = (a, false) → s.hart.maskBit (p.f.fn % 8) e = false → makes (.vsel f) (give a))
          ∧ makes (.vid f) (give (.int (if p.f.fn % 4 = 0 then e else if p.f.fn % 4 = 1 then p.row e else p.col e : Nat)))
          ∧ makes (.vrng f) (.write (rngLoop 10 (p.x + word e) (((BitVec.ofNat 10 p.f.fn).setWidth 64 <<< 54) ^^^ 0x5E0BA7C419D38F61) (word (bits e))).toNat
              (poison e) 0 0)
          ∧ (isA → p.f.fn % 4 = 0 → makes (.vcvt f) (give a))
          ∧ (isA → s.hart.poisonBit p.f.vs2.toNat scale = false → sc ≠ 255 →
              (p.f.fn % 4 = 1 → makes (.vcvt f) (give (by_ ((sc : Int) - 127)))) ∧ (p.f.fn % 4 = 2 → makes (.vcvt f) (give (by_ (127 - (sc : Int))))))
          ∧ (isA → s.hart.poisonBit p.f.vs2.toNat scale = false → sc = 255 → p.f.fn % 4 ≠ 0 → ∀ b fl,
              (p.rt, b, fl) ∈ [(0, 0x7F, 16), (1, 0xFF, 16), (2, 0x7FFF, 16), (3, 0xFFFF, 16), (4, 0x7FFFFFFF, 16), (5, 0xFFFFFFFF, 16),
                (6, 0x7FFFFFFFFFFFFFFF, 16), (7, 0xFFFFFFFFFFFFFFFF, 16), (8, 0x7E00, 0), (9, 0x7FC0, 0), (10, 0x7FC00000, 0),
                (11, 0x7FF8000000000000, 0), (12, 0x7F, 0), (13, 0x7E, 0), (14, 7, 16), (15, 0x1F, 16), (16, 0x1F, 16), (17, 7, 16), (18, 0xFF, 0)] →
              makes (.vcvt f) (.write b false fl 0))
          ∧ ∀ levels, p.cols ≤ 2 ^ levels →
              makes (.vredtsum f) (match treeSum p.rt p.mode leaf levels 0 with
                | some (b, fl) => .writeAt e b ((List.range p.cols).any (fun c => s.hart.selects p.f (at_ c) && poison (at_ c))) fl
                | none => .writeAt e 0 false 0))

/-- R123, R189, R114: a word its checks refuse (code 2 or 18) stops with vstart as it was and no element performed; a division that traps stops at the
lowest serial that does, vstart names it, and exactly the elements below it are performed. R120, R157: a block whose first word is no block word,
or has no STOP, raises code 17 with the address of the offending word and has no other effect than the requests of its fetch. -/
def Obligations.VectorStops : Prop :=
  (∀ (s : State) (i : Instr) (f : Fields) (p : Prep) (tr : Trap),
      (s.hart.ahead = none → s.hart.rep = 0 → s.hart.wofs = 0 → s.hart.ill = false → s.hart.block = none → s.hart.stopped = [] → s.hart.run = .running →
          isMatrixWord i = false →
          (∃ w, encodeBlock i = some w ∧ checkBlock s.hart.vcount 0 1 0 [] [w, stopWord] = .ok [i]) →
          prepWord s.hart s.loneBlock 0 i s.hart.tagOf = .error tr →
            exec i s = .next (((s.inBlock i).resumeAt 0 0 s.hart.start).trap tr))
        ∧ (i ∈ [.vdiv f, .vrem f] → s.ready i p → ∀ e, p.active s e → elementOf p s e = .stop tr →
            (∀ k tr', k < e → p.active s k → elementOf p s k ≠ .stop tr') →
            ∃ u : State, exec i s = .next (u.trap tr) ∧ u.hart.pc = s.hart.pc ∧ u.hart.vstart = word e ∧ u.mem = s.mem ∧ u.hart.x = s.hart.x
              ∧ (∀ k, k < e → p.active s k → ∀ b pz fl vx, elementOf p s k = .write b pz fl vx →
                  u.hart.elem p.f.vd.toNat p.rt k = b % 2 ^ usedBits p.rt)
              ∧ (∀ k, e ≤ k → u.hart.elem p.f.vd.toNat p.rt k = s.hart.elem p.f.vd.toNat p.rt k)))
    ∧ (∀ (s : State) (stg : BitVec 3) (off : BitVec 17) (ws : List (BitVec 64)) (k : Nat), s.hart.ahead = none → s.hart.run = .running →
        let b := (s.hart.pc &&& 0xFFFFFFFFFFFFFFF8) + 8 * off.signExtend 64
        s.hart.ill = false → s.fetchBlock 64 b = .ok ws → checkBlock s.hart.vcount stg.toNat 1 0 [] ws = .error k →
          exec (.vfetch 0 stg off) s = .next ((s.blockRequests b).trap ⟨17, b + BitVec.ofNat 64 (8 * k)⟩))

/-- R169, R182: VCMP, the mask words and MFROMP complete: each active bit of md has its value, every other bit, mask and register stays. VCMP raises
NV where an unpoisoned comparison has a signalling NaN, or an ordered one any NaN; the others raise no flag. -/
def Obligations.MaskWords : Prop :=
  ∀ (s : State) (i : Instr) (f : Fields) (p : Prep), i ∈ [.vcmp f, .mand f, .mor f, .mxor f, .mandn f, .mfromp f] → s.ready i p →
    let d := p.f.vd.toNat % 8
    let a := fun (e : Nat) => s.hart.maskBit (p.f.vs1.toNat % 8) e
    let b := fun (e : Nat) => s.hart.maskBit (p.f.vs2.toNat % 8) e
    let x := fun (e : Nat) => (p.a s.hart s.hart e).1.f
    let y := fun (e : Nat) => (p.b s.hart s.hart e).1.f
    let poisoned := fun (e : Nat) => (p.a s.hart s.hart e).2 || (p.b s.hart s.hart e).2
    let nan := fun (e : Nat) => (x e).isNan || (y e).isNan
    let cond := p.f.fn % 8
    let raises := fun (e : Nat) => poisoned e = false ∧ (if cond ≤ 1 then (x e).isSig || (y e).isSig else nan e) = true
    ∃ t, exec i s = .next t ∧ passedBlock s t ∧ t.mem = s.mem ∧ t.hart.x = s.hart.x ∧ t.hart.v = s.hart.v ∧ t.hart.vtag = s.hart.vtag
      ∧ t.hart.vpois = s.hart.vpois ∧ t.hart.vxflags = s.hart.vxflags
      ∧ t.hart.fflags = orWord s.hart.fflags (if i = .vcmp f ∧ ∃ e ∈ p.actives s, raises e then 16 else 0)
      ∧ (∀ m e, m ≠ d ∨ ¬p.active s e → t.hart.maskBit m e = s.hart.maskBit m e)
      ∧ ∀ e, p.active s e →
          (i = .mand f → t.hart.maskBit d e = (a e && b e)) ∧ (i = .mor f → t.hart.maskBit d e = (a e || b e))
          ∧ (i = .mxor f → t.hart.maskBit d e = (a e != b e)) ∧ (i = .mandn f → t.hart.maskBit d e = (a e && !b e))
          ∧ (i = .mfromp f → t.hart.maskBit d e = s.hart.poisonBit p.f.vs1.toNat e)
          ∧ (i = .vcmp f → t.hart.maskBit d e =
              (!poisoned e && match cond with
                | 0 => fEqual (x e) (y e)
                | 1 => !fEqual (x e) (y e)
                | 2 => !nan e && fLess (x e) (y e)
                | 3 => !nan e && (fLess (x e) (y e) || fEqual (x e) (y e))
                | 4 => !nan e && fLess (y e) (x e)
                | _ => !nan e && (fLess (y e) (x e) || fEqual (x e) (y e))))

/-- R177, R178, R179, R181, R182: VEXT, MPOPC, MFIRST and the reductions complete where no element they read is poisoned, and write the scalar
register alone: the selected element, the count, the first serial or −1, the value combined in ascending order from X(xs); with no active element
a reduction writes nothing. fflags gains what each combination raises. That VREDSUM of floating elements under an integer result tag saturates as
a conversion does is the choice of log entry 51. -/
def Obligations.ScalarResults : Prop :=
  ∀ (s : State) (i : Instr) (f : Fields) (p : Prep), s.ready i p →
    let es := p.actives s
    let m := fun (e : Nat) => s.hart.maskBit (p.f.vs1.toNat % 8) e
    let clean := ∀ e ∈ es, s.hart.poisonBit p.f.vs1.toNat e = false
    let raising := fun (x : Tab Word) (fl : Nat) =>
      ∃ t, exec i s = .next t ∧ passedBlock s t ∧ t.hart.x = x ∧ t.hart.fflags = orWord s.hart.fflags fl
        ∧ t.hart.vxflags = s.hart.vxflags ∧ t.hart.v = s.hart.v ∧ t.hart.vtag = s.hart.vtag ∧ t.hart.vpois = s.hart.vpois
        ∧ t.hart.m = s.hart.m ∧ t.mem = s.mem
    let answers := fun (x : Tab Word) => raising x 0
    let writes := fun (v : Word) => answers (s.setX p.f.xs v).hart.x
    let from_ := p.x.toNat % 2 ^ tagBits p.rt
    let reduces := fun (op : Val → Val → Val × Nat) =>
      clean → (es = [] → answers s.hart.x) ∧ (es ≠ [] →
        raising (s.setX p.f.xs (writeAs p.rt (p.reduce s op es from_).1)).hart.x (p.reduce s op es from_).2)
    let n := tagBits p.rt
    let bitwise := fun (op : Nat → Nat → Nat) (a b : Val) => (Val.int (op (a.i % 2 ^ n).toNat (b.i % 2 ^ n).toNat : Nat), 0)
    let below := fun (x y : FVal) => fLess x y || (fEqual x y && x.neg && !y.neg)
    let picks := fun (op : Int → Int → Int) (second : FVal → FVal → Bool) (a b : Val) =>
      match a, b with
      | .int x, .int y => (Val.int (op x y), 0)
      | a, b =>
        (.flt (if a.f.isNan && b.f.isNan then .nan false else if a.f.isNan then b.f else if b.f.isNan then a.f else if second a.f b.f then b.f else a.f),
          if a.f.isSig || b.f.isSig then 16 else 0)
    (i = .vext f → p.total ≤ p.f.fn → writes 0)
      ∧ (i = .vext f → p.active s p.f.fn → s.hart.poisonBit p.f.vs1.toNat p.f.fn = false →
          writes (writeAs p.t1 (s.hart.elem p.f.vs1.toNat p.t1 p.f.fn)))
      ∧ (i = .vext f → p.f.fn < p.total → ¬p.active s p.f.fn → answers s.hart.x)
      ∧ (i = .mpopc f → writes (word (es.countP m)))
      ∧ (i = .mfirst f → writes (match es.find? m with | some e => word e | none => 0xFFFFFFFFFFFFFFFF))
      ∧ (i = .vredsum f → reduces (fun a b => match a, b with
          | .int x, .int y => (.int (x + y), 0)
          | a, b => (.flt (fAdd (decide (p.mode = .rdn)) a.f b.f).1, (fAdd (decide (p.mode = .rdn)) a.f b.f).2)))
      ∧ (i = .vredmax f → reduces (picks max (fun a b => below a b)))
      ∧ (i = .vredmin f → reduces (picks min (fun a b => below b a)))
      ∧ (i = .vredand f → reduces (bitwise (· &&& ·)))
      ∧ (i = .vredor f → reduces (bitwise (· ||| ·)))

/-- R183, R184: the vector loads and stores complete where every active element's access is aligned and reaches memory, and (a store) nothing poisoned
is written. A load's elements are the bytes its scope reads; a store's bytes are those of its active elements, the last one to cover a byte
prevailing; a four-bit element is a half of its byte. Nothing else of the registers, and of memory for a load, changes. (The elements of a store
to a host-shared page are performed one by one, and may change the translation of the next: stated of one element, where no write of another agent
waits to appear.) -/
def Obligations.VectorMemory : Prop :=
  ∀ (s : State) (i : Instr) (f : Fields) (p : Prep) (pa : Nat → Nat), s.ready i p →
    let q := p.attached s
    let s1 := p.released s
    let es := p.actives s
    let v := p.f.vd.toNat
    let half := tagBits p.f.etag = 4
    let reaches := fun (k : Kind) => ∀ e ∈ es, ∃ h, s1.target s1.ctx k (p.addr s.hart s.hart e) p.size = .ok (.mem (pa e) h)
    (i ∈ [.vld f, .vlds f, .vldx f] → reaches .load →
        ∃ t, exec i s = .next t ∧ passedBlock s t ∧ keepsBut v s t ∧ t.mem = s.mem
          ∧ (∀ e ∈ es,
              let seen := (es.filter (· < e)).foldl
                (fun u k => if q.scope = .hart then u else u.observe (.hart s.cur) q.scope (pa k) p.size) s1
              let b := leNat (seen.viewBytes (.hart s.cur) q.scope (pa e) p.size)
              t.hart.elem v p.rt e = (if half then b / 16 ^ (e % 2) % 16 else b) % 2 ^ usedBits p.rt
                ∧ t.hart.poisonBit v e = (s.poisoned (pa e) || p.indexPoison s.hart s.hart e))
          ∧ (∀ e, e ∉ es → t.hart.elem v p.rt e = s.hart.elem v p.rt e ∧ t.hart.poisonBit v e = s.hart.poisonBit v e))
      ∧ (i ∈ [.vst f, .vsts f, .vstx f] → reaches .store → q.hpage = false ∨ (es.length ≤ 1 ∧ s1.othersAppeared (.hart s.cur)) →
          (∀ e ∈ es, s.hart.poisonBit p.f.vs1.toNat e = false ∧ p.indexPoison s.hart s.hart e = false) →
          ∃ t, exec i s = .next t ∧ passedBlock s t ∧ t.hart.v = s.hart.v ∧ t.hart.vtag = s.hart.vtag ∧ t.hart.vpois = s.hart.vpois
            ∧ t.hart.x = s.hart.x ∧ t.hart.m = s.hart.m
            ∧ ∀ a, t.latest a =
                writesIn p.size pa
                  (fun e old =>
                    let b := s.hart.elem p.f.vs1.toNat p.t1 e
                    some (if half then putBits old (4 * (e % 2)) 4 b else b)) es s.latest a)

/-- R303, R304, R299: VAMO and VAMOCAS complete, element by element in ascending order, where every access is aligned, reaches memory by its physical
address, is performed at its home, nothing poisoned is met, and no write of another agent waits to appear, nor a four-bit store; vd receives the
old values unless nr says no. -/
def Obligations.VectorAtomics : Prop :=
  ∀ (s : State) (i : Instr) (f : Fields) (p : Prep) (pa : Nat → Nat), s.ready i p → s.hart.level = .m ∨ bitSet s.hart.ptbase 63 = false →
    s.othersAppeared (.hart s.cur) → (∀ w ∈ s.pend, w.nibble = none ∨ w.appeared = true) →
    let es := p.actives s
    let v := p.f.vd.toNat
    let op := p.f.mfn % 16
    let reaches := fun (host : Bool) => ∀ e ∈ es,
      (∃ h, s.target s.ctx .store (p.addr s.hart s.hart e) p.size = .ok (.mem (pa e) h)) ∧ s.homePerforms (pa e) host ∧ s.poisoned (pa e) = false
        ∧ s.hart.poisonBit p.f.vs1.toNat e = false ∧ p.indexPoison s.hart s.hart e = false
    let acts := fun (nr : Bool) (new : Nat → Nat → Option Nat) =>
      let at_ := fun (l : List Nat) => writesIn p.size pa new l s.latest
      ∃ t, exec i s = .next t ∧ passedBlock s t ∧ keepsBut v s t ∧ (∀ a, t.latest a = at_ es a)
        ∧ (nr → t.hart.v = s.hart.v)
        ∧ (nr = false → ∀ e ∈ es, t.hart.elem v p.rt e = leNat ((List.range p.size).map (fun k => at_ (es.filter (· < e)) (pa e + k))))
        ∧ (∀ e, e ∉ es → t.hart.elem v p.rt e = s.hart.elem v p.rt e)
    (i = .vamo f → reaches (op = 0 || op = 8) → acts p.f.nr (fun e old => some (vamoNew op p.size old (s.hart.elem p.f.vs1.toNat p.t1 e))))
      ∧ (i = .vamocas f → reaches true → (∀ e ∈ es, s.hart.poisonBit v e = false) →
          acts false (fun e old => if old = s.hart.elem v p.td e then some (s.hart.elem p.f.vs1.toNat p.t1 e) else none))

/-- R374, R375, R376: VDOT8 and XMULS complete from mseq clear: an element of VDOT8 gains its four products of adjacent elements, modulo 2^32, with
the poison of all it read; one of XMULS is the product, rounded half up after the shift and clamped; mseq stays clear. -/
def Obligations.DeprecatedWords : Prop :=
  ∀ (s : State) (i : Instr) (f : Fields) (p : Prep), s.ready i p → bitSet s.hart.mseq 63 = false → s.hart.start = 0 →
    let v := p.f.vd.toNat
    let a := fun (k : Nat) => p.dotSrc s.hart p.f.vs1 p.t1 k
    let b := fun (k : Nat) => p.dotSrc s.hart p.f.vs2 p.t2 k
    let sum := fun (e : Nat) => (s.hart.elem v p.td e : Int) + ((List.range 4).map (fun j => (a (4 * e + j)).1 * (b (4 * e + j)).1)).sum
    let answers := fun (elem : Nat → Nat) (poison : Nat → Bool) =>
      ∃ t, exec i s = .next t ∧ passedBlock s t ∧ keepsBut v s t ∧ t.mem = s.mem ∧ t.hart.mseq = 0
        ∧ (∀ e, p.active s e → t.hart.elem v p.rt e = elem e ∧ t.hart.poisonBit v e = poison e)
        ∧ (∀ e, ¬p.active s e → t.hart.elem v p.rt e = s.hart.elem v p.rt e ∧ t.hart.poisonBit v e = s.hart.poisonBit v e)
    (i = .vdot8 f → answers (fun e => (sum e % 2 ^ 32).toNat)
        (fun e => s.hart.poisonBit v e || (List.range 4).any (fun j => (a (4 * e + j)).2 || (b (4 * e + j)).2)))
      ∧ (i = .xmuls f → answers
          (fun e =>
            let x := (valueOf p.t1 (s.hart.elem p.f.vs1.toNat p.t1 e)).i * (valueOf p.t2 (s.hart.elem p.f.vs2.toNat p.t2 e)).i
            let k := p.f.imm.toNat % 64
            ((clampTo p.rt (if k = 0 then x else (x + 2 ^ (k - 1)).fdiv (2 ^ k))).1 % 2 ^ tagBits p.rt).toNat)
          (fun e => s.hart.poisonBit p.f.vs1.toNat e || s.hart.poisonBit p.f.vs2.toNat e))

/-- R230 to R236, R208, R211: MRANK, MOPK and its adapter form, ADFOLD, ZRD and ZWR complete where they pass their checks and no row misses, faults or
meets poison, and no macro of the slot is being repaired: the active rows are carried out in order, zrdone and zstate.rv end clear, memory stays;
with no row or column to act on, nothing is carried out. A word that wrote its tile, or zt, has set that dirty bit (R213; log entry 70 where cm
selects no column below vl). A word that its checks refuse raises their cause at the word, vstart as it was for codes 2 and 18 (R114). R232, R234,
R235, with R140, R141: what a row of MRANK, ZWR and ZRD leaves. MRANK adds the product of its two elements to each selected element of the row, as
integers modulo 2^80 or rounded once to ACC80; ZWR writes the value of the element of vs1; every other tile element stays. ZRD writes vd: the
tile's value, times the row's scale, delivered under ttag; an integer ttag takes the rounded value clamped to its range. The flags are those of
the elements. -/
def Obligations.MatrixWords : Prop :=
  (∀ (s : State) (i : Instr) (f : Fields) (t : Option SlotTake), i ∈ [.mrank f, .mopk f, .mopkAdapter f, .adfold f, .zrd f, .zwr f] →
      let p : MPrep := ⟨i, f, s.hart, t, []⟩
      let u := if s.core.rv then s else s.withCore (fun c => { c with zrdone := 0 })
      let rows := p.rows.filter (fun r => !u.core.zrdone.toNat.testBit r)
      let w := rows.foldl (fun u r => p.rowDo r u) s
      let adapted := rows.any (fun r => p.rowId r ≠ 0xFFFFF)
      let wroteTile := (i ∈ [.mrank f, .mopk f, .mopkAdapter f, .zwr f] && !rows.isEmpty) || (i = .adfold f && adapted)
      let wroteZt := (i = .mopkAdapter f && adapted) || (i = .adfold f && !f.kp && !rows.isEmpty)
      (s.matrixReadyFor i f t → s.hart.nrows ≤ 64 → s.takeRepairs t = false →
          (p.idle = false → p.rankPoison = false → (∀ r ∈ rows, p.rowState s.cluster r = .go) →
              ∃ t', exec i s = .next t' ∧ passedBlock s t' ∧ t'.mem = s.mem ∧ t'.hart.x = s.hart.x ∧ t'.hart.m = s.hart.m
                ∧ t'.core.tile = w.core.tile ∧ t'.hart.v = w.hart.v ∧ t'.hart.vtag = w.hart.vtag ∧ t'.hart.vpois = w.hart.vpois
                ∧ t'.hart.fflags = w.hart.fflags ∧ t'.hart.vxflags = w.hart.vxflags ∧ t'.core.zrdone = 0 ∧ t'.core.rv = false
                ∧ ∀ j, j < 64 → j ≠ 62 → t'.core.zstate.getLsbD j =
                    (s.core.zstate.getLsbD j || (decide (j = 48 + f.z) && wroteTile) || (decide (j = 52) && wroteZt)))
            ∧ (p.idle → ∃ t', exec i s = .next t' ∧ passedBlock s t' ∧ t'.mem = s.mem ∧ t'.hart.v = s.hart.v ∧ t'.core.tile = s.core.tile
                ∧ t'.core.zrdone = 0 ∧ t'.core.rv = false))
        ∧ (∀ tr, s.hart.ahead = none → s.hart.rep = 0 → s.hart.wofs = 0 → s.hart.ill = false → s.hart.block = none → s.hart.stopped = [] →
            s.hart.run = .running →
            (∃ w, encodeBlock i = some w ∧ checkBlock s.hart.vcount 0 1 0 [] [w, stopWord] = .ok [i]) →
            (⟨i, f, s.hart, none, []⟩ : MPrep).issueCheck s s.loneBlock = some tr →
            exec i s = .next (((s.inBlock i).resumeAt 0 0 (if tr.code = 2 ∨ tr.code = 18 then s.hart.start else 0)).trap tr)))
    ∧ (∀ (s : State) (i : Instr) (f : Fields), i ∈ [.mrank f, .zrd f, .zwr f] → s.matrixReadyFor i f none → s.hart.nrows ≤ 64 →
        let p : MPrep := ⟨i, f, s.hart, none, []⟩
        let rows := p.rows.filter (fun r => !(s.core.rv && s.core.zrdone.toNat.testBit r))
        let k := s.hart.ncols
        let cols := (List.range 64).filter (fun j => decide (j < k) && f.cm.testBit (j / 8))
        p.idle = false → p.rankPoison = false → (∀ r ∈ rows, p.rowState s.cluster r = .go) →
        let t1 := s.hart.tagOf f.vs1.toNat
        let t2 := s.hart.tagOf f.vs2.toNat
        let a := fun (e : Nat) => valueOf t1 (s.hart.elem f.vs1.toNat t1 e)
        let b := fun (j : Nat) => valueOf t2 (s.hart.elem f.vs2.toNat t2 (f.kk * k + j))
        let key := fun (r j : Nat) => 4096 * f.z + 64 * r + j
        let float := fun (z : Acc) => fmtAcc80.value z.toNat
        let rounded := fun (v : FVal) (fl : Nat) => ((BitVec.ofNat 80 (fmtAcc80.round .rne v).1, fl ||| (fmtAcc80.round .rne v).2) : Acc × Nat)
        let ranked := fun (r j : Nat) =>
          match a (r * k + f.kk), b j with
          | .int x, .int y => (s.core.acc (key r j) + BitVec.ofInt 80 (x * y), 0)
          | x, y =>
            let sum := fAdd false (float (s.core.acc (key r j))) (fMul x.f y.f).1
            rounded sum.1 ((fMul x.f y.f).2 ||| sum.2)
        let written := fun (r j : Nat) =>
          match a (r * k + j) with
          | .int x => if f.int then (BitVec.ofInt 80 x, 0) else rounded (.fin (decide (x < 0)) x.natAbs 0) 0
          | .flt v => rounded v 0
        let lo : Int := if isSignedTag f.ttag then -2 ^ (tagBits f.ttag - 1) else 0
        let hi : Int := if isSignedTag f.ttag then 2 ^ (tagBits f.ttag - 1) - 1 else 2 ^ tagBits f.ttag - 1
        let clamped := fun (x : Int) (fl : Nat) => ((max lo (min hi x) % 2 ^ tagBits f.ttag).toNat, fl, if x < lo ∨ hi < x then 4 else 0)
        let m := (s.hart.modeOf f).getD .rne
        let given := fun (v : Val) =>
          if isIntTag f.ttag then
            match v with
            | .int x => clamped x 0
            | .flt (.nan _) => (0, 16, 0)
            | .flt (.inf n) => ((if n then lo % 2 ^ tagBits f.ttag else hi).toNat, 0, 4)
            | .flt (.fin n g e) => clamped (if n then -((roundAt m n g e 0).1 : Int) else (roundAt m n g e 0).1) (if (roundAt m n g e 0).2 then 1 else 0)
          else ((deliver f.ttag m f.ovf v).1, (deliver f.ttag m f.ovf v).2, 0)
        let read := fun (r j : Nat) =>
          let z := s.core.acc (key r j)
          let v : Val := if f.int then .int z.toInt else .flt (float z)
          if f.scl then
            let x := fMul v.f (a (r * k)).f
            let g := given (.flt x.1)
            (g.1, x.2 ||| g.2.1, g.2.2)
          else given v
        let pairs := rows.flatMap (fun r => cols.map (fun j => (r, j)))
        let poison := fun (r : Nat) => f.scl && s.hart.poisonBit f.vs1.toNat (r * k)
        let raised := fun (w : Word) (fl : Nat → Nat → Nat) => pairs.foldl (fun w q => orWord w (fl q.1 q.2)) w
        let writes := fun (t : State) (v : Nat → Nat → Acc × Nat) =>
          (∀ r ∈ rows, ∀ j ∈ cols, t.core.acc (key r j) = (v r j).1) ∧ (∀ n, (∀ q ∈ pairs, n ≠ key q.1 q.2) → t.core.acc n = s.core.acc n)
            ∧ t.hart.fflags = raised s.hart.fflags (fun r j => (v r j).2) ∧ t.hart.vxflags = s.hart.vxflags ∧ t.hart.v = s.hart.v ∧ t.hart.vtag = s.hart.vtag
        ∃ t, exec i s = .next t ∧ (i = .mrank f → writes t ranked) ∧ (i = .zwr f → writes t written)
          ∧ (i = .zrd f → t.core.tile = s.core.tile ∧ t.hart.tagOf f.vd.toNat = (if pairs = [] then s.hart.tagOf f.vd.toNat else f.ttag)
              ∧ (∀ r ∈ rows, ∀ j ∈ cols, t.hart.elem f.vd.toNat f.ttag (r * k + j) = (read r j).1 ∧ t.hart.poisonBit f.vd.toNat (r * k + j) = poison r)
              ∧ (∀ n, (∀ q ∈ pairs, n ≠ q.1 * k + q.2) → t.hart.elem f.vd.toNat f.ttag n = s.hart.elem f.vd.toNat f.ttag n
                  ∧ t.hart.poisonBit f.vd.toNat n = s.hart.poisonBit f.vd.toNat n)
              ∧ (∀ v, v ≠ f.vd.toNat → Tab.get 0 t.hart.v v = Tab.get 0 s.hart.v v ∧ t.hart.tagOf v = s.hart.tagOf v)
              ∧ t.hart.fflags = raised s.hart.fflags (fun r j => if poison r then 0 else (read r j).2.1)
              ∧ t.hart.vxflags = raised s.hart.vxflags (fun r j => if poison r then 0 else (read r j).2.2)))

/-! ### Channels, tiles, weight slots, adapters -/

/-- R191, R192, R217, R203, R223: MATTACH gives back the hart's channels and grants what request, core, limit and cluster leave, which mgrant shows
beside the request and the row limit; MDETACH gives them back; ADCFG writes adbase from X(xs1) and the low 20 bits of X(xs2). R213, R220, R221,
R222: ZZERO clears the tiles its mask names and sets their dirty bits, and clears zrdone and rv; ZSAVE writes the image and ZLOAD reads it, where
the tiles are the hart's, the address is aligned and every line of it is reached; without the right to the tiles each raises code 19. Which
earlier limit a grant sees after two writes of pwrcap is the choice of log entry 78. -/
def Obligations.ChannelsAndTiles : Prop :=
  (∀ (s : State) (d a b : Reg),
      let u := s.releaseChannels s.cur
      let q := rowLimitOf (s.pwrSeen (coreOf s.cur)) (slotOf s.cur)
      let other := Tab.get 0 u.cluster.chan (chanKey (if slotOf s.cur = 0 then s.cur + 1 else s.cur - 1))
      let g := min (min (min (s.x a).toNat 64) (64 - other)) (min q (128 - u.cluster.channelsHeld))
      (∃ t, exec (.mattach d a) s = .next t ∧ t.hart.x = (s.setX d (word g)).hart.x ∧ t.hart.pc = s.hart.pc + 4 ∧ bits t.hart.mgrant 0 7 = g
          ∧ bits t.hart.mgrant 8 7 = q ∧ bits t.hart.mgrant 16 7 = min (s.x a).toNat 64 ∧ t.hart.mgrant &&& 0xFFFFFFFFFF808080 = 0
          ∧ t.mem = s.mem ∧ ∀ k, Tab.get 0 t.cluster.chan k = if k = chanKey s.cur then g else Tab.get 0 s.cluster.chan k)
        ∧ (∃ t, exec .mdetach s = .next t ∧ t.hart.x = s.hart.x ∧ t.hart.pc = s.hart.pc + 4 ∧ t.hart.mgrant = s.hart.mgrant &&& 0xFFFFFFFFFFFFFF80
          ∧ t.mem = s.mem ∧ ∀ k, Tab.get 0 t.cluster.chan k = if k = chanKey s.cur then 0 else Tab.get 0 s.cluster.chan k)
        ∧ (∃ t, exec (.adcfg a b) s = .next t ∧ t.hart.adbase.extractLsb' 20 44 = (s.x a).extractLsb' 20 44
          ∧ t.hart.adbase.extractLsb' 0 20 = (s.x b).extractLsb' 0 20 ∧ t.hart.x = s.hart.x ∧ t.hart.pc = s.hart.pc + 4 ∧ t.mem = s.mem))
    ∧ (∀ (s : State) (a : Reg), s.hart.run = .running →
        (s.tilesOk →
            (∃ t, exec (.zzero a) s = .next t ∧ t.hart = s.retire.hart ∧ t.mem = s.mem ∧ t.core.zrdone = 0 ∧ t.core.rv = false
                ∧ (∀ j, j < 64 → j ≠ 62 → t.core.zstate.getLsbD j =
                    (s.core.zstate.getLsbD j || (decide (48 ≤ j ∧ j < 53) && (s.x a).getLsbD (j - 48))))
                ∧ ∀ k, t.core.acc k = if (bits (s.x a) 0 5).testBit (k / 4096) then 0 else s.core.acc k)
              ∧ (∀ u, s.coreBusy = false → (s.x a).toNat % 256 = 0 → s.storeLines 2884 (s.x a) s.core.image = (u, none) →
                  exec (.zsave a) s = .next (u.withCore (fun c => c.setDirty 0)).retire)
              ∧ ((s.x a).toNat % 256 = 0 → s.loadLines s.ctx 2884 (s.x a) = none →
                  ∃ t, exec (.zload a) s = .next t ∧ t.hart = s.retire.hart ∧ t.mem = s.mem ∧ bits t.core.zstate 48 5 = 0
                    ∧ (∀ k v, k < 18432 → s.imageNat (s.x a + word (256 + 10 * k)) 10 = some v → t.core.acc k = BitVec.ofNat 80 v)
                    ∧ (∀ v, s.imageNat (s.x a + 8) 8 = some v → t.core.zrdone = word v))
              ∧ ((s.x a).toNat % 256 ≠ 0 → exec (.zload a) s = .next (s.trap ⟨4, s.x a⟩)
                  ∧ (s.coreBusy = false → exec (.zsave a) s = .next (s.trap ⟨6, s.x a⟩))))
          ∧ (s.tilesOk = false → ∀ i ∈ [Instr.zzero a, .zsave a, .zload a], exec i s = .next (s.trap ⟨19, 0⟩)))

/-- R224, R225: ADINV performs the hart's stores at its scope, removes every item its selection names from the Bunting of every cluster of that scope,
which remembers it for its later fills, and waits; ADINV_COMPLETE retires it. At U with an ASID of its own it raises code 2. -/
def Obligations.AdapterInvalidation : Prop :=
  ∀ (s : State) (a b : Reg) (sc : Scope),
    let w := s.x b
    let d := bits (s.x a) 0 20
    let q : AdSel :=
      ⟨if d = 0xFFFFF then none else some d, if bitSet w 10 then none else some (bits w 0 10), if bitSet w 11 then word (bits w 16 11) else s.hart.asid⟩
    (¬(bitSet w 11 ∧ s.hart.level = .u) → ∃ t, exec (.adinv a b sc) s = .next t ∧ t.hart.run = .waiting (.adinv a b sc) ∧ t.hart.pc = s.hart.pc
        ∧ t.hart.x = s.hart.x ∧ t.mem = (s.appear (.hart s.cur)).mem
        ∧ t.pend = (s.release (.hart s.cur) sc).pend
        ∧ (∀ c ∈ clustersIn sc s.cur, (t.clusterAt c).bunting = (s.clusterAt c).bunting.filter (fun x => !q.hits x)
            ∧ (t.clusterAt c).adinvs = ⟨q, sc, s.tick, s.cur⟩ :: (s.clusterAt c).adinvs)
        ∧ (∀ c, c ∉ clustersIn sc s.cur → t.clusterAt c = s.clusterAt c))
      ∧ (bitSet w 11 → s.hart.level = .u → ∃ w', encode (.adinv a b sc) = some w' ∧ exec (.adinv a b sc) s = .next (s.trap ⟨2, w'.setWidth 64⟩))
      ∧ (∀ a' b' sc', s.hart.run = .waiting (.adinv a' b' sc') →
          exec .adinvComplete s = .next { s with hart := ({ s.hart with run := .running } : Hart).retireTo (s.hart.pc + 4) })

/-- R196, R197, R218, R219: WLOAD. A load whose descriptor is read and passes its checks is accepted, its slots loading, and waits at issue while the
cluster's queue of 8 is full; kind 1 empties a slot and kind 2 every slot of an ASID at once where nothing holds them, kind 2 at U raising code 2;
kind 3, a refused descriptor and a slot of someone else raise their codes. When a load reads its cells is the choice of log entry 29; that a WLOAD
that empties slots completes however many loads the queue of 8 holds is the choice of log entry 55. -/
def Obligations.WeightSlotRequests : Prop :=
  ∀ (s : State) (a b : Reg), s.hart.run = .running →
    let n := bits (s.x b) 0 9
    let kind := bits (s.x b) 10 2
    let u := s.observeDwords s.ctx .hart (s.x a) 4
    let r1 := s.wloadReq 1 n 0 (WDesc.of [])
    let r2 := s.wloadReq 2 0 (word (bits (s.x a) 0 11)) (WDesc.of [])
    let retired := s.cluster.macroRetired.contains (n / 8)
    let emptiesOne := fun (i : Instr) => ∃ t, exec i s = .next t ∧ t.hart = s.retire.hart ∧ t.mem = s.mem
        ∧ (s.mayBegin (clusterOf s.cur) s.cluster.wloads r1 → ∀ k, t.cluster.slot k = if k = n then WSlot.empty else s.cluster.slot k)
    let emptiesAll := fun (i : Instr) => ∃ t, exec i s = .next t ∧ t.hart = s.retire.hart ∧ t.mem = s.mem
        ∧ (s.mayBegin (clusterOf s.cur) s.cluster.wloads r2 →
            ∀ k, k < 512 → t.cluster.slot k = if r2.covers s.cluster k then WSlot.empty else s.cluster.slot k)
    (kind = 0 → s.cluster.queued < 8 → ∀ ws, s.loadDwords s.ctx .hart (s.x a) 4 = .ok ws →
        let d := WDesc.of ws
        (d.bad n ∨ retired → ∃ v : State, exec (.wload a b) s = .next (v.trap ⟨22, word n⟩) ∧ v.hart = s.hart)
          ∧ (d.bad n = false → retired = false → s.slotDenied n → ∃ v : State, exec (.wload a b) s = .next (v.trap ⟨21, word n⟩) ∧ v.hart = s.hart)
          ∧ (d.bad n = false → retired = false → s.slotDenied n = false → is16 d.tag = false →
              ∃ t, exec (.wload a b) s = .next t ∧ t.hart = s.retire.hart ∧ t.mem = s.mem ∧ (t.cluster.slot n).state = .loading
                ∧ (t.cluster.slot n).asid = s.hart.asid ∧ (t.cluster.slot n).tag = d.tag ∧ (∀ k, k ≠ n → t.cluster.slot k = s.cluster.slot k)
                ∧ t.cluster.queued = s.cluster.queued + 1)
          ∧ (d.bad n = false → retired = false → s.slotDenied n = false → is16 d.tag → s.slotDenied (n + 1) = false →
              exec (.wload a b) s = .next (u.acceptLoad (u.wloadReq 0 n s.hart.asid d)).retire))
      ∧ (s.slotDenied n = false → retired = false → emptiesOne (.wloadEmptySlot a b) ∧ (kind = 1 → emptiesOne (.wload a b)))
      ∧ (retired → exec (.wloadEmptySlot a b) s = .next (s.trap ⟨22, word n⟩))
      ∧ (retired = false → s.slotDenied n → exec (.wloadEmptySlot a b) s = .next (s.trap ⟨21, word n⟩))
      ∧ (s.hart.level = .u → ∃ w, encode (.wload a b) = some w ∧ exec (.wloadEmptyAsid a b) s = .next (s.trap ⟨2, w.setWidth 64⟩)
          ∧ (kind = 2 → exec (.wload a b) s = .next (s.trap ⟨2, w.setWidth 64⟩)))
      ∧ (kind = 0 → 8 ≤ s.cluster.queued → exec (.wload a b) s = .next { s with hart := { s.hart with run := .waiting (.drained (.wload a b)) } })
      ∧ (s.hart.level ≠ .u → emptiesAll (.wloadEmptyAsid a b) ∧ (kind = 2 → emptiesAll (.wload a b)))
      ∧ (kind = 3 → exec (.wload a b) s = .next (s.trap ⟨22, word n⟩))

/-- R197, R219, R208, R396: what the controller of a cluster does by itself. A delayed request begins: a load starts to fetch, the others empty the
slots they name but those of a retired macro and those a later load has marked; the oldest load under way ends with its slots ready, or in error
with the fault in them and a record of kind 7, by what its fetch has read, or reads now where it has not; the oldest fill that can arrive is held,
or started anew where an ADINV met it; a word that waits for its slot goes on as if it ran now, in the block as it was fetched, and completes
where no row misses, faults or meets poison; a macro's failing row or column is bypassed and its slots reload, and a second failure of the kind
retires the macro. The content meant is that which a matrix word between passes holds, beneath a WLOAD that waits for the slot. That a matrix word
which waited executes again at its pc, from where its convoy stands, rests on log entries 13 and 28; when the fetch of an accepted load is
performed is the choice of log entry 29; that the record of kind 7 holds site 0 is the choice of log entry 28. -/
def Obligations.ClusterEvents : Prop :=
  ∀ (s : State) (c : Nat),
    let k := s.clusterAt c
    let kept := fun (t : State) => t.hart = s.hart ∧ t.mem = s.mem
    let content := fun (v : WSlot) => (match v.under with | some u => u.state | none => v.state : SlotState)
    let beneath := fun (v : WSlot) (st : SlotState) =>
      (match v.under with | some u => { v with under := some { u with state := st } } | none => { v with state := st } : WSlot)
    (∀ r rest, k.wloads = r :: rest → r.applied = false → s.mayBegin c [] r →
        ∃ t, exec (.wloadApply c) s = .next t ∧ kept t
          ∧ (r.kind = 0 → (t.clusterAt c).wloads = { r with applied := true } :: rest ∧ ∀ n, (t.clusterAt c).slot n = k.slot n)
          ∧ (r.kind ≠ 0 → (t.clusterAt c).wloads = rest
              ∧ ∀ n, (t.clusterAt c).slot n =
                  if n < 512 ∧ r.covers k n ∧ k.macroRetired.contains (n / 8) = false ∧ rest.any (fun q => q.kind = 0 && q.covers k n) = false
                  then WSlot.empty else k.slot n))
      ∧ (∀ r, k.wloads.find? (fun q => q.applied) = some r →
          let ctx := ctxAt r.hart (.hart r.hart) r.level r.asid r.ptbase
          let slots := (r.s, 0) :: (if is16 r.tag then [(r.s + 1, 1)] else [])
          let ends := fun (t : State) (v : WSlot → Nat → WSlot) =>
            kept t ∧ (t.clusterAt c).wloads = k.wloads.erase r
              ∧ (∀ p ∈ slots, k.macroRetired.contains (p.1 / 8) = false → (k.wloads.erase r).any (fun q => q.kind = 0 && q.covers k p.1) = false →
                  (t.clusterAt c).slot p.1 = v (k.slot p.1) p.2)
              ∧ ∀ n, (∀ p ∈ slots, n ≠ p.1) → (t.clusterAt c).slot n = k.slot n
          let fails := fun (tr : Trap) => ∃ t, exec (.wloadFetchComplete c) s = .next (t.record (dieOfCluster c) 7 false 0 tr.tval r.asid r.hart tr.code)
              ∧ ends t (fun v _ => { v with state := .error, under := none, fault := some (tr.code, tr.tval) })
          let arrives := fun (cells scales pas : List (Nat × Nat)) =>
            ∃ t, exec (.wloadFetchComplete c) s = .next t ∧ ends t (fun v b => v.filled cells scales pas b)
          (r.got = none →
              (∀ cells scales, s.fetchCells ctx r (List.range 4096) = .ok cells →
                  (if r.scl then s.fetchScales ctx r (List.range 128) else .ok []) = .ok scales → arrives cells scales (s.rowPas ctx r))
                ∧ (∀ tr, s.fetchCells ctx r (List.range 4096) = .error tr → fails tr)
                ∧ (∀ cells tr, s.fetchCells ctx r (List.range 4096) = .ok cells → r.scl → s.fetchScales ctx r (List.range 128) = .error tr → fails tr))
            ∧ (∀ cells scales pas, r.got = some (.arrived cells scales pas) → arrives cells scales pas)
            ∧ (∀ code tval, r.got = some (.faulted code tval) → fails ⟨code, tval⟩))
      ∧ (∀ f, k.fills.find? k.fillReady = some f →
          ∃ t, exec (.buntingFillArrive c) s = .next t ∧ kept t
            ∧ (f.dropped = true → (t.clusterAt c).fills = k.fills.erase f ++ [{ f with dropped := false }] ∧ (t.clusterAt c).bunting = k.bunting)
            ∧ (f.dropped = false → (t.clusterAt c).fills = k.fills.erase f
                ∧ (f.item.kind = .entry → (t.clusterAt c).bunting.head? = some (s.fillItem f none))
                ∧ (∀ e, f.item.kind ≠ .entry → k.entryOf f.item.asid f.item.id f.item.mid = some e → e.fault = none → e.poison = false →
                    (s.fillItem f (some e)).size ≤ 2 ^ 20 → (t.clusterAt c).bunting.head? = some (s.fillItem f (some e)))))
      ∧ (∀ i f p,
          let u := s.withHart (fun h => { h with run := .running, block := none })
          let q : MPrep := ⟨i, f, u.hart, some p, []⟩
          let rows := q.rows.filter (fun r => !(s.core.rv && s.core.zrdone.toNat.testBit r))
          u.matrixReadyFor i f (some p) → q.idle = false → s.hart.run = .waiting (.slot f.w) → s.hart.block = (u.inBlock i).hart.block →
            exec .matrixSlotReady s = exec i u
              ∧ (s.hart.nrows ≤ 64 → s.takeRepairs (some p) = false → (∀ r ∈ rows, q.rowState s.cluster r = .go) →
                  ∃ t, exec .matrixSlotReady s = .next t ∧ passedBlock s t ∧ t.mem = s.mem ∧ t.hart.x = s.hart.x ∧ t.hart.v = s.hart.v
                    ∧ t.core.tile = (rows.foldl (fun w r => q.rowDo r w) u).core.tile ∧ t.core.zrdone = 0 ∧ t.core.rv = false))
      ∧ (s.matrixReady = true → s.hart.block = none → exec .matrixSlotReady s = .next { s with hart := { s.hart with run := .running } })
      ∧ (s.matrixReady = false → exec .matrixSlotReady s = .next s)
      ∧ (∀ m row, (s.dieAt (dieOfCluster c)).lasting.contains (macroKey c m) → k.macroRetired.contains m = false →
          let again := Tab.get 0 k.macroFail m / (if row then 1 else 2) % 2 = 1
          ∃ t, exec (.macroRepair c m row) s = .next t ∧ kept t
            ∧ (again → (t.clusterAt c).macroRetired = m :: k.macroRetired
                ∧ ∀ n, (t.clusterAt c).slot n = if n / 8 = m then { beneath (k.slot n) .error with state := .error } else k.slot n)
            ∧ (¬again → (t.dieAt (dieOfCluster c)).lasting = (s.dieAt (dieOfCluster c)).lasting.erase (macroKey c m)
                ∧ ∀ n, (t.clusterAt c).slot n = if n / 8 = m ∧ content (k.slot n) = .ready then beneath (k.slot n) .loading else k.slot n))
      ∧ (∀ n, content (k.slot n) = .loading → (k.slot n).under ≠ none ∨ k.wloads.any (fun r => r.covers k n) = false →
          ∃ t, exec (.slotReloadComplete c n) s = .next t ∧ kept t
            ∧ (content ((t.clusterAt c).slot n) = .ready ∨ content ((t.clusterAt c).slot n) = .error)
            ∧ ∀ j, j ≠ n → (t.clusterAt c).slot j = k.slot j)

/-! ### Crews, messages, panels, pennants, rings -/

/-- R252, R253: SPAWN answers 2 for no present core, 0 for no free slot, 1 for an accepted child, whose slot is reserved with its member number in the
order of acceptance; outside a crew it raises code 26. SPAWN_CHILD_START starts a child whose lanes are free; reserved bits of its registers are
zero (R7). R252, R254: SEND appends a message where the inbound queue has room, and answers 1, 0 or 2; RECV takes the oldest message and answers
its sender, or waits; RECV_WAKE lets a waiting hart take one; RECV_TIMEOUT raises code 25 once recvto is over. That a child starts with bits 1:0
of its pc zero is deduced (log entry 27). The RECV_WAKE clause takes a message where recvto is over as well, and the RECV_TIMEOUT clause traps
where a message is queued as well: the model's choice (log entry 72). That a SPAWN or SEND whose target die is out of service, or whose core does
not exist, has read its message before is deduced (log entry 73). What requests the reads of a core map make is the choice of log entry 44. -/
def Obligations.ChildrenAndMessages : Prop :=
  (∀ (s : State) (d a b : Reg),
      let u := (s.observeDwords s.ctx .hart (s.x b) 4).mapRequests s.hart.coremap
      (s.ownCrew = none → exec (.spawn d a b) s = .next (s.trap ⟨26, 0⟩))
        ∧ (∀ cr m ws, s.ownCrew = some (cr, m) → s.loadDwords s.ctx .hart (s.x b) 4 = .ok ws →
            (u.logicalCore u.ownMap (s.x a).toNat = none → exec (.spawn d a b) s = .next (u.setX d 2).retire)
              ∧ (∀ c, u.logicalCore u.ownMap (s.x a).toNat = some c → u.childSlot c = none → exec (.spawn d a b) s = .next (u.setX d 0).retire)
              ∧ (∀ c h, u.logicalCore u.ownMap (s.x a).toNat = some c → u.childSlot c = some h →
                  ∃ t, exec (.spawn d a b) s = .next t ∧ t.hart = (s.setX d 1).retire.hart ∧ t.mem = (u.appear (.hart s.cur)).mem
                    ∧ (t.coreAt c).children = (s.coreAt c).children ++
                        [⟨slotOf h, word (ws.getD 0 0), [word (ws.getD 1 0), word (ws.getD 2 0), word (ws.getD 3 0), cr.recAddr], cr.number,
                          3072 + cr.children⟩]))
        ∧ (∀ core k cr e, (s.coreAt core).children.find? (s.childReady core) = some k → s.crewOf k.launch = some cr →
            s.asidEntry cr.asid = some e →
            ∃ t, exec (.spawnChildStart core) s = .next t ∧ t.mem = s.mem ∧ (t.coreAt core).children = (s.coreAt core).children.erase k
              ∧ (k.slot < 2 →
                  let h := t.hartAt (2 * core + k.slot)
                  h.level = .u ∧ h.pc = k.pc &&& 0xFFFFFFFFFFFFFFFC ∧ h.run = .running ∧ h.asid = cr.asid ∧ h.ptbase = e.ptbase &&& 0x800FFFFFFFFFF000
                    ∧ h.ebase = e.ebase &&& 0xFFFFFFFFFFFFFFFD ∧ h.tag = some (k.launch, k.member)
                    ∧ h.reg 5 = k.args.getD 0 0 ∧ h.ill = true)))
    ∧ (∀ (s : State) (d a b : Reg),
        let u := (s.observeDwords s.ctx .hart (s.x b) 4).mapRequests s.hart.coremap
        let took := fun (r : Result) (r0 : State) (d a : Reg) (m : Message) (rest : List Message) =>
          let v := (r0.withCore (fun c => { c with inbound := rest })).acquire (.hart s.cur) .device
          r = .next ((v.storeDwords v.ctx .hart (s.x a) m.dwords).setX d (word m.sender)).retire
        (∀ ws, s.loadDwords s.ctx .hart (s.x b) 4 = .ok ws →
            (u.logicalCore u.ownMap (s.x a).toNat = none → exec (.send d a b) s = .next (u.setX d 2).retire)
              ∧ (∀ c, u.logicalCore u.ownMap (s.x a).toNat = some c → 16 ≤ (s.coreAt c).inbound.length →
                  exec (.send d a b) s = .next (u.setX d 0).retire)
              ∧ (∀ c n, u.logicalCore u.ownMap (s.x a).toNat = some c → (s.coreAt c).inbound.length < 16 →
                  u.coreNumber u.ownMap (coreOf s.cur) = some n →
                  ∃ t, exec (.send d a b) s = .next t ∧ t.mem = (u.appear (.hart s.cur)).mem ∧ t.hart.x = (s.setX d 1).hart.x ∧ t.hart.pc = s.hart.pc + 4
                    ∧ t.hart.lastSend = some c
                    ∧ (t.coreAt c).inbound = (s.coreAt c).inbound ++ [⟨n, ws.flatMap (leBytes 8)⟩]))
          ∧ (∀ m rest, s.core.inbound = m :: rest → (s.hartAt (otherSlot s.cur)).run.recvSince = none → s.checkDwords s.ctx [.store] (s.x a) 4 = none →
              took (exec (.recv d a) s) s d a m rest)
          ∧ (s.core.inbound = [] → s.checkDwords s.ctx [.store] (s.x a) 4 = none →
              exec (.recv d a) s = .next { s with hart := { s.hart with run := .waiting (.recv d a s.clk) } })
          ∧ (∀ d' a' t m rest, s.hart.run = .waiting (.recv d' a' t) → s.core.inbound = m :: rest → s.recvFirst t →
              s.checkDwords s.ctx [.store] (s.x a') 4 = none → took (exec .recvWake s) (s.withHart Hart.resume) d' a' m rest)
          ∧ (∀ d' a' t, s.hart.run = .waiting (.recv d' a' t) → s.hart.recvto ≠ 0 → t + s.hart.recvto.toNat * 1024 ≤ s.clk →
              exec .recvTimeout s = .next ((s.withHart Hart.resume).trap ⟨25, 0⟩)))

/-- R249, R250, R251: PGRAB hands out the next piece of the panel, keeps it outstanding and moves the cursor past it, or answers zeros when the panel
is exhausted; PDONE releases at device scope, retires the piece of that origin, counts its area and answers 1 with the last of the panel. R260,
R360: END with outstanding pieces raises code 26 with the lowest origin, and with undrained output streams waits; else it gives up the slot: no
hart, no lanes, no channels, its streams unbound and their buffers back in the Square, its entries dropped, its vector registers zeroed and vtype,
vl and vgrant as they were. The hart's crew counts one hart fewer, or, with its last, is gone; where the completion word is reached and no other
agent's write waits to appear, the word gains the hart's flags, and with the crew's last hart done and the status. That END of a hart of no crew
gives up its slot is the choice of log entry 79. -/
def Obligations.PanelsAndEnd : Prop :=
  (∀ (s : State) (d d2 a : Reg) (cr : Crew) (m : Nat), s.ownCrew = some (cr, m) →
      (s.hart.colWant = 0 → exec (.pgrab d d2) s = .next (s.trap ⟨16, 0⟩))
        ∧ (s.hart.colWant ≠ 0 → cr.panelAddr = 0 ∨ 8 ≤ (s.piecesOf cr.number m).length → exec (.pgrab d d2) s = .next (s.trap ⟨26, 0⟩))
        ∧ (∀ u p, s.hart.colWant ≠ 0 → cr.panelAddr ≠ 0 → (s.piecesOf cr.number m).length < 8 → s.panelOf cr = .ok (u, p) →
            let hb := if p.hb = 0 then min s.hart.rowWant (p.nrows - p.r) else p.hb
            let wc := min s.hart.colWant (p.ncols - p.c)
            let origin := word ((p.row0 + p.r) % 2 ^ 32 * 2 ^ 32 + (p.col0 + p.c) % 2 ^ 32)
            let after := if p.c + wc = p.ncols then { p with c := 0, r := p.r + hb, hb := 0 } else { p with c := p.c + wc, hb := hb }
            (p.nrows ≤ p.r → ∃ t, exec (.pgrab d d2) s = .next t ∧ t.hart = ((s.setX d 0).setX d2 0).retire.hart ∧ t.mem = s.mem
                ∧ t.pieces = s.pieces ∧ t.crewOf cr.number = some { cr with panel := some p })
              ∧ (p.r < p.nrows → ∃ t, exec (.pgrab d d2) s = .next t
                ∧ t.hart = ((s.setX d origin).setX d2 (word (hb * 2 ^ 32 + wc))).retire.hart ∧ t.mem = s.mem
                ∧ t.pieces = s.pieces ++ [⟨cr.number, m, origin, hb * wc⟩] ∧ t.crewOf cr.number = some { cr with panel := some after }))
        ∧ (∀ n k cr' p g, s.hart.tag = some (n, k) → s.liveCrew n = some cr' → cr'.panel = some g →
            (s.piecesOf n k).find? (fun p => p.origin = s.x a) = some p →
            ∃ t, exec (.pdone d a) s = .next t ∧ t.mem = (s.appear (.hart s.cur)).mem ∧ t.pieces = s.pieces.erase p
              ∧ t.pend = (s.release (.hart s.cur) .device).pend ∧ t.crewOf n = some { cr' with panel := some { g with area := g.area + p.area } }
              ∧ t.hart = (s.setX d (if g.area + p.area = g.nrows * g.ncols then 1 else 0)).retire.hart)
        ∧ (∀ n k, s.hart.tag = some (n, k) → s.liveCrew n = none ∨ (s.piecesOf n k).find? (fun p => p.origin = s.x a) = none →
            exec (.pdone d a) s = .next (s.trap ⟨26, s.x a⟩)))
    ∧ (∀ s : State,
        let u := (s.withHart Hart.resume).release (.hart s.cur) .device
        let h := s.cur
        (∀ n m p ps, s.hart.tag = some (n, m) → s.piecesOf n m = p :: ps →
            ∃ o, exec .endHart s = .next ((s.withHart Hart.resume).trap ⟨26, o⟩) ∧ (∃ q ∈ p :: ps, q.origin = o)
              ∧ ∀ q ∈ p :: ps, o.toNat ≤ q.origin.toNat)
          ∧ ((∀ n m, s.hart.tag = some (n, m) → s.piecesOf n m = []) → s.drained h = false →
              exec .endHart s = .next { s with hart := { s.hart with run := .waiting (.drained .endHart) } })
          ∧ ((∀ n m, s.hart.tag = some (n, m) → s.piecesOf n m = []) → s.drained h →
              ∃ t, exec .endHart s = .next t ∧ t.cur = h ∧ t.hart.run = .empty ∧ t.hart.held = 0 ∧ t.hart.v = [] ∧ t.hart.vpois = []
                ∧ t.hart.tag = none ∧ t.hart.x = s.hart.x ∧ t.hart.vtype = s.hart.vtype ∧ t.hart.vl = s.hart.vl ∧ t.hart.vgrant = s.hart.vgrant
                ∧ bits t.hart.mgrant 0 7 = 0 ∧ (∀ k, Tab.get 0 t.cluster.chan k = if k = chanKey h then 0 else Tab.get 0 s.cluster.chan k)
                ∧ (∀ q, q < 16 → (t.stream h q).bound = false)
                ∧ (∀ q, q < 16 → (s.stream h q).bound → ∀ b ∈ t.cluster.bufs, ¬(b.hart = h ∧ b.q = q))
                ∧ (∀ e ∈ t.core.uqueue, e.slot ≠ slotOf h)
                ∧ (∀ cr m, s.ownCrew = some (cr, m) →
                    (cr.left ≤ 1 → ∀ c ∈ t.crews, c.number ≠ cr.number)
                      ∧ (1 < cr.left → t.crewOf cr.number = some { cr with left := cr.left - 1 })
                      ∧ ∀ pa b,
                        let v := u.reportEnd (u.endCtx cr) cr h u.hart.reportFlags
                        let word0 := leNat (s.latestBytes pa 8) ||| s.hart.reportFlags
                        u.target (u.endCtx cr) .store cr.cword 8 = .ok (.mem pa b) →
                        (v.acquire (.hart h) .device).target (u.endCtx cr) .store cr.cword 8 = .ok (.mem pa b) →
                        s.poisoned pa = false → s.homePerforms pa false → s.othersAppeared (.hart h) → (∀ w ∈ s.pend, w.nibble = none ∨ w.appeared) →
                        (∀ q, q < 16 → (s.stream h q).bound →
                          let o := squareAt (clusterOf h) (s.stream h q).bufofs
                          pa + 8 ≤ o ∨ o + (s.stream h q).bufsize ≤ pa) →
                        leNat (t.latestBytes pa 8) = if cr.left ≤ 1 then word0 ||| doneWord (if cr.dieLost then 1 else 0) else word0)))

/-- R258, R259: PNARRIVE counts an arrival and answers the generation, the last one beginning the next; PNWAIT answers a generation other than the one
named, or waits, and PNWAIT_WAKE ends that wait; bad names, bad numbers and another ASID's pennant raise code 27. -/
def Obligations.Pennants : Prop :=
  ∀ (s : State) (d a b : Reg),
    let e := (s.x b).toNat
    (pennantName (s.x a) = none → exec (.pnarrive d a b) s = .next (s.trap ⟨27, s.x a⟩) ∧ exec (.pnwait d a b) s = .next (s.trap ⟨27, s.x a⟩))
      ∧ (∀ n, pennantName (s.x a) = some n →
          let p := s.pennant n
          (e = 0 ∨ 3072 < e ∨ (p.count ≠ 0 ∧ (p.expected ≠ e ∨ p.asid ≠ s.hart.asid)) → exec (.pnarrive d a b) s = .next (s.trap ⟨27, s.x a⟩))
            ∧ (0 < e → e ≤ 3072 → (p.count = 0 ∨ (p.expected = e ∧ p.asid = s.hart.asid)) →
                ∃ t, exec (.pnarrive d a b) s = .next t ∧ t.mem = (s.appear (.hart s.cur)).mem ∧ t.hart = (s.setX d (p.gen.setWidth 64)).retire.hart
                  ∧ t.pennant n = (if p.count + 1 = e then ⟨0, e, p.gen + 1, s.hart.asid⟩ else ⟨p.count + 1, e, p.gen, s.hart.asid⟩))
            ∧ (p.count ≠ 0 → p.asid ≠ s.hart.asid → exec (.pnwait d a b) s = .next (s.trap ⟨27, s.x a⟩))
            ∧ (p.count = 0 ∨ p.asid = s.hart.asid →
                (p.gen.setWidth 64 ≠ s.x b → exec (.pnwait d a b) s = .next ((s.acquire (.hart s.cur) n.1).setX d (p.gen.setWidth 64)).retire)
                  ∧ (p.gen.setWidth 64 = s.x b → exec (.pnwait d a b) s =
                      .next { s with hart := { s.hart with run := .waiting (.pnwait d a b) } })))
      ∧ (∀ d' a' b' n, s.hart.run = .waiting (.pnwait d' a' b') → pennantName (s.x a') = some n → (s.pennant n).gen.setWidth 64 ≠ s.x b' →
          exec .pnwaitWake s =
            .next (((s.withHart Hart.resume).acquire (.hart s.cur) n.1).setX d' ((s.pennant n).gen.setWidth 64)).retire)

/-- R256, R257, R263: RPUT and RTAKE. A full (empty) ring answers all ones and claims nothing; a claim advances tail (head) by one atomic write. Where
the slot's header is free (full) for the claimed index, the hart acquires with the read of it, copies the dwords, writes the header with a release
and ends with that index in xd; else it waits with the slot it has claimed, by the translations that were checked before the claim; RPUT_SLOT_FREE
and RTAKE_SLOT_FULL end that wait. That a claim checks its ring descriptor as an AMO does is deduced (log entry 23). -/
def Obligations.Rings : Prop :=
  ∀ (s : State) (d a b : Reg) (sc : Scope) (r : Ring) (head tail : BitVec 32),
    let u := s.observeRing sc (s.x a) r
    let put := u.claim r head (tail + 1)
    let take := u.claim r (head + 1) tail
    let ends := fun (res : Result) (v : State) (sc : Scope) (k : RingSlot) (hdr : Nat) (d : Reg) =>
      let w := ((v.withHart Hart.resume).observeDword s.ctx sc k.hdr).acquire (.hart s.cur) sc
      let c := w.copyDwords s.ctx sc (w.stoppedSectors s.ctx sc k.moves) k.moves
      res = .next (((c.release (.hart s.cur) sc).storeAt s.ctx sc k.hdr hdr).setX d (k.idx.setWidth 64)).retire
    let waits := fun (res : Result) (v : State) (w : Wait) => res = .next { v with hart := { v.hart with run := .waiting w } }
    (s.ring s.ctx sc (s.x a) = .ok r → u.ringIndices r = (head, tail) → s.hart.run = .running →
        put.ringIndices r = (head, tail + 1) ∧ take.ringIndices r = (head + 1, tail)
          ∧ (s.ringChecks s.ctx .load r (s.x b) = none →
              let k := s.putSlot s.ctx r (s.x b) tail
              (2 ^ r.lg ≤ (tail - head).toNat → exec (.rput d a b sc) s = .next (u.setX d (-1)).retire)
                ∧ ((tail - head).toNat < 2 ^ r.lg → ∀ h, put.header s.ctx sc k.hdr = some h →
                    (h % 4 = 3 - phase r.lg tail → ends (exec (.rput d a b sc) s) put sc k (phase r.lg tail) d)
                      ∧ (h % 4 ≠ 3 - phase r.lg tail → waits (exec (.rput d a b sc) s) put (.rput d sc k))))
          ∧ (s.ringChecks s.ctx .store r (s.x b) = none →
              let k := s.takenSlot s.ctx r (s.x b) head
              (tail = head → exec (.rtake d a b sc) s = .next (u.setX d (-1)).retire)
                ∧ (tail ≠ head → ∀ h, take.header s.ctx sc k.hdr = some h →
                    (h % 4 = phase r.lg head → ends (exec (.rtake d a b sc) s) take sc k (h ||| 2) d)
                      ∧ (h % 4 ≠ phase r.lg head → waits (exec (.rtake d a b sc) s) take (.rtake d sc k)))))
      ∧ (∀ d' sc' k h, s.hart.run = .waiting (.rput d' sc' k) → s.header s.ctx sc' k.hdr = some h → h % 4 = 3 - phase k.lg k.idx →
          ends (exec .rputSlotFree s) s sc' k (phase k.lg k.idx) d')
      ∧ (∀ d' sc' k h, s.hart.run = .waiting (.rtake d' sc' k) → s.header s.ctx sc' k.hdr = some h → h % 4 = phase k.lg k.idx →
          ends (exec .rtakeSlotFull s) s sc' k (h ||| 2) d')

/-! ### Streams, transfers, contexts -/

/-- R337, R338, R357: SCFG binds a stream from a descriptor that passes its checks, or unbinds one; SSAVE stores the image of the slot's streams and
unbinds them; SLOAD binds those of an image. That SLOAD of a misaligned address leaves the streams bound is the choice of log entry 83. -/
def Obligations.StreamBinding : Prop :=
  ∀ (s : State) (d a b : Reg),
    let r := s.withHart Hart.resume
    let q := (s.x b).toNat
    let unbinds := fun (i : Instr) => exec i s = .next ((r.unbind s.cur q).setX d 0).retire
    (15 < q → exec (.scfg d a b) s = .next (s.trap ⟨31, s.x b⟩) ∧ exec (.scfgUnbind d a b) s = .next (s.trap ⟨31, s.x b⟩))
      ∧ (q ≤ 15 → s.undrained s.cur q = false → unbinds (.scfgUnbind d a b) ∧ (s.x a = 0 → unbinds (.scfg d a b)))
      ∧ (∀ ws, q ≤ 15 → s.x a ≠ 0 → s.undrained s.cur q = false → r.loadDwords r.ctx .hart (s.x a) 4 = .ok ws →
          let u := (r.observeDwords r.ctx .hart (s.x a) 4).unbind s.cur q
          let t := u.ofDescriptor ws
          (descriptorReserved ws ∨ t.refused u.cluster.bufs → exec (.scfg d a b) s = .next (u.trap ⟨31, word q⟩))
            ∧ (descriptorReserved ws = false → t.refused u.cluster.bufs = false →
                ∃ v, exec (.scfg d a b) s = .next v ∧ v.hart.pc = s.hart.pc + 4 ∧ v.hart.x = (s.setX d (word (t.bufsize / t.size))).hart.x
                  ∧ v.stream s.cur q = t ∧ ⟨s.cur, q, t.bufofs, t.bufsize⟩ ∈ v.cluster.bufs))
      ∧ ((s.x a).toNat % 64 ≠ 0 → exec (.ssave a) s = .next (s.trap ⟨6, s.x a⟩) ∧ exec (.sload a) s = .next (s.trap ⟨4, s.x a⟩))
      ∧ (∀ u, (s.x a).toNat % 64 = 0 → s.drained s.cur → r.storeImage r.ctx (s.x a) (r.streamImage s.cur) = (u, none) →
          exec (.ssave a) s = .next (u.unbindAll u.cur).retire)
      ∧ (∀ ws v, (s.x a).toNat % 64 = 0 → s.drained s.cur →
          let u := r.unbindAll s.cur
          u.loadDwords u.ctx .hart (s.x a) 64 = .ok ws →
          (u.observeDwords u.ctx .hart (s.x a) 64).kickController.bindRecords ws (List.range 16) = .ok v → exec (.sload a) s = .next v.retire)

/-- R340, R341, R342: VLDQ takes the fetched elements of its stream in order, zeros past the stream's end, and waits where one is missing; an element
that faulted raises its fault there, and of the elements fetched it alone is to be fetched again. VSTQ produces elements where its addresses
translate and its stream has room. Both advance the stream's index by what they took. R340, R342: the controller's own steps on a stream: it asks
for elements, and fetches one again that faulted where a VLDQ has reached it again; an element arrives; a produced element is written at its
address, after those of lower index that share a byte with it, or lost where nothing responds; and an instruction that waits for the drained
stream goes on. That a step of the controller handles one element is the model's grain (log entry 32). -/
def Obligations.Streams : Prop :=
  (∀ (s : State) (v : BitVec 6) (q : BitVec 4),
      let t := s.stream s.cur q.toNat
      let k := s.hart.total - s.hart.vstart.toNat
      let n := min k (t.n - t.c)
      let e0 := s.hart.vstart.toNat
      (∀ (vs : List (Nat × Bool)) (rest : List Fetched), s.streamChecks (.vldq v q) v q false = none →
          t.fetched = vs.map (fun x => Fetched.value x.1 x.2) ++ rest → vs.length = n →
          ∃ u, exec (.vldq v q) s = .next u ∧ u.mem = s.mem ∧ u.hart.pc = s.hart.pc + 4 ∧ u.hart.x = s.hart.x ∧ u.hart.vstart = 0
            ∧ (u.stream s.cur q.toNat).c = t.c + n ∧ (u.stream s.cur q.toNat).fetched = rest
            ∧ (∀ j x, vs[j]? = some x → u.hart.elem v.toNat t.etag (e0 + j) = x.1 % 2 ^ usedBits t.etag ∧ u.hart.poisonBit v.toNat (e0 + j) = x.2)
            ∧ (∀ j, n ≤ j → j < k → u.hart.elem v.toNat t.etag (e0 + j) = 0 ∧ u.hart.poisonBit v.toNat (e0 + j) = false)
            ∧ (∀ e, e < e0 ∨ e0 + k ≤ e → u.hart.elem v.toNat t.etag e = s.hart.elem v.toNat t.etag e))
        ∧ (s.streamChecks (.vldq v q) v q false = none → t.fetched = [] → 0 < n →
            ∃ u, exec (.vldq v q) s = .next u ∧ u.hart.run = .waiting (.vldq v q s.hart.vldqStart) ∧ u.hart.pc = s.hart.pc ∧ u.hart.v = s.hart.v)
        ∧ (∀ code a rest, s.streamChecks (.vldq v q) v q false = none → t.fetched = .faulted code a :: rest → 0 < n →
            ∃ u : State, exec (.vldq v q) s = .next (u.trap ⟨code, BitVec.ofNat 64 a⟩) ∧ u.mem = s.mem ∧ u.hart.v = s.hart.v
              ∧ u.hart.vstart = s.hart.vstart ∧ u.stream s.cur q.toNat = { t with fetched := .again false :: rest })
        ∧ (∀ b rest, s.streamChecks (.vldq v q) v q false = none → t.fetched = .again b :: rest → 0 < n →
            ∃ u, exec (.vldq v q) s = .next u ∧ u.hart.run = .waiting (.vldq v q s.hart.vldqStart) ∧ u.hart.pc = s.hart.pc ∧ u.hart.v = s.hart.v
              ∧ (u.stream s.cur q.toNat).fetched = .again true :: rest)
        ∧ (∀ tr, s.streamChecks (.vstq v q) v q true = none → 0 < n → s.translate (t.ctx s.cur) .store (t.at t.c) = .error tr →
            ∃ u : State, exec (.vstq v q) s = .next (u.trap tr) ∧ u.mem = s.mem ∧ u.hart.vstart = s.hart.vstart ∧ u.stream s.cur q.toNat = t)
        ∧ (s.streamChecks (.vstq v q) v q true = none → t.produced.length + n ≤ t.cap →
            (∀ j, j < n → ∃ x, s.translate (t.ctx s.cur) .store (t.at (t.c + j)) = .ok x) →
            ∃ u, exec (.vstq v q) s = .next u ∧ u.mem = s.mem ∧ u.hart.pc = s.hart.pc + 4 ∧ u.hart.x = s.hart.x ∧ u.hart.v = s.hart.v
              ∧ u.hart.vstart = 0 ∧ (u.stream s.cur q.toNat).c = t.c + n
              ∧ (u.stream s.cur q.toNat).produced = t.produced ++
                  (List.range n).map (fun j => ⟨t.c + j, s.hart.elem v.toNat t.etag (e0 + j), s.hart.poisonBit v.toNat (e0 + j)⟩))
        ∧ (∀ i o tr, (i, o) ∈ [(Instr.vldq v q, false), (.vstq v q, true)] → s.streamChecks i v q o = some tr →
            exec i s = .next ((s.withHart Hart.resume).trap tr)))
    ∧ (∀ (s : State) (hart : Nat) (q : BitVec 4),
        let t := s.stream hart q.toNat
        (t.bound → t.out = false → t.resume →
            let ahead := t.fetched.length + t.issued
            let k := min (s.hartAt hart).total (min (t.cap - ahead) (t.n - (t.c + ahead)))
            let again := match t.fetched with
              | .again true :: rest => s.fetchElement (t.ctx hart) (t.at t.c) t.size :: rest
              | l => l
            ∃ u, exec (.streamFetch hart q) s = .next u ∧ u.mem = s.mem
              ∧ u.stream hart q.toNat = { t with issued := t.issued + k, fetched := again, resume := false })
          ∧ (t.bound → t.out = false → t.issued ≠ 0 →
              ∃ u, exec (.streamElementArrive hart q) s = .next u ∧ u.mem = s.mem
                ∧ u.stream hart q.toNat =
                    { t with
                      issued := t.issued - 1
                      fetched := t.fetched ++ [s.fetchElement (t.ctx hart) (t.at (t.c + t.fetched.length)) t.size] })
          ∧ (∀ e k, t.bound → t.out → t.produced[s.nextWrite hart t]? = some e → k < s.nextWrite hart t →
              ∀ f, t.produced[k]? = some f → s.sharesByte hart t e f = false)
          ∧ (∀ e pa h, t.bound → t.out → t.produced[s.nextWrite hart t]? = some e → e.poison = false →
              s.target (t.ctx hart) .store (t.at e.index) t.size = .ok (.mem pa h) →
              s.blocksPoison pa = false ∨ s.poisonsSector hart { t with produced := t.produced.erase e } pa = false →
              ∃ u, exec (.streamElementWrite hart q) s = .next u ∧ (u.stream hart q.toNat).produced = t.produced.erase e
                ∧ (∀ k, k < t.size → u.latest (pa + k) = BitVec.ofNat 8 (e.bits / 256 ^ k))
                ∧ (∀ p, p < pa ∨ pa + t.size ≤ p → u.latest p = s.latest p))
          ∧ (∀ e, t.bound → t.out → t.produced[s.nextWrite hart t]? = some e →
              (∀ pa h, s.target (t.ctx hart) .store (t.at e.index) t.size ≠ .ok (.mem pa h)) →
              ∃ u, exec (.streamElementWrite hart q) s = .next u ∧ u.mem = s.mem
                ∧ u.stream hart q.toNat = { t with produced := t.produced.erase e, err := true })
          ∧ (s.undrained hart q.toNat = false →
              ∃ u, exec (.outputStreamDrained hart q) s = .next u ∧ u.mem = s.mem
                ∧ ∀ i, (s.hartAt hart).run = .waiting (.drained i) → (u.hartAt hart).run = .running))

/-- R344, R345, R347: SKICK. A block that passes its checks is queued at the cluster controller or at the edge engine with the fewest transfers, and
xd receives 0; a refused block raises code 32; a migration of 1 GiB is answered busy; a full controller queue makes it wait. Where every edge
engine is full it waits with a hint of 1 to 255, and SKICK_OFFER_RETRY offers the transfer again; beyond a sum of 512 it is answered 1. R346,
R348, R349, R353, R290, R291, R312: what an engine does with the transfer it runs. A copy moves its next piece: the destination receives the bytes
read, with their poison, and nothing else changes; an address that faults ends it with code 1. A migration finds its page, sets W of its entries
and invalidates it; once every access that used what was invalidated has been performed, it moves line by line, writes the new entries,
invalidates again, and ends, with code 2 where a moved line carried poison, the ring operations that wait at the page going on at the new one
(R263); where a line or the entries do not respond it ends with code 1. A completion writes the four dwords of the mailbox (stated of memory where
no write of another agent waits to appear) and queues the user-level entry the block asked for. That a step of an engine handles one piece or line
is the model's grain (log entries 32, 33). That a migration which ends early leaves what it has moved where it is, which invalidation it records
and waits for, and that it reads a line which an earlier one has moved where that lies, is deduced (log entry 24), as is where a ring operation
that waits goes on (log entry 23). -/
def Obligations.Transfers : Prop :=
  (∀ (s : State) (d a : Reg), s.hart.run = .running →
      let r := s.observeDwords s.ctx .hart (s.x a) 8
      let die := dieOf s.cur
      let queued := fun (res : Result) (v : State) (d : Reg) (t : Transfer) (e : Nat) =>
        ∃ u, res = .next u ∧ u.mem = v.mem ∧ u.hart.x = (s.setX d 0).hart.x ∧ u.hart.pc = s.hart.pc + 4 ∧ u.hart.run = .running
          ∧ u.edgeQueue die e = s.edgeQueue die e ++ [t] ∧ (∀ f, f ≠ e → u.edgeQueue die f = s.edgeQueue die f)
      let waits := fun (res : Result) (v : State) (d : Reg) (t : Transfer) (hints : Nat) =>
        ∃ u h, res = .next u ∧ 1 ≤ h ∧ h ≤ 255 ∧ hints + h ≤ 512 ∧ u.mem = v.mem ∧ u.hart.x = s.hart.x ∧ u.hart.pc = s.hart.pc
          ∧ u.hart.run = .waiting (.skick d t (hints + h) (s.clk + 64 * h)) ∧ ∀ e, u.edgeQueue die e = s.edgeQueue die e
      ((s.x a).toNat % 64 ≠ 0 → exec (.skick d a) s = .next (s.trap ⟨4, s.x a⟩))
        ∧ (∀ ws, (s.x a).toNat % 64 = 0 → s.loadDwords s.ctx .hart (s.x a) 8 = .ok ws →
            let t := r.ofBlock ws
            (t.refused ws → exec (.skick d a) s = .next (r.trap ⟨32, s.x a⟩))
              ∧ (t.refused ws = false → t.eng = 2 → t.len = 2 ^ 30 → exec (.skick d a) s = .next (r.setX d 1).retire)
              ∧ (t.refused ws = false → t.eng = 0 → s.cluster.queued < 8 →
                  ∃ u, exec (.skick d a) s = .next u ∧ u.mem = (r.appear (.hart s.cur)).mem ∧ u.hart = (s.setX d 0).retire.hart
                    ∧ u.cluster.copies = s.cluster.copies ++ [t])
              ∧ (t.refused ws = false → t.eng = 0 → 8 ≤ s.cluster.queued →
                  exec (.skick d a) s = .next { s with hart := { s.hart with run := .waiting (.drained (.skick d a)) } })
              ∧ (t.refused ws = false → t.eng = 1 ∨ (t.eng = 2 ∧ t.len ≠ 2 ^ 30) →
                  (∀ e, s.edgeChoice die = some e → queued (exec (.skick d a) s) (r.appear (.hart s.cur)) d t e)
                    ∧ (s.edgeChoice die = none → waits (exec (.skick d a) s) (r.appear (.hart s.cur)) d t 0)))
        ∧ (∀ (p : State) d' t hints until_, p = { s with hart := { s.hart with run := .waiting (.skick d' t hints until_) } } →
            (until_ ≤ s.clk →
              (∀ e, s.edgeChoice die = some e → queued (exec .skickOfferRetry p) s d' t e)
                ∧ (s.edgeChoice die = none → exec .skickOfferRetry p = .next (s.setX d' 1).retire ∨ waits (exec .skickOfferRetry p) s d' t hints)
                ∧ (s.edgeChoice die = none → 512 ≤ hints → exec .skickOfferRetry p = .next (s.setX d' 1).retire))
              ∧ (s.clk < until_ → exec .skickOfferRetry p = .next p)))
    ∧ (∀ (s : State) (g : EngineId) (t : Transfer) (rest : List Transfer), s.engineQueue g = t :: rest →
        let c := t.ctx (engineAgent g)
        let done := s.setEngineQueue g rest
        let running := fun (u : State) (v : Transfer) => u.engineQueue g = v :: rest
        let entries := fun (m : Migration) (u : State) =>
          ∀ q, (∀ i j, i < m.count → j < 8 → q ≠ s.forward (m.entry + 8 * i) + j) →
            u.latest q = (if m.count = 0 then s else s.appear (engineAgent g)).latest q
        (t.eng ≠ 2 → t.ended = none → 0 < t.len →
            let k := t.written % t.len
            let n := min 64 (t.len - k)
            let src := t.src + word (t.written / t.len) * t.sstride.signExtend 64 + word k
            let dst := t.dst + word (t.written / t.len) * t.dstride.signExtend 64 + word k
            let bs := (List.range n).map (fun i => (s.copyByte c (src + word i)).getD (0, false))
            let p := t.poisoned || bs.any (·.2)
            (∀ pa : Nat → Nat, (∀ i, i < n → (s.copyByte c (src + word i)).isSome ∧ ∃ h, s.target c .store (dst + word i) 1 = .ok (.mem (pa i) h)) →
                s.blockedByte c dst bs = none →
                ∃ u, exec (.copyTransfer g) s = .next u
                  ∧ running u { t with
                      written := t.written + n, poisoned := p
                      ended := if t.written + n = t.len * t.nrows then some (if p then 2 else 0) else none }
                  ∧ (∀ i b, bs[i]? = some b → (∀ j, i < j → j < n → pa j ≠ pa i) → u.latest (pa i) = b.1 ∧ (b.2 = true → u.poisoned (pa i) = true))
                  ∧ (∀ q, (∀ i, i < n → pa i ≠ q) → u.latest q = s.latest q))
              ∧ (∀ i, i < n → (∀ j, j < i → (s.copyByte c (src + word j)).isSome) → s.copyByte c (src + word i) = none →
                  ∃ u, exec (.copyTransfer g) s = .next u ∧ u.mem = s.mem ∧ running u { t with ended := some 1, faddr := src + word i })
              ∧ (∀ i, i < n → (∀ j, j < n → (s.copyByte c (src + word j)).isSome) → (∀ j, j < i → s.copyOk c (dst + word j)) →
                  s.copyOk c (dst + word i) = false →
                  ∃ u, exec (.copyTransfer g) s = .next u ∧ u.mem = s.mem ∧ running u { t with ended := some 1, faddr := dst + word i }))
          ∧ (t.eng = 2 → t.ended = none → t.page = none →
              (s.migrationPage g t = none → exec (.pageMigration g) s = .next (s.setRunning g { t with ended := some 1, faddr := t.src }))
                ∧ (∀ m, s.migrationPage g t = some m →
                    ∃ u, exec (.pageMigration g) s = .next u ∧ running u { t with page := some m }
                      ∧ u.moving = ⟨m.old, t.dst.toNat, 0, []⟩ :: s.moving
                      ∧ (∀ d, d < 8 → (u.dieAt d).tlb = ⟨some t.asid, some (bits t.src 12 36), true, s.tick⟩ :: (s.dieAt d).tlb)
                      ∧ entries m u))
          ∧ (∀ m, t.eng = 2 → t.ended = none → t.page = some m →
              let o := s.forward (m.old + t.written)
              let now := fun (a : Nat) => if m.old ≤ a ∧ a < m.old + t.len then s.forward a else a
              let slot := fun (k : RingSlot) => { k with hdr := now k.hdr, moves := k.moves.map (fun v => (now v.1, now v.2)) }
              let n := t.dst.toNat + t.written
              (s.performedFrom (List.range 8) m.inv = false → exec (.pageMigration g) s = .next s)
                ∧ (s.performedFrom (List.range 8) m.inv = true →
                    (m.closing = true →
                        ∃ u, exec (.pageMigration g) s = .next u ∧ u.mem = s.mem ∧ running u { t with ended := some (if t.poisoned then 2 else 0) }
                          ∧ u.moving = s.moving.filter (fun p => p.old ≠ m.old)
                          ∧ (∀ h d sc k, (s.hartAt h).run = .waiting (.rput d sc k) → (u.hartAt h).run = .waiting (.rput d sc (slot k)))
                          ∧ (∀ h d sc k, (s.hartAt h).run = .waiting (.rtake d sc k) → (u.hartAt h).run = .waiting (.rtake d sc (slot k))))
                      ∧ (m.closing = false → t.written < t.len → s.reaches o 64 = true → s.reaches n 64 = true → s.poisoned o = false →
                          s.poisoned (o + 32) = false →
                          ∃ u, exec (.pageMigration g) s = .next u ∧ running u { t with written := t.written + 64 }
                            ∧ (∀ k, k < 64 → u.latest (n + k) = s.latest (o + k))
                            ∧ (∀ q, q < n ∨ n + 64 ≤ q → u.latest q = s.latest q)
                            ∧ u.moving.find? (fun p => p.old = m.old)
                                = (s.moving.find? (fun p => p.old = m.old)).map (fun p => { p with bytes := t.written + 64 }))
                      ∧ (m.closing = false → t.written < t.len → s.reaches o 64 = true → s.reaches n 64 = true →
                          s.poisoned o = true ∨ s.poisoned (o + 32) = true → s.blocksPoison n = false →
                          ∃ u, exec (.pageMigration g) s = .next u ∧ running u { t with written := t.written + 64, poisoned := true }
                            ∧ (∀ k, k < 64 → u.latest (n + k) = s.latest (o + k)) ∧ (s.poisoned o = true → u.poisoned n = true)
                            ∧ (s.poisoned (o + 32) = true → u.poisoned (n + 32) = true))
                      ∧ (m.closing = false → t.written < t.len → s.reaches o 64 = false ∨ s.reaches n 64 = false →
                          exec (.pageMigration g) s = .next (s.setRunning g { t with ended := some 1, faddr := t.src + word t.written }))
                      ∧ (m.closing = false → t.len ≤ t.written → s.reaches (s.forward m.entry) (8 * m.count) = false →
                          exec (.pageMigration g) s = .next (s.setRunning g { t with ended := some 1, faddr := t.src }))
                      ∧ (m.closing = false → t.len ≤ t.written → s.reaches (s.forward m.entry) (8 * m.count) = true →
                          ∃ u, exec (.pageMigration g) s = .next u ∧ running u { t with page := some { m with inv := s.tick, closing := true } }
                            ∧ (∀ d, d < 8 → (u.dieAt d).tlb = ⟨some t.asid, some (bits t.src 12 36), true, s.tick⟩ :: (s.dieAt d).tlb)
                            ∧ entries m u)))
          ∧ (∀ code pa h, t.ended = some code → t.mbox.toNat % 32 = 0 → s.target c .store t.mbox 8 = .ok (.mem pa h) →
              ∃ u, exec (.transferComplete g) s = .next u ∧ u.engineQueue g = rest
                ∧ (s.othersAppeared (engineAgent g) →
                    (∀ i k, i < 4 → k < 8 → u.latest (pa + 8 * i + k) = BitVec.ofNat 8
                        ([2 ^ 63 + code * 2 ^ 60 + t.xid.toNat, t.written, if code = 1 then t.faddr.toNat else 0, 0].getD i 0 / 256 ^ k))
                      ∧ (∀ q, q < pa ∨ pa + 32 ≤ q → u.latest q = s.latest q))
                ∧ (t.int → s.isIssuer t t.hart →
                    ((s.coreAt (coreOf t.hart)).uqueue.length < 16 →
                        (u.coreAt (coreOf t.hart)).uqueue = (done.coreAt (coreOf t.hart)).uqueue ++ [⟨slotOf t.hart, t.xid, code, t.mbox, t.handler⟩])
                      ∧ (16 ≤ (s.coreAt (coreOf t.hart)).uqueue.length → (u.hartAt t.hart).ov = true))))

/-- R351: SWAIT reads dword 0 of a mailbox with an acquire, or asks whether a stream is drained; it answers, or waits where X(xs2) says so, and
SWAIT_WAKE looks again. -/
def Obligations.TransferWaits : Prop :=
  ∀ (s : State) (d a b : Reg),
    let r := s.withHart Hart.resume
    let u := (r.observeAt r.ctx .device (s.x a) 8).acquire (.hart s.cur) .device
    let mail := fun (i : Instr) => ∀ w, bitSet (s.x b) 1 = false → (s.x a).toNat % 32 = 0 → r.load r.ctx .device (s.x a) 8 = .ok w →
      (w.testBit 63 → exec i s = .next (u.setX d (word w)).retire)
        ∧ (w.testBit 63 = false → bitSet (s.x b) 0 = false → exec i s = .next (u.setX d 0).retire)
        ∧ (w.testBit 63 = false → bitSet (s.x b) 0 → exec i s = .next { u with hart := { u.hart with run := .waiting (.swait d a b) } })
    let q := bits (s.x a) 0 4
    let t := s.stream s.cur q
    let strm := fun (i : Instr) => bitSet (s.x b) 1 →
      (t.bound = false → exec i s = .next (r.trap ⟨31, word q⟩))
        ∧ (t.bound → s.undrained s.cur q = false →
            exec i s = .next ((if t.out then (r.release (.ctl (clusterOf s.cur)) .cluster).acquire (.hart s.cur) .cluster else r).setX d
              (if t.err then 2 else 1)).retire)
        ∧ (t.bound → s.undrained s.cur q → bitSet (s.x b) 0 = false → exec i s = .next (r.setX d 0).retire)
        ∧ (t.bound → s.undrained s.cur q → bitSet (s.x b) 0 →
            exec i s = .next { s with hart := { s.hart with run := .waiting (.swait d a b) } })
    mail (.swaitMailbox d a b) ∧ strm (.swaitMailbox d a b) ∧ strm (.swaitStream d a b)
      ∧ (bitSet (s.x b) 1 = false → (s.x a).toNat % 32 ≠ 0 → exec (.swaitMailbox d a b) s = .next (r.trap ⟨4, s.x a⟩))
      ∧ (s.hart.run = .waiting (.swait d a b) → mail .swaitWake ∧ strm .swaitWake)

/-- R354, R355: entry of a user-level interrupt saves pc, x5, x6 and x13, hands over uxid and the mailbox, and masks further ones; UIRET restores
them; outside a handler UIRET raises code 32. R368: entry of an asynchronous interrupt, of the highest code that is pending and enabled, where the
level lets it and the hart is at a stop point: at S, with the resume point saved, at the vector; code 1 clears its pending bit. -/
def Obligations.Interrupts : Prop :=
  (∀ s : State,
      (∀ e, s.userDue = some e → s.hart.ahead = none →
          ∃ t, exec .userInterruptEntry s = .next t ∧ t.mem = s.mem ∧ t.core.uqueue = s.core.uqueue.erase e
            ∧ t.hart.ushadow0 = s.hart.pc ∧ t.hart.ushadow1 = s.x 5 ∧ t.hart.ushadow2 = s.x 6 ∧ t.hart.ushadow3 = s.x 13
            ∧ t.x 5 = e.uxid s.hart.ov ∧ t.x 6 = e.mbox ∧ (∀ r, r ≠ 5 → r ≠ 6 → t.x r = s.x r) ∧ t.hart.uxid = e.uxid s.hart.ov
            ∧ t.hart.ov = false ∧ bitSet t.hart.uhandler 1 ∧ t.hart.level = s.hart.level ∧ t.hart.run = .running
            ∧ t.hart.pc = (if e.handler ≠ 0 then e.handler else s.hart.uhandler) &&& 0xFFFFFFFFFFFFFFFC)
        ∧ (bitSet s.hart.uhandler 1 → s.hart.ushadow0.extractLsb' 0 2 = 0 →
            ∃ t, exec .uiret s = .next t ∧ t.mem = s.mem ∧ t.hart.pc = s.hart.ushadow0 ∧ t.x 5 = s.hart.ushadow1 ∧ t.x 6 = s.hart.ushadow2
              ∧ t.x 13 = s.hart.ushadow3 ∧ (∀ r, r ≠ 5 → r ≠ 6 → r ≠ 13 → t.x r = s.x r) ∧ bitSet t.hart.uhandler 1 = false
              ∧ t.hart.level = s.hart.level)
        ∧ (bitSet s.hart.uhandler 1 = false → exec .uiret s = .next (s.trap ⟨32, 0⟩)))
    ∧ (∀ (s : State) (c : Nat), s.asyncDue = some c → s.hart.run.stopPoint → s.hart.ahead = none →
        let b := s.hart.trapS.tvec &&& 0xFFFFFFFFFFFFFFFC
        ∃ t, exec .asyncInterruptEntry s = .next t ∧ t.mem = s.mem ∧ t.hart.x = s.hart.x ∧ t.hart.level = .s ∧ t.hart.run = .running
          ∧ t.hart.trapS.epc = s.hart.pc ∧ t.hart.trapS.cause = BitVec.ofNat 64 (2 ^ 63 + c) ∧ t.hart.trapS.tval = 0 ∧ t.hart.trapM = s.hart.trapM
          ∧ t.hart.trapS.status.getLsbD 1 = s.hart.trapS.status.getLsbD 0 ∧ t.hart.trapS.status.getLsbD 0 = false
          ∧ t.hart.pc = (if s.hart.trapS.tvec.extractLsb' 0 2 = 1 then b + BitVec.ofNat 64 (4 * c) else b)
          ∧ (c = 1 → bitSet (t.hirq s.cur) 0 = false))

/-- R372, R373: an undefined word at U with emulation enabled enters the emulator, saving pc and word; within it, it raises code 34; elsewhere code 2.
EMRET resumes where the emulator was entered from, or raises code 2. R373, R378, R379, R380, R383: CTXSAVE stores the image and leaves the slot
without tag, lanes, channels and streams, whose strip buffers read zero (stated of memory where no write of another agent waits to appear); with
an output stream undrained it waits. CTXLOAD, its image's checks passed, restores the saved registers, leaves status_s for a return to U and gets
channels as MATTACH does; an image that fails them raises code 37. At U both raise code 2; a misaligned address raises code 6 or 4. That a hart of
no crew has work tag 0 in its image is the choice of log entry 25; that vgrant is restored with l and p as saved, and what the check of an image
refuses, are deduced (log entry 37). -/
def Obligations.EmulationAndContexts : Prop :=
  (∀ (s : State) (w : Word32), s.hart.ahead = none →
      let on := s.hart.level = .u ∧ s.hart.ebase.getLsbD 0 = true
      (on → s.hart.emu = false →
          exec (.undefinedWord w) s = .next { s with hart := { s.hart with
            trapS := { s.hart.trapS with status := s.hart.trapS.status ||| 16 }, eshadow := s.hart.pc, eword := w.setWidth 64
            pc := s.hart.ebase &&& 0xFFFFFFFFFFFFFFFC } })
        ∧ (on → s.hart.emu → exec (.undefinedWord w) s = .next (s.trap ⟨34, w.setWidth 64⟩))
        ∧ (¬on → exec (.undefinedWord w) s = .next (s.trap ⟨2, w.setWidth 64⟩))
        ∧ (s.hart.emu → ∃ t, exec .emret s = .next t ∧ t.hart.pc = s.hart.eshadow ∧ t.hart.emu = false ∧ t.hart.x = s.hart.x
            ∧ t.hart.level = s.hart.level ∧ t.mem = s.mem)
        ∧ (s.hart.emu = false → ∃ w', encode .emret = some w' ∧ exec .emret s = .next (s.trap ⟨2, w'.setWidth 64⟩)))
    ∧ (∀ (s : State) (d a b : Reg), s.hart.run = .running →
        (s.hart.level = .u → ∀ i ∈ [Instr.ctxsave d a b, .ctxload a], ∃ w, encode i = some w ∧ exec i s = .next (s.trap ⟨2, w.setWidth 64⟩))
          ∧ (s.hart.level ≠ .u → (s.x a).toNat % 256 ≠ 0 →
              exec (.ctxsave d a b) s = .next (s.trap ⟨6, s.x a⟩) ∧ exec (.ctxload a) s = .next (s.trap ⟨4, s.x a⟩))
          ∧ (s.hart.level ≠ .u → (s.x a).toNat % 256 = 0 → s.drained s.cur = false →
              exec (.ctxsave d a b) s = .next { s with hart := { s.hart with run := .waiting (.ctxsave d a b s.cycle) } })
          ∧ (∀ u, s.hart.level ≠ .u → (s.x a).toNat % 256 = 0 → s.drained s.cur → s.storeImage s.ctx (s.x a) s.contextImage = (u, none) →
              let upTo := fun (i : Nat) => (s.storeImage s.ctx (s.x a) (s.contextImage.take i)).1
              ∃ t, exec (.ctxsave d a b) s = .next t ∧ t.hart.tag = none ∧ t.hart.held = 0 ∧ t.hart.ill = true ∧ bits t.hart.mgrant 0 7 = 0
                ∧ t.hart.pc = u.hart.pc + 4 ∧ t.hart.level = u.hart.level ∧ (∀ r, r ≠ d → t.x r = u.x r)
                ∧ (∀ q, q < 16 → (t.stream u.cur q).bound = false)
                ∧ ∀ pa : Nat → Nat, s.hart.ahead = none → s.othersAppeared (.hart s.cur) →
                    (∀ i, i < 10368 → ∃ h, (upTo i).target s.ctx .store (s.x a + word (8 * i)) 8 = .ok (.mem (pa i) h)) →
                    (∀ i j, i < j → j < 10368 → pa i + 8 ≤ pa j ∨ pa j + 8 ≤ pa i) →
                    let strip := fun (q p : Nat) => (s.stream s.cur q).bound = true
                      ∧ squareAt (clusterOf s.cur) (s.stream s.cur q).bufofs ≤ p
                      ∧ p < squareAt (clusterOf s.cur) (s.stream s.cur q).bufofs + (s.stream s.cur q).bufsize
                    (∀ i k, i < 10368 → k < 8 → (∀ q, q < 16 → ¬strip q (pa i + k)) →
                        t.latest (pa i + k) = BitVec.ofNat 8 (s.contextImage.getD i 0 / 256 ^ k))
                      ∧ (∀ q p, q < 16 → strip q p → t.latest p = 0)
                      ∧ (∀ p, (∀ q, q < 16 → ¬strip q p) → (∀ i, i < 10368 → p < pa i ∨ pa i + 8 ≤ p) → t.latest p = s.latest p))
          ∧ (∀ ws, s.hart.level ≠ .u → (s.x a).toNat % 256 = 0 → s.loadDwords s.ctx .hart (s.x a) 10368 = .ok ws →
              imageClean ws = false ∨ grantFits ws (min (laneCount (s.lanesFor s.cur)) s.laneLimit) = false ∨ s.tagCrew (imageDword ws 464) = none →
              exec (.ctxload a) s = .next (s.trap ⟨37, s.x a⟩))
          ∧ (∀ ws cr v, s.hart.level ≠ .u → (s.x a).toNat % 256 = 0 → s.loadDwords s.ctx .hart (s.x a) 10368 = .ok ws → imageClean ws →
              grantFits ws (min (laneCount (s.lanesFor s.cur)) s.laneLimit) → s.tagCrew (imageDword ws 464) = some cr → s.drained s.cur →
              let u := (s.observeDwords s.ctx .hart (s.x a) 10368).unbindAll s.cur
              let g := fun (o : Nat) => word (imageDword ws o)
              let n := if (imageDword ws 288).testBit 63 then 0 else vtypeCount (imageDword ws 288)
              let maxvl := imageDword ws 320 / 2 ^ 18 % 2 ^ 14
              let req := min (imageDword ws 352) 64
              let q := rowLimitOf s.core.pwrcap (slotOf s.cur)
              let free := (s.releaseChannels s.cur).cluster
              let other := Tab.get 0 free.chan (chanKey (if slotOf s.cur = 0 then s.cur + 1 else s.cur - 1))
              let rowsGot := min (min req (64 - other)) (min q (128 - free.channelsHeld))
              let part := fun (o k width i : Nat) => imageSpan ws o k / 2 ^ (i * width) % 2 ^ width
              (u.withHart (fun h => { h with level := .u })).kickController.bindRecords (ws.drop 128) (List.range 16) = .ok v →
              ∃ t, exec (.ctxload a) s = .next t ∧ t.hart.pc = s.hart.pc + 4 ∧ t.hart.level = s.hart.level ∧ t.mem = v.mem
                ∧ (∀ r : Reg, r ≠ 0 → t.x r = word (imageDword ws (16 + 8 * (r.toNat - 1))))
                ∧ t.hart.fflags = g 264 &&& 0x1F ∧ t.hart.frm = word (imageDword ws 272) &&& 7 ∧ t.hart.iflags = g 280 &&& 0x303
                ∧ t.hart.vtype = g 288 &&& 0x80003F0FFF0700F0 ∧ t.hart.ncols = imageDword ws 296 % 2 ^ 14 ∧ t.hart.nrows = imageDword ws 304 % 2 ^ 7
                ∧ t.hart.start = imageDword ws 312 % 2 ^ 14 ∧ t.hart.vgrant = g 320 &&& 0x3FFFFFFC0FFF ∧ t.hart.vxflags = g 328 &&& 7
                ∧ t.hart.vxtrap = g 336 &&& 3 ∧ t.hart.vpoison = g 344 &&& 0x807F3FFF00003FFF ∧ t.hart.adbase = g 360 ∧ t.hart.amiss = g 368
                ∧ t.hart.uxid = g 376 &&& 0xF0000000FFFFFFFF ∧ t.hart.uhandler = g 384 ∧ t.hart.ushadow0 = g 392 ∧ t.hart.ushadow1 = g 400
                ∧ t.hart.ushadow2 = g 408 ∧ t.hart.ushadow3 = g 416 ∧ t.hart.eshadow = g 424 &&& 0xFFFFFFFFFFFFFFFC ∧ t.hart.eword = g 432 &&& 0xFFFFFFFF
                ∧ t.hart.mseq = g 440 &&& 0x8000000000000003 ∧ t.hart.recvto = g 448 &&& 0xFFFFFFFF ∧ t.hart.trapS.epc = g 8 &&& 0xFFFFFFFFFFFFFFFC
                ∧ t.hart.trapS.status.extractLsb' 2 2 = 0 ∧ t.hart.trapS.status.getLsbD 1 = true
                ∧ bits t.hart.mgrant 16 7 = req ∧ bits t.hart.mgrant 8 7 = q ∧ bits t.hart.mgrant 0 7 = rowsGot
                ∧ Tab.get 0 t.cluster.chan (chanKey s.cur) = rowsGot
                ∧ t.hart.emu = (imageDword ws 456).testBit 0 ∧ ((imageDword ws 456).testBit 1 → t.hart.ov = true)
                ∧ t.hart.held = s.lanesFor s.cur
                ∧ (∀ i, Tab.get 0 t.hart.v i = if i < n then part 17408 8192 (maxvl * vtypeWidth (imageDword ws 288)) i else 0)
                ∧ (∀ i, Tab.get 0 t.hart.vtag i = if i < n then part 1536 8 8 i else 0)
                ∧ (∀ i, Tab.get 0 t.hart.vpois i = if i < n then part 9216 1024 maxvl i else 0)
                ∧ (∀ j, j < 7 → Tab.get 0 t.hart.m (j + 1) = imageSpan ws (2048 + 1024 * j) 128)
                ∧ t.hart.tag = cr.map (fun c => (c.number, imageDword ws 464 % 2 ^ 32))))

/-! ### The device -/

/-- R367, R385, R397, R281, R412, R424, R425, R422: what a write of an MMIO register does, as an event or a register write: hirq, elogctl, the cycle
record, hbmctl, msigen, doorbells, the registers of C-die 0; a read of diestate clears the reader's notice. What requests the launcher's reads
make is the choice of log entry 44. -/
def Obligations.DeviceRegisters : Prop :=
  ∀ (s : State) (n : Nat) (v : Word),
    let m : Word := 0x1500000001
    (isHart n → s.admitted (dieOf n) →
        ∃ t, exec (.hirqWrite n v) s = .next t ∧ t.hart = s.hart ∧ t.mem = s.mem ∧ t.hirq n = (s.hirq n &&& ~~~m) ||| (v &&& m))
      ∧ (s.admitted n →
          (∃ t, exec (.elogctlWrite n v) s = .next t ∧ t.hart = s.hart ∧ t.mem = s.mem
              ∧ t.dieAt n = { s.dieAt n with head := bits v 0 6, lost := bits v 32 8 })
            ∧ (∃ t, exec (.cycleRecordFree n) s = .next t ∧ t.hart = s.hart ∧ t.mem = s.mem
              ∧ ∀ k, Tab.get 0 (t.dieAt n).cycleRecord k = if k = 0 then 0 else Tab.get 0 (s.dieAt n).cycleRecord k)
            ∧ (n < 8 → ∃ t, exec (.hbmctlWrite n v) s = .next t ∧ t.hart = s.hart ∧ t.mem = s.mem
              ∧ t.dieAt n = { s.dieAt n with hbmctl := v &&& 3 }))
      ∧ (∃ t, exec .diestateRead s = .next t ∧ t.hart = s.hart ∧ t.mem = s.mem ∧ bitSet (t.hirq s.cur) 2 = false)
      ∧ (s.admitted 0 →
          (let e := Tab.get MsixEntry.reset s.msix (bits v 0 6)
           let named := bits s.regs.msictl 24 1
           let port := if s.portUp named then named else 1 - named
           exec (.msigenWrite v) s = .next
             (if e.masked || !s.portUp port then { s with msix := Tab.put MsixEntry.reset s.msix (bits v 0 6) { e with pending := true } }
              else { s with hostOut := s.hostOut ++ [.msix port (bits v 0 6) e.address e.data] }))
            ∧ (n < 8192 →
                let u := (s.syncQueue n).queueRequests n
                let w := Tab.get WorkQueue.reset u.queues n
                let t : BitVec 32 := BitVec.ofNat 32 v.toNat
                (u.queueOn n = false → exec (.doorbellWrite n v) s = .next u)
                  ∧ ∀ lg, u.queueOn n → u.ringField n 8 1 = some lg → lg < 32 →
                      ((t - w.head).toNat ≤ 2 ^ lg → (w.target - w.head).toNat < (t - w.head).toNat →
                          exec (.doorbellWrite n v) s =
                            .next { u with queues := Tab.put WorkQueue.reset u.queues n { w with target := t, bells := w.bells ++ [(t, s.clk)] } })
                        ∧ ((t - w.head).toNat ≤ 2 ^ lg → (t - w.head).toNat ≤ (w.target - w.head).toNat → exec (.doorbellWrite n v) s = .next u)
                        ∧ (2 ^ lg < (t - w.head).toNat → (w.head - t).toNat ≤ 2 ^ lg → exec (.doorbellWrite n v) s = .next u)
                        ∧ (2 ^ lg < (t - w.head).toNat → 2 ^ lg < (w.head - t).toNat →
                            exec (.doorbellWrite n v) s = .next (u.queueError n t.toNat)))
            ∧ (∃ t, exec (.mmioRegisterWrite 0 0x08000010 v) s = .next t ∧ t.mmioRead 0 0x08000010 = some v ∧ t.hart = s.hart ∧ t.mem = s.mem)
            ∧ (∃ t, exec (.mmioRegisterWrite 0 0x08000000 v) s = .next t ∧ t.mmioRead 0 0x08000000 = some (v &&& 0xFFFFFFFFFF001)
                ∧ t.hart = s.hart ∧ t.mem = s.mem))
      ∧ (∀ off, off % 8 = 0 → (s.mmioRead n off).isSome → exec (.mmioRegisterWrite n off v) s = .next (s.writeReg n off v))
      ∧ (∀ off, s.mmioRead n off = none → exec (.mmioRegisterWrite n off v) s = .next s)

/-- R281, R386, R417, R439: the handshake of a lending pair, state by state, and what a request to its channels does. No drain starts before 4,096
idle clk with requests to the neighbour, nor for a pair that began to watch after a deadline-bearing save to the stack was issued (one that
watched by then is erratum A1-E02's choice), and no reclaim during such a save. That a pair already watching watches anew is log entry 36; that a
request in DRAIN, RETRAIN or RECLAIM waits within its step is log entry 44. -/
def Obligations.ChannelLending : Prop :=
  ∀ (s : State) (d p : Nat) (ch : Bool),
    let o := s.pair d p
    let becomes := fun (i : Instr) (v : LendPair) => ∃ t, exec i s = .next t ∧ t.hart = s.hart ∧ t.mem = s.mem ∧ t.pair d p = v
    let stack := 2 * d + p / 16
    let busy := s.saveOn stack
    let apart := (s.dieAt d).noPair.toNat.testBit p
    (s.lendOn d p → o.st = .own ∨ o.st = .watch → becomes (.lendWatch d p ch) ⟨.watch, ch, s.clk, false⟩)
      ∧ (s.lendOn d p → o.st = .watch → o.since + 4096 ≤ s.clk → o.queued → busy = false ∨ s.drainAllowed stack o.since →
          becomes (.lendDrainStart d p) { o with st := .drain, since := s.clk })
      ∧ (s.clk < o.since + 4096 ∨ o.queued = false ∨ (∃ c ∈ s.savesOn stack, c < o.since) → exec (.lendDrainStart d p) s = .next s)
      ∧ (o.st = .drain → becomes (.lendDrainDone d p) { o with st := .retrain })
      ∧ (o.st = .retrain → becomes (.lendRetrainDone d p) (if apart then ⟨.own, false, 0, false⟩ else { o with st := .lent, since := s.clk }))
      ∧ (o.st = .lent → o.since + 4096 ≤ s.clk ∨ s.lendOn d p = false → busy = false →
          becomes (.lendReclaimStart d p) { o with st := .reclaim, since := s.clk })
      ∧ (busy → exec (.lendReclaimStart d p) s = .next s)
      ∧ (o.st = .reclaim → becomes (.lendReclaimDone d p) { o with st := .own, since := s.clk })
      ∧ (∀ (r a : Reg) (imm : BitVec 15) (pa : Nat) (h : Bool), s.target s.ctx .load (s.ea a imm) 1 = .ok (.mem pa h) → s.poisoned pa = false →
          pa < Config.hbmBytes → d = hbmStack pa / 2 → p = hbmPair pa →
          ∃ t, exec (.lb r a imm) s = .next t ∧ t.mem = s.mem
            ∧ (o.st = .own → t.pair d p = o)
            ∧ (o.st = .watch → t.pair d p = if decide (hbmChannel pa % 2 = 1) = o.idle then ⟨.own, false, 0, false⟩ else { o with queued := true })
            ∧ (o.st = .drain ∨ o.st = .retrain → t.pair d p = if apart then ⟨.own, false, 0, false⟩ else ⟨.lent, o.idle, s.clk, false⟩)
            ∧ (o.st = .lent → t.pair d p = { o with since := s.clk })
            ∧ (o.st = .reclaim → t.pair d p = ⟨.own, false, 0, false⟩))

/-- R436, R416, R248, R387, R388, R393, R394, R385: the power manager's sample and its step down on a die in service, the onset of a throttle, errors
of the ports, the spare lane, and the detector of wait cycles. That a running holder of the lane is paused, and one that waits or is halted keeps
its run state, is log entry 65. That a running holder of a lane is paused while it is copied, and one that waits or is halted keeps its run state,
is deduced (log entry 65), as is that a sample at which no core can go further makes no step (log entry 86). -/
def Obligations.DeviceHealth : Prop :=
  ∀ (s : State) (n k : Nat),
    (s.clk < s.power.lastSample + 1024 → exec .powerSample s = .next s)
      ∧ (s.power.lastSample + 1024 ≤ s.clk → ∃ t, exec .powerSample s = .next t ∧ t.mem = s.mem ∧ t.power.lastSample = s.clk
          ∧ (let hot := Config.hottestDie s.tick % 8
             let tooMuch := (s.power.throttle = false ∧ 8000 < Config.coreAmps s.tick) ∨ 4500 < Config.packageWatts s.tick
             let above := fun (c : Nat) => 1 < bits (s.coreAt c).pwrcap 27 4 ∨ 8 < bits (s.coreAt c).pwrcap 31 7
             tooMuch → (∀ c, s.power.lastStep = some c → c + 4096 ≤ s.clk) →
              ((∀ c, c ∈ coresOf hot → s.admitted hot → ¬above c) → t.power.lastStep = s.power.lastStep ∧ t.cores = s.cores)
                ∧ ((∃ c, c ∈ coresOf hot ∧ s.admitted hot ∧ above c) → t.power.lastStep = some s.clk
                ∧ ∀ c, if c ∈ coresOf hot ∧ s.admitted hot then
                    bits (t.coreAt c).pwrcap 27 4 = max 1 (bits (s.coreAt c).pwrcap 27 4 - 1)
                      ∧ bits (t.coreAt c).pwrcap 31 7 = max 8 (bits (s.coreAt c).pwrcap 31 7 - 8)
                  else t.coreAt c = s.coreAt c)))
      ∧ (isHart n → ∃ t, exec (.grantThrottleOnset n) s = .next t ∧ t.mem = s.mem
          ∧ (t.hartAt n).throttledV = ((s.hartAt n).throttledV || (s.hartAt n).loweredGl.any (fun c => c + 16384 < s.clk))
          ∧ (t.hartAt n).throttledM = ((s.hartAt n).throttledM || (s.hartAt n).loweredGq.any (fun c => c + 16384 < s.clk)))
      ∧ (s.admitted n → portSite n k → ∃ t, exec (.portFlitRetried n k) s = .next t ∧ t.hart = s.hart ∧ t.mem = s.mem
          ∧ Tab.get [] (t.dieAt n).sites (siteKey .port k) =
              (s.clk :: Tab.get [] (s.dieAt n).sites (siteKey .port k)).take 3
          ∧ ((t.dieAt n).lasting.contains (siteKey .port k) =
              ((s.dieAt n).lasting.contains (siteKey .port k) || s.becomesLasting n (siteKey .port k))))
      ∧ ((s.dieAt (dieOfCore n)).lasting.contains (laneKey n k) → k ≤ 8 → (s.coreAt n).sparing = none →
          ∃ t, exec (.laneSpare n k) s = .next t ∧ t.mem = s.mem
            ∧ ((s.coreAt n).spareUsed = false → k = 8 ∨ s.laneHolder n k = none → (t.coreAt n).spareUsed = true ∧ (t.coreAt n).slane = k)
            ∧ (∀ h, (s.coreAt n).spareUsed = false → k < 8 → s.laneHolder n k = some h → (s.hartAt h).run.stopPoint = false → t = s)
            ∧ (∀ h, (s.coreAt n).spareUsed = false → k < 8 → s.laneHolder n k = some h → (s.hartAt h).run.stopPoint →
                (t.coreAt n).sparing = some k ∧ (t.hartAt h).run = if (s.hartAt h).run = .running then .paused else (s.hartAt h).run)
            ∧ ((s.coreAt n).spareUsed = true → k < 8 → (t.coreAt n).laneRetired.getLsbD k = true))
      ∧ (∀ j, (s.dieAt (dieOfCore n)).lasting.contains (laneKey n k) → k < 8 → (s.coreAt n).sparing = some j → j ≠ k →
          ∃ t, exec (.laneSpare n k) s = .next t ∧ t.mem = s.mem ∧ (t.coreAt n).laneRetired.getLsbD k = true)
      ∧ (∀ h, (s.coreAt n).sparing = some k → s.laneHolder n k = some h →
          ∃ t, exec (.laneSpareComplete n) s = .next t ∧ t.mem = s.mem ∧ (t.coreAt n).sparing = none ∧ (t.coreAt n).slane = k
            ∧ (t.coreAt n).spareUsed = true ∧ (t.hartAt h).run ≠ .paused ∧ bitSet (t.hartAt h).vtype 18)
      ∧ (∀ cs, n < 8 → s.admitted n → (s.dieAt n).detectAt + 4096 ≤ s.clk → bits (Tab.get 0 (s.dieAt n).cycleRecord 0) 0 8 = 0 →
          s.waitCycle n = some cs →
          let h := s.waitingSlot (cs.getD 0 0)
          ∃ t, exec (.waitCycleDetect n) s = .next t ∧ t.mem = s.mem ∧ Tab.get 0 (t.dieAt n).cycleRecord 0 = word cs.length
            ∧ t.hartAt h = (s.hartAt h).resume.trap ⟨36, word (0x0F1003000000 + n * 2 ^ 32)⟩)

/-- R407 to R413, R415 to R417: bring-up of a die step by step, its link keys, their rollover and retirement, flits good and bad, and the diectl
commands: a die that leaves service is in state 7, its links cut, and what it held reads zero; one whose bring-up cannot go on is held in reset.
Which dies a link joins, and that a link's errors count on its die of lower index, are choices (log entry 43), as is that a die's SRAM reads zero
once it has left service (log entry 41); the number of a hart's stay in its slot is the model's own (log entry 34). That a held die boots by
diectl command 1, and that the far die is held where a signature fails on a link of a die in service, is deduced (log entry 36); what a rollover
counts, by direction, is deduced (log entry 64). -/
def Obligations.DiesAndLinks : Prop :=
  ∀ (s : State) (d k secret half noPair : Nat) (kb : Bool) (msg : SpdmMessage),
    let st := (s.dieAt d).st
    let l := s.link d k
    let e := linkPeer d k
    let a := (Config.dieIdentifier (min d e)).toNat
    let b := (Config.dieIdentifier (max d e)).toNat
    let fresh := fun (n : Nat) (up : Bool) => (⟨n, Config.linkKey secret a b n up, Config.linkSalt secret a b n up % 2 ^ 32, 0, .none, false⟩ : LinkWay)
    let rx := l.way e d
    let tx := l.way d e
    let stays := fun (i : Instr) (p : State → Prop) => ∃ t, exec i s = .next t ∧ t.hart = s.hart ∧ t.mem = s.mem ∧ p t
    let takes := fun (w : LinkWay) => exec (.flitReceive d k kb true) s = .next (s.setLink d k (l.modWay e d (fun _ => w)))
    let current := kb = decide (rx.n % 2 = 1)
    (s.powered = false → s.held = false → stays (.powerGood true) (fun t => t.powered = true
        ∧ ∀ e, e < 12 → (t.dieAt e).st = if Config.noPower e then (s.dieAt e).st else 1))
      ∧ (s.powered = false → s.held = false → exec (.powerGood false) s = .next { s with held := true })
      ∧ (s.powered = false → s.held = true → exec (.powerGood true) s = .next s)
      ∧ (d < 12 → 1 ≤ st → st ≠ 7 → stays (.spdmRequest d msg) (fun t =>
          (t.dieAt d).st = (if st = 1 ∧ spdmKnown msg then 2 else st) ∧ t.hostOut.getLast? = some (.spdm d (spdmKnown msg))
            ∧ (msg = .negotiateAlgorithms → (t.dieAt d).algs = some (.slhDsaShake256s, .shake256))))
      ∧ (∀ c1 c2 c3, d < 12 → st = 2 → stays (.dieAdmissionCheck d c1 c2 c3) (fun t => (t.dieAt d).st = if c1 && c2 && c3 then 3 else 6))
      ∧ (d < 12 → e ≠ d → s.keysReady d → s.keysReady e → l.keyed = false →
          let v : Link := ⟨true, false, false, secret, fresh 0 true, fresh 0 false, 0⟩
          stays (.linkKeyEstablish d k secret true) (fun t =>
              t.link d k = v ∧ (∀ m, Config.linkEnd d k = some (e, m) → t.link e m = v)
                ∧ (t.dieAt d).st = if st = 3 ∧ (s.setLink d k v).allKeyed d then 4 else st)
            ∧ stays (.linkKeyEstablish d k secret false) (fun t => (t.dieAt (if st = 5 then e else d)).st = 0))
      ∧ (d < 12 → st = 4 →
          ∃ t, exec (.dieTrainingComplete d ⟨true, half, noPair⟩) s = .next t ∧ t.mem = s.mem ∧ t.admitted d = true
              ∧ (t.dieAt d).noPair = BitVec.ofNat 32 noPair
              ∧ (∀ m, m < 8 → (s.link d m).keyed → (s.link d m).up = false → s.admitted (linkPeer d m) →
                  (t.link d m).up = true ∧ (t.link d m).half = half.testBit m)
              ∧ (∀ h ∈ hartsOfDie d, d < 8 → (s.hartAt h).run ≠ .empty → t.hartAt h =
                  { Hart.reset (h % 2) with cycleBase := word s.clk, stay := newStay h s.tick }))
      ∧ (d < 12 → 1 ≤ st → st ≤ 4 → stays (.dieTrainingComplete d ⟨false, half, noPair⟩) (fun t => (t.dieAt d).st = 0))
      ∧ (d < 12 → 1 ≤ st → st ≤ 3 → exec (.dieTrainingComplete d ⟨true, half, noPair⟩) s = .next s)
      ∧ (k < 8 → s.admitted d → l.up →
          (rx.open_ →
            (rx.old = .none → current → takes { rx with flits := rx.flits + 1, due := rx.due || 2 ^ 32 ≤ rx.flits + 1 })
              ∧ (rx.old = .kept → ¬current → takes { rx with flits := rx.flits + 1 })
              ∧ (∀ m, rx.old = .left m → current → takes
                  { rx with flits := rx.flits + 1, old := .left (m - 1), due := rx.due || 2 ^ 32 ≤ rx.flits + 1 })
              ∧ (∀ m, rx.old = .left m → m ≠ 0 → ¬current → takes { rx with old := .left (m - 1), due := rx.due || 2 ^ 32 ≤ rx.flits })
              ∧ (∀ ok, ok = false ∨ (¬current ∧ (rx.old = .none ∨ rx.old = .left 0)) →
                  let low := linkId d k / 8
                  let key := siteKey .link (linkId d k % 8)
                  (s.becomesLasting low key = false → exec (.flitReceive d k kb ok) s = .next (s.siteError low key))
                    ∧ (s.becomesLasting low key → s.admitted (max d e) →
                        ∃ t, exec (.flitReceive d k kb ok) s = .next t ∧ (t.dieAt (max d e)).st = 7)))
            ∧ (rx.old = .kept → current → takes { rx with flits := 1, old := .left 256 })
            ∧ (tx.due → tx.old = .none → l.secret = secret →
                exec (.linkKeyRollover d k) s = .next (s.setLink d k
                  (l.modWay d e (fun _ => { fresh (tx.n + 1) (d < e) with flits := tx.flits, old := .kept })))))
      ∧ (rx.old = .left 0 → exec (.linkOldKeyRetire d k) s =
          .next (s.setLink d k { l.modWay e d (fun w => { w with old := .none }) with rolls := l.rolls + 1 }))
      ∧ (d ≠ 0 → d ≠ 8 → d < 12 → st = 5 → ∃ t, exec (.diectlResetDie d) s = .next t ∧ (t.dieAt d).st = 7
          ∧ (∀ m, m < 8 → t.link d m = Link.down) ∧ ∀ pa, dieHolding pa = some d → t.latest pa = 0)
      ∧ (d ≠ 0 → d ≠ 8 → d < 12 → st = 0 → s.powered → s.held = false → Config.noPower d = false → ∃ t, exec (.diectlResetDie d) s = .next t ∧ (t.dieAt d).st = 1)
      ∧ (d < 12 → k < 8 → s.admitted d → l.up → stays (.diectlRollKeys d) (fun t =>
          t.link d k = { l with lo := { l.lo with due := true }, hi := { l.hi with due := true } }))

/-- R326, R400, R419, R420, R424, R428: what the host and the pod do: reads and writes of HBM through the BARs, doorbells, sessions and keys, and
accesses from another package. Poison goes out where poisonctl lets the port forward it and is an abort where it does not; a poisoned access over
UALink is answered with an abort and a poisoned host write leaves its sectors poisoned, or, at a register window, nothing (log entry 36); a TLP
that fails its integrity check is dropped and its stream fails (log entry 63). That a poisoned access over UALink is answered with an abort, and
what a poisoned host write does, are deduced (log entry 36); what drops and fails an unprotected access is log entry 63. -/
def Obligations.OutsideAccesses : Prop :=
  ∀ (s : State) (p k st off key bar : Nat) (size : Width) (v : Word) (ok : Bool),
    let n := size.bits / 8
    let pa := s.forward off
    let here := off < Config.hbmBytes ∧ s.responds pa = true ∧ off % n = 0
    let stored := fun (t : State) (v : Nat) => (∀ i, i < n → t.latest (pa + i) = BitVec.ofNat 8 (v / 256 ^ i))
      ∧ (∀ q, q < pa ∨ pa + n ≤ q → t.latest q = s.latest q)
    (s.hostArrives p st →
        (here →
          (s.poisoned pa = false → ∃ t, exec (.hostBarRead ⟨⟨p, st⟩, true⟩ 4 off size) s = .next t ∧ t.hart = s.hart ∧ t.mem = s.mem
              ∧ t.hostOut = s.hostOut ++ [.readData p (word (leNat (s.viewBytes (.host p) .system pa n))) false])
            ∧ (s.poisoned pa → ∃ t, exec (.hostBarRead ⟨⟨p, st⟩, true⟩ 4 off size) s = .next t ∧ t.mem = s.mem
              ∧ t.hostOut.getLast? = some (if bitSet s.regs.poisonctl p then .readData p (word (leNat (s.viewBytes (.host p) .system pa n))) true
                  else .abort p))
            ∧ (∃ t, exec (.hostBarWrite ⟨p, st⟩ 4 off size v false true) s = .next t ∧ t.hart = s.hart ∧ t.hostOut = s.hostOut ∧ stored t v.toNat)
            ∧ (∃ t, exec (.hostBarWrite ⟨p, st⟩ 4 off size v true true) s = .next t ∧ t.hart = s.hart ∧ stored t v.toNat
              ∧ ∀ i, i < n → t.poisoned (pa + i) = true))
          ∧ (¬here → (∃ t, exec (.hostBarRead ⟨⟨p, st⟩, true⟩ 4 off size) s = .next t ∧ t.hart = s.hart ∧ t.mem = s.mem
                ∧ t.hostOut = s.hostOut ++ [.unsupported p])
              ∧ exec (.hostBarWrite ⟨p, st⟩ 4 off size v false true) s = .next s)
          ∧ (s.admitted 0 → k < 8192 →
              exec (.hostBarWrite ⟨p, st⟩ 0 (4096 * k) .w64 v false true) s = .next ((s.release (.host p) .system).doorbell k v))
          ∧ (bar ≠ 4 → ∃ t, exec (.hostBarWrite ⟨p, st⟩ bar off size v true true) s = .next t ∧ t.hart = s.hart ∧ t.mem = s.mem ∧ t.queues = s.queues)
          ∧ (∀ i ∈ [Instr.hostBarRead ⟨⟨p, st⟩, false⟩ bar off size, .hostBarWrite ⟨p, st⟩ bar off size v ok false],
              ∃ t, exec i s = .next t ∧ t.hart = s.hart ∧ t.mem = s.mem ∧ t.hostArrives p st = false))
      ∧ (s.hostArrives p st = false → ∀ i ∈ [Instr.hostBarRead ⟨⟨p, st⟩, ok⟩ bar off size, .hostBarWrite ⟨p, st⟩ bar off size v false ok], exec i s = .next s)
      ∧ (p < 2 → s.portUp p → ∃ t, exec (.spdmSecureSession p ok) s = .next t ∧ t.hart = s.hart ∧ t.mem = s.mem
          ∧ Tab.get 0 t.keys.session p = bit ok)
      ∧ (Tab.get 0 s.keys.session p ≠ 0 → k < 5 → ∃ t, exec (.ideKmRequest p k key) s = .next t ∧ t.hart = s.hart ∧ t.mem = s.mem
          ∧ Tab.get 0 t.keys.ide (8 * p + k) = key ∧ t.streamFailed p k = false)
      ∧ (s.admitted 9 → p < 8 → k < 1024 → ∃ t, exec (.ualinksecKeyEstablish p k key) s = .next t ∧ t.hart = s.hart ∧ t.mem = s.mem
          ∧ Tab.get 0 t.keys.ualink p = key ∧ Tab.get 0 t.keys.podOf p = k + 1)
      ∧ (s.admitted 9 → p < 8 → bitSet s.regs.podctl 63 → Tab.get 0 s.keys.podOf p = k + 1 →
          (s.podReaches off n →
            (s.poisoned pa = false → ∃ t, exec (.podRemoteAccess p (.read off size) true) s = .next t ∧ t.hart = s.hart ∧ t.mem = s.mem
                ∧ t.hostOut = s.hostOut ++ [.readData (16 + p) (word (leNat (s.viewBytes (.pod k) .pod pa n))) false])
              ∧ (s.poisoned pa → ∃ t, exec (.podRemoteAccess p (.read off size) true) s = .next t ∧ t.mem = s.mem
                ∧ t.hostOut.getLast? = some (.abort (16 + p)))
              ∧ (∃ t, exec (.podRemoteAccess p (.write off size v) true) s = .next t ∧ t.hart = s.hart ∧ stored t v.toNat))
            ∧ (∀ dbl (op : BitVec 4) w, s.podReaches off (amoBytes dbl) → op.toNat < 13 →
                (s.poisoned pa = false → ∃ t, exec (.podRemoteAccess p (.amo off dbl op v w) true) s = .next t ∧ t.hart = s.hart
                    ∧ t.hostOut = s.hostOut ++ [.readData (16 + p) (word (leNat (s.amoBytesAt (.pod k) pa (amoBytes dbl)))) false]
                    ∧ ∀ q, q < pa ∨ pa + amoBytes dbl ≤ q → t.latest q =
                        (if op = 9 ∧ leNat (s.amoBytesAt (.pod k) pa (amoBytes dbl)) ≠ w.toNat % 2 ^ (8 * amoBytes dbl) then s
                          else s.appear (.pod k)).latest q)
                  ∧ (s.poisoned pa → ∃ t, exec (.podRemoteAccess p (.amo off dbl op v w) true) s = .next t ∧ t.mem = s.mem
                    ∧ t.hostOut.getLast? = some (.abort (16 + p))))
            ∧ (∀ x, ∃ t, exec (.podRemoteAccess p x false) s = .next t ∧ t.hart = s.hart ∧ t.mem = s.mem
                ∧ t.hostOut.getLast? = some (.unsupported (16 + p))))

/-- R239 to R244, R265, R424: the launcher takes a full slot of a queue whose head is before its target; it places the launch whose checks,
dependences and slots allow it, every hart with its registers of R244, and ends one it refuses; what a posted launch has waited ages it. That a
record is checked when its launch is placed, and that none is placed while a posted record waits to be read, is log entry 30. That a posted record
is checked when it is placed, and that none is placed while a posted record waits to be read, are the model's choices (log entry 30). -/
def Obligations.Launching : Prop :=
  ∀ (s : State) (q : Nat) (p : Posted),
    let p' := p.ageNow s.clk
    let s' := { s with posted := [p'] }
    (∀ base lg h,
        let u := s.syncQueue q
        let w := Tab.get WorkQueue.reset u.queues q
        let slot := base + w.head.toNat % 2 ^ lg * 128
        u.admitted 0 → q < 8192 → u.queueOn q → w.head ≠ w.target → u.queueRing q = some (base, lg) → u.launcherRead slot = some h →
        h % 4 = phase lg w.head →
        ∃ t r, exec (.wqSlotTake q) s = .next t ∧ t.hart = s.hart ∧ t.posted = s.posted ++ [r] ∧ r.queue = q
          ∧ (∀ i, i < 8 → (u.launcherRead (slot + 64 + 8 * i) = none → r.unread.contains i)
              ∧ ∀ x, u.launcherRead (slot + 64 + 8 * i) = some x → r.unread.contains i = false ∧ r.dwords.getD i 0 = x)
          ∧ (w.bells = [] → r.posted = s.clk) ∧ (∀ b bs, w.bells = b :: bs → r.posted = b.2)
          ∧ (Tab.get WorkQueue.reset t.queues q).head = w.head + 1)
      ∧ (s.recordsWait → exec .launchPlace s = .next s)
      ∧ (s.admitted 0 → s.recordsWait = false → s.posted = [p] → s'.checkLaunch p' = none →
          ∃ t, exec .launchPlace s = .next t ∧ t.posted = [] ∧ t.hart = s.hart)
      ∧ (p.unread ≠ [] → s.checkLaunch p = none)
      ∧ (∀ k, s.admitted 0 → s.recordsWait = false → s.posted = [p] → s'.checkLaunch p' = some k → s'.deps k = .failed →
          ∃ t, exec .launchPlace s = .next t ∧ t.posted = [] ∧ t.hart = s.hart)
      ∧ (∀ k slots, s.admitted 0 → s.recordsWait = false → s.posted = [p] → s'.checkLaunch p' = some k → s'.deps k = .met →
          s'.launchSlots k = some slots → slots.Nodup →
          ∃ t, exec .launchPlace s = .next t ∧ t.posted = [] ∧ t.launches = s.launches + 1 ∧ t.mem = s.mem
            ∧ ∀ rank h, slots[rank]? = some h →
                let x := t.hartAt h
                x.level = .u ∧ x.pc = k.r.entry ∧ x.run = .running ∧ x.asid = k.r.asid ∧ x.ptbase = k.entry.ptbase
                  ∧ x.tag = some (s.launches + 1, rank) ∧ x.reg 5 = k.r.arg ∧ x.reg 6 = word rank ∧ x.ill = true)
      ∧ (∃ t, exec (.launchAging q) s = .next t ∧ t.hart = s.hart ∧ t.mem = s.mem
          ∧ ∀ j, t.posted[j]? = (s.posted[j]?).map (fun r => if j = q then { r with aged := (s.clk - r.posted) / 4096 } else r))

/-- R30, R438, R401, R294, R2: HART_RESET gives one slot the state after reset; PACKAGE_RESET gives it to the package, where only what is performed at
.durable or outside and the boot ROMs outlast it in memory; FREEZE stops it and clears keys and secrets, and from then on only reset acts and clk
stands. That clk runs on over a package reset is the model's choice (log entry 36); what outlasts one in memory is log entry 41. -/
def Obligations.ResetsAndFreeze : Prop :=
  ∀ (s : State) (n : Nat),
    (isHart n → s.admitted (dieOf n) → ∃ t, exec (.hartReset n) s = .next t ∧
        let h := t.hartAt n
        h.level = .m ∧ h.pc = Config.bootPc ∧ h.x = [] ∧ h.fflags = 0 ∧ h.frm = 0 ∧ h.iflags = 0 ∧ h.retired = 0 ∧ h.trapS.status = 0 ∧ h.trapS.tvec = 0
          ∧ h.trapM.status = 0 ∧ h.trapM.tvec = 0 ∧ h.ill = true ∧ h.vl = 0 ∧ h.rows = 1 ∧ h.mgrant = 0 ∧ h.asid = 0 ∧ h.ptbase = 0 ∧ h.run = .running)
      ∧ (s.admitted (dieOf n) = false → exec (.hartReset n) s = .next s)
      ∧ (∃ t, exec .packageReset s = .next t ∧ t.hart = State.reset.hart ∧ t.others = [] ∧ t.dies = [] ∧ t.cores = [] ∧ t.clusters = []
          ∧ t.epoch = 0 ∧ t.regs = DeviceRegs.reset ∧ t.frozen = false ∧ t.posted = [] ∧ t.crews = [] ∧ t.pend = [] ∧ t.links = [] ∧ t.clk = s.clk
          ∧ ∀ pa, t.latest pa = match s.survivesAt pa with
              | some pts => viewFrom (fun p => p.atAny pts) pa (s.latest pa) s.pend
              | none => if inRom pa then s.latest pa else 0)
      ∧ (∃ t, exec .freeze s = .next t ∧ t.frozen = true ∧ t.hart = s.hart ∧ t.others = s.others ∧ t.mem = s.mem ∧ t.cores = s.cores
          ∧ t.clusters = s.clusters ∧ (∀ d k, (t.link d k).lo.key = 0 ∧ (t.link d k).hi.key = 0 ∧ (t.link d k).secret = 0) ∧ t.keys.ide = [] ∧ t.keys.session = []
          ∧ t.keys.ualink = [])
      ∧ (s.frozen = true → (∀ e rest, s.agenda ≠ .event .packageReset e :: rest) →
          step s = .next { s with tick := s.tick + 1, agenda := s.agenda.tail })

/-! ### The whole machine -/

/-- R30, R112, R101, R245, R247, R438, R412: the state at package reset, in the values the spec gives: every die at state 0 with an empty log, every
core with its reset limits and empty queues, every hart as R30 says. Its memory lists nothing (log entry 2) and the queues of a core hold nothing
(log entry 3): the spec gives neither at reset. That memory then lists nothing is the model's choice (log entry 2), as is that the queues of a
core are empty (log entry 3). -/
def Obligations.ResetState : Prop :=
  let s := State.reset
  (∀ h, isHart h →
      let x := s.hartAt h
      x.level = .m ∧ x.pc = 0x0F0000000000 ∧ (∀ r, Tab.get 0 x.x r = 0) ∧ x.fflags = 0 ∧ x.frm = 0 ∧ x.iflags = 0 ∧ x.cycleBase = 0 ∧ x.retired = 0
        ∧ x.trapS.status = 0 ∧ x.trapS.tvec = 0 ∧ x.trapM.status = 0 ∧ x.trapM.tvec = 0 ∧ x.ill = true ∧ x.ncols = 0 ∧ x.nrows = 1 ∧ x.start = 0
        ∧ (∀ v, Tab.get 0 x.v v = 0 ∧ x.tagOf v = 0 ∧ Tab.get 0 x.vpois v = 0) ∧ (∀ m, Tab.get 0 x.m m = 0)
        ∧ x.vgrant = (if slotOf h = 0 then 0x888 else 0x800)
        ∧ x.vxflags = 0 ∧ x.vxtrap = 0 ∧ x.vpoison = 0 ∧ x.mgrant = 0 ∧ x.amiss = 0 ∧ x.adbase = 0 ∧ x.uxid = 0 ∧ x.uhandler = 0 ∧ x.ushadow0 = 0
        ∧ x.ushadow1 = 0 ∧ x.ushadow2 = 0 ∧ x.ushadow3 = 0 ∧ x.eshadow = 0 ∧ x.eword = 0 ∧ x.asid = 0 ∧ x.ptbase = 0 ∧ x.recvto = 0 ∧ x.ebase = 0
        ∧ x.mseq = 0 ∧ x.coremap = 0 ∧ x.routemap = 0 ∧ x.ov = false ∧ x.tag = none ∧ (∀ q, (s.stream h q).bound = false))
    ∧ (∀ c, (s.coreAt c).lanecap = 0xFF ∧ (s.coreAt c).pwrcap = 0x2044080088 ∧ (s.coreAt c).inbound = [] ∧ (s.coreAt c).children = []
        ∧ (s.coreAt c).uqueue = [])
    ∧ (∀ d k, (s.link d k).up = false) ∧ (∀ d, (s.dieAt d).st = 0 ∧ (s.dieAt d).head = 0 ∧ (s.dieAt d).tail = 0 ∧ (s.dieAt d).lost = 0 ∧ (s.dieAt d).hbmctl = 0)
    ∧ s.diestate = 0 ∧ s.mem = [] ∧ Memory.wf s.mem = true

/-- The spec's own assembled words decode to the instructions it gives them for (03, 04, 05, 07, 12, 15, 16, 18, 21), an undefined major to the
undefined word, an illegal field to nothing. -/
def Obligations.DecodeWords : Prop :=
  decode 0x02729803 = .ok (.add .w64 7 5 6) ∧ decode 0x10D6FFFF = .ok (.addi 13 13 0x7FFF) ∧ decode 0x42D07FFC = .ok (.bne 13 0 0x7FFC)
    ∧ decode 0x4CD07FFF = .ok (.loop 13 0x7FFF) ∧ decode 0x8256B800 = .ok (.vconfig 5 13 14) ∧ decode 0x80D60008 = .ok (.vfetch 13 3 8)
    ∧ decode 0x96FB000D = .ok (.lds .w64 15 22 0 .device true) ∧ decode 0xA00BB18A = .ok (.amofmax false 0 23 12 .device .relaxed)
    ∧ decode 0x86F2 = .ok (.undefinedWord 0x86F2) ∧ decode 0x4CD08000 = .error .reserved
    ∧ decodeBlock 0x108608032E03A000 =
        .ok (.vadd ⟨true, 3, 1, 0, 6, 2, true, 6, 0x03A000⟩)
    ∧ decodeBlock 0x0100000000000000 = .ok .stop ∧ decodeBlock 0x0100000000000001 = .error .reserved

/-- R49 to R62, R146, R153, R155: every well-formed scalar instruction is decoded from its own word, up to the forms that share a word, and every
block word from its own. -/
def Obligations.EncodeDecode : Prop :=
  (∀ (i : Instr) (w : Word32), i.wf = true → encode i = some w → decode w = .ok (spelled i))
    ∧ ∀ (i : Instr) (w : BitVec 64), encodeBlock i = some w → decodeBlock w = .ok i

/-- R51, R147: a word that decodes is the encoding of what it decodes to, which is well-formed: no bit of a word is ignored. -/
def Obligations.DecodeEncode : Prop :=
  (∀ (w : Word32) (i : Instr), decode w = .ok i → i.wf = true ∧ encode i = some w)
    ∧ ∀ (w : BitVec 64) (i : Instr), decodeBlock w = .ok i → encodeBlock i = some w

/-- R29, R33, R34, R372: a hart's turn fetches the word at its pc, and, no interrupt and no retirement being due, executes the instruction the word
decodes to; an illegal word raises code 2 with the word, a fetch that faults raises its cause. An event in which no error strikes takes its turn
as exec of it; one that acts on the current hart finds it as at its turn, and does nothing while a lane of it is copied to the spare (R393). Whose
turn it is, and how many clk a step takes, are the model's choices (log entries 1, 5). -/
def Obligations.StepRunsDecoded : Prop :=
  ∀ (s : State) (rest : List Turn), s.frozen = false →
    let t := { s with clk := if s.powered then s.clk + 1 + Config.extraClk s.tick else s.clk, tick := s.tick + 1, agenda := rest }
    (∀ h alone, s.agenda = .hart h alone none none :: rest → isHart h →
        let u := t.arm h alone none none
        u.admitted (dieOf u.cur) → u.hart.run = .running → u.copiesLane u.cur = false → u.mustRetire = false → u.asyncDue = none → u.userDue = none →
          (∀ w i, u.fetch u.hart.pc 4 = .ok w → decode (BitVec.ofNat 32 w) = .ok i → step s = mapNext State.disarm (exec i u))
            ∧ (∀ w e, u.fetch u.hart.pc 4 = .ok w → decode (BitVec.ofNat 32 w) = .error e → step s = .next ((u.trap ⟨2, word w⟩).disarm))
            ∧ (∀ x, u.fetch u.hart.pc 4 = .error x → step s = .next ((u.trap x).disarm)))
      ∧ ∀ i, s.agenda = .event i none :: rest → isEvent i → step s =
          if actsOnHart i then (if t.beginTurn.copiesLane t.beginTurn.cur then .next t.beginTurn else exec i t.beginTurn) else exec i t

/-- Every instruction, block word and event takes a next state in every state: exec neither faults nor refuses; a step stops only where the agenda
names a number that is no hart. The agenda is the model's own (log entry 1). -/
def Obligations.NothingIsRefused : Prop :=
  (∀ (i : Instr) (s : State), ∃ t, exec i s = .next t)
    ∧ ∀ s : State, (∃ t, step s = .next t)
        ∨ (step s = .fault .noSuchHart ∧ s.frozen = false ∧ ∃ h alone pre e rest, s.agenda = .hart h alone pre e :: rest ∧ isHart h = false)

/-- Every step keeps memory in its canonical form: addresses strictly rising, none listed at what an unlisted one reads as. The canonical form is the
model's own (log entry 2). -/
def Obligations.StepKeepsMemoryCanonical : Prop :=
  ∀ s t : State, Memory.wf s.mem = true → step s = .next t → Memory.wf t.mem = true
end

