-- ==== Sys2Proof/Laws/Tab.lean ====
section
/-! SUPPORT. What reading and writing a table do to each other, and that every table operation keeps the canonical form. -/

namespace Sys2Proof

variable {α : Type}

@[simp] theorem Tab.get_nil (d : α) (k : Nat) : Tab.get d [] k = d := rfl

theorem Tab.get_drop (d : α) (t : Tab α) (k j : Nat) :
    Tab.get d (Tab.drop t k) j = if j = k then d else Tab.get d t j := by
  induction t with
  | nil => simp [Tab.drop]
  | cons p t ih =>
    obtain ⟨k', v'⟩ := p
    simp only [Tab.drop]
    split
    · subst_vars; rw [ih]; simp only [Tab.get]; split <;> simp_all
    · simp only [Tab.get, ih]
      split <;> split <;> simp_all

theorem Tab.get_insert (d : α) (t : Tab α) (k j : Nat) (v : α) (h : Tab.get d t k = d) (hk : ∀ p ∈ t, p.1 ≠ k) :
    Tab.get d (Tab.insert t k v) j = if j = k then v else Tab.get d t j := by
  induction t with
  | nil => simp [Tab.insert, Tab.get]
  | cons p t ih =>
    obtain ⟨k', v'⟩ := p
    have hk' : k' ≠ k := hk (k', v') (by simp)
    have h' : Tab.get d t k = d := by simpa [Tab.get, Ne.symm hk'] using h
    simp only [Tab.insert]
    split
    · simp [Tab.get]
    · simp only [Tab.get, ih h' (fun p hp => hk p (by simp [hp]))]
      split <;> split <;> simp_all

theorem Tab.drop_ne (t : Tab α) (k : Nat) : ∀ p ∈ Tab.drop t k, p.1 ≠ k := by
  induction t with
  | nil => simp [Tab.drop]
  | cons p t ih =>
    obtain ⟨k', v'⟩ := p
    simp only [Tab.drop]
    split
    · exact ih
    · intro q hq
      rcases List.mem_cons.mp hq with rfl | hq
      · exact fun e => by simp_all
      · exact ih q hq

/-- Read after write. -/
theorem Tab.get_put [DecidableEq α] (d : α) (t : Tab α) (k j : Nat) (v : α) :
    Tab.get d (Tab.put d t k v) j = if j = k then v else Tab.get d t j := by
  unfold Tab.put
  split
  · rw [Tab.get_drop]; subst_vars; rfl
  · rw [Tab.get_insert d _ k j v (by rw [Tab.get_drop]; simp) (Tab.drop_ne t k), Tab.get_drop]
    split <;> rfl

@[simp] theorem Tab.get_put_same [DecidableEq α] (d : α) (t : Tab α) (k : Nat) (v : α) : Tab.get d (Tab.put d t k v) k = v := by
  simp [Tab.get_put]

theorem Tab.get_put_ne [DecidableEq α] (d : α) (t : Tab α) {k j : Nat} (v : α) (h : j ≠ k) :
    Tab.get d (Tab.put d t k v) j = Tab.get d t j := by simp [Tab.get_put, h]

/-- A write elsewhere is not seen, whatever an unlisted number is taken to read as. -/
theorem Tab.get_put_other [DecidableEq α] (d d' : α) (t : Tab α) {k j : Nat} (v : α) (h : j ≠ k) :
    Tab.get d' (Tab.put d t k v) j = Tab.get d' t j := by
  unfold Tab.put
  split
  · rw [Tab.get_drop]; simp [h]
  · rw [Tab.get_insert _ _ _ _ _ (by rw [Tab.get_drop]; simp) (Tab.drop_ne t k), Tab.get_drop]; simp [h]

theorem Tab.get_modify [DecidableEq α] (d : α) (t : Tab α) (k j : Nat) (f : α → α) :
    Tab.get d (Tab.modify d t k f) j = if j = k then f (Tab.get d t k) else Tab.get d t j := by
  simp [Tab.modify, Tab.get_put]

@[simp] theorem Tab.get_modify_same [DecidableEq α] (d : α) (t : Tab α) (k : Nat) (f : α → α) :
    Tab.get d (Tab.modify d t k f) k = f (Tab.get d t k) := by simp [Tab.get_modify]

/-- Every number of the table is above `k`. -/
theorem Tab.above_iff_of_wf [DecidableEq α] (d : α) (t : Tab α) (k : Nat) (h : Tab.wf d t = true) :
    Tab.above k t = true ↔ ∀ p ∈ t, k < p.1 := by
  induction t generalizing k with
  | nil => simp [Tab.above]
  | cons p t ih =>
    obtain ⟨k', v'⟩ := p
    simp only [Tab.wf, Bool.and_eq_true] at h
    constructor
    · intro hk q hq
      simp only [Tab.above, decide_eq_true_eq] at hk
      rcases List.mem_cons.mp hq with rfl | hq
      · exact hk
      · exact Nat.lt_trans hk ((ih k' h.2).mp h.1.1 q hq)
    · intro hk
      have := hk (k', v') (by simp)
      simpa [Tab.above] using this

/-- A canonical table: its head stands below the rest, no entry holds `d`. -/
theorem Tab.wf_cons [DecidableEq α] (d : α) (k : Nat) (v : α) (t : Tab α) :
    Tab.wf d ((k, v) :: t) = true ↔ (∀ p ∈ t, k < p.1) ∧ v ≠ d ∧ Tab.wf d t = true := by
  constructor
  · intro h
    simp only [Tab.wf, Bool.and_eq_true, Bool.not_eq_true', decide_eq_false_iff_not] at h
    exact ⟨(Tab.above_iff_of_wf d t k h.2).mp h.1.1, h.1.2, h.2⟩
  · intro h
    simp only [Tab.wf, Bool.and_eq_true, Bool.not_eq_true', decide_eq_false_iff_not]
    exact ⟨⟨(Tab.above_iff_of_wf d t k h.2.2).mpr h.1, h.2.1⟩, h.2.2⟩

/-- Leaving entries out keeps the canonical form. -/
theorem Tab.wf_filter [DecidableEq α] (d : α) (t : Tab α) (q : Nat × α → Bool) (h : Tab.wf d t = true) : Tab.wf d (t.filter q) = true := by
  induction t with
  | nil => simpa using h
  | cons p t ih =>
    obtain ⟨k, v⟩ := p
    rw [Tab.wf_cons] at h
    simp only [List.filter_cons]
    split
    · rw [Tab.wf_cons]
      exact ⟨fun p hp => h.1 p ((List.mem_filter.mp hp).1), h.2.1, ih h.2.2⟩
    · exact ih h.2.2

theorem Tab.drop_eq_filter (t : Tab α) (k : Nat) : Tab.drop t k = t.filter (fun p => !decide (k = p.1)) := by
  induction t with
  | nil => rfl
  | cons p t ih =>
    obtain ⟨k', v'⟩ := p
    simp only [Tab.drop, List.filter_cons]
    split <;> simp_all

theorem Tab.mem_insert (t : Tab α) (k : Nat) (v : α) (p : Nat × α) : p ∈ Tab.insert t k v ↔ p = (k, v) ∨ p ∈ t := by
  induction t with
  | nil => simp [Tab.insert]
  | cons q t ih =>
    obtain ⟨k', v'⟩ := q
    simp only [Tab.insert]
    split
    · simp
    · simp only [List.mem_cons, ih]
      constructor
      · rintro (h | h | h) <;> simp [h]
      · rintro (h | h | h) <;> simp [h]

theorem Tab.wf_insert [DecidableEq α] (d : α) (t : Tab α) (k : Nat) (v : α) (h : Tab.wf d t = true) (hv : v ≠ d) (hk : ∀ p ∈ t, p.1 ≠ k) :
    Tab.wf d (Tab.insert t k v) = true := by
  induction t with
  | nil => simp [Tab.insert, Tab.wf, Tab.above, hv]
  | cons p t ih =>
    obtain ⟨k', v'⟩ := p
    have hw := (Tab.wf_cons d k' v' t).mp h
    have hne : k' ≠ k := hk (k', v') (by simp)
    simp only [Tab.insert]
    split
    · rw [Tab.wf_cons]
      refine ⟨fun q hq => ?_, hv, h⟩
      rcases List.mem_cons.mp hq with rfl | hq
      · assumption
      · exact Nat.lt_trans ‹k < k'› (hw.1 q hq)
    · rw [Tab.wf_cons]
      refine ⟨fun q hq => ?_, hw.2.1, ih hw.2.2 (fun q hq => hk q (by simp [hq]))⟩
      rcases (Tab.mem_insert t k v q).mp hq with rfl | hq
      · simp only; omega
      · exact hw.1 q hq

/-- A write keeps the canonical form. -/
theorem Tab.wf_put [DecidableEq α] (d : α) (t : Tab α) (k : Nat) (v : α) (h : Tab.wf d t = true) : Tab.wf d (Tab.put d t k v) = true := by
  unfold Tab.put
  split
  · rw [Tab.drop_eq_filter]; exact Tab.wf_filter d t _ h
  · exact Tab.wf_insert d _ k v (by rw [Tab.drop_eq_filter]; exact Tab.wf_filter d t _ h) ‹_› (Tab.drop_ne t k)

theorem Tab.wf_modify [DecidableEq α] (d : α) (t : Tab α) (k : Nat) (f : α → α) (h : Tab.wf d t = true) :
    Tab.wf d (Tab.modify d t k f) = true := Tab.wf_put d t k _ h

end Sys2Proof
end

