-- ==== Sys2Proof/Laws/State.lean ====
section
/-! SUPPORT. The fields of a state after each of the operations every meaning is built from: one lemma for each field an operation leaves, and
what it makes of the others. -/

namespace Sys2Proof.Machine

/-! ### State.touch -/

@[simp] theorem State.touch_cur (s : State) (pa : Nat) : (s.touch pa).cur = s.cur := by
  unfold State.touch; dsimp only; split <;> rfl
@[simp] theorem State.touch_hart (s : State) (pa : Nat) : (s.touch pa).hart = s.hart := by
  unfold State.touch; dsimp only; split <;> rfl
@[simp] theorem State.touch_others (s : State) (pa : Nat) : (s.touch pa).others = s.others := by
  unfold State.touch; dsimp only; split <;> rfl
@[simp] theorem State.touch_cores (s : State) (pa : Nat) : (s.touch pa).cores = s.cores := by
  unfold State.touch; dsimp only; split <;> rfl
@[simp] theorem State.touch_clusters (s : State) (pa : Nat) : (s.touch pa).clusters = s.clusters := by
  unfold State.touch; dsimp only; split <;> rfl
@[simp] theorem State.touch_links (s : State) (pa : Nat) : (s.touch pa).links = s.links := by
  unfold State.touch; dsimp only; split <;> rfl
@[simp] theorem State.touch_mem (s : State) (pa : Nat) : (s.touch pa).mem = s.mem := by
  unfold State.touch; dsimp only; split <;> rfl
@[simp] theorem State.touch_poison (s : State) (pa : Nat) : (s.touch pa).poison = s.poison := by
  unfold State.touch; dsimp only; split <;> rfl
@[simp] theorem State.touch_pend (s : State) (pa : Nat) : (s.touch pa).pend = s.pend := by
  unfold State.touch; dsimp only; split <;> rfl
@[simp] theorem State.touch_releases (s : State) (pa : Nat) : (s.touch pa).releases = s.releases := by
  unfold State.touch; dsimp only; split <;> rfl
@[simp] theorem State.touch_posted (s : State) (pa : Nat) : (s.touch pa).posted = s.posted := by
  unfold State.touch; dsimp only; split <;> rfl
@[simp] theorem State.touch_crews (s : State) (pa : Nat) : (s.touch pa).crews = s.crews := by
  unfold State.touch; dsimp only; split <;> rfl
@[simp] theorem State.touch_pieces (s : State) (pa : Nat) : (s.touch pa).pieces = s.pieces := by
  unfold State.touch; dsimp only; split <;> rfl
@[simp] theorem State.touch_launches (s : State) (pa : Nat) : (s.touch pa).launches = s.launches := by
  unfold State.touch; dsimp only; split <;> rfl
@[simp] theorem State.touch_queues (s : State) (pa : Nat) : (s.touch pa).queues = s.queues := by
  unfold State.touch; dsimp only; split <;> rfl
@[simp] theorem State.touch_saved (s : State) (pa : Nat) : (s.touch pa).saved = s.saved := by
  unfold State.touch; dsimp only; split <;> rfl
@[simp] theorem State.touch_moving (s : State) (pa : Nat) : (s.touch pa).moving = s.moving := by
  unfold State.touch; dsimp only; split <;> rfl
@[simp] theorem State.touch_regs (s : State) (pa : Nat) : (s.touch pa).regs = s.regs := by
  unfold State.touch; dsimp only; split <;> rfl
@[simp] theorem State.touch_msix (s : State) (pa : Nat) : (s.touch pa).msix = s.msix := by
  unfold State.touch; dsimp only; split <;> rfl
@[simp] theorem State.touch_keys (s : State) (pa : Nat) : (s.touch pa).keys = s.keys := by
  unfold State.touch; dsimp only; split <;> rfl
@[simp] theorem State.touch_power (s : State) (pa : Nat) : (s.touch pa).power = s.power := by
  unfold State.touch; dsimp only; split <;> rfl
@[simp] theorem State.touch_epoch (s : State) (pa : Nat) : (s.touch pa).epoch = s.epoch := by
  unfold State.touch; dsimp only; split <;> rfl
@[simp] theorem State.touch_clk (s : State) (pa : Nat) : (s.touch pa).clk = s.clk := by
  unfold State.touch; dsimp only; split <;> rfl
@[simp] theorem State.touch_powered (s : State) (pa : Nat) : (s.touch pa).powered = s.powered := by
  unfold State.touch; dsimp only; split <;> rfl
@[simp] theorem State.touch_held (s : State) (pa : Nat) : (s.touch pa).held = s.held := by
  unfold State.touch; dsimp only; split <;> rfl
@[simp] theorem State.touch_frozen (s : State) (pa : Nat) : (s.touch pa).frozen = s.frozen := by
  unfold State.touch; dsimp only; split <;> rfl
@[simp] theorem State.touch_hostOut (s : State) (pa : Nat) : (s.touch pa).hostOut = s.hostOut := by
  unfold State.touch; dsimp only; split <;> rfl
@[simp] theorem State.touch_portMet (s : State) (pa : Nat) : (s.touch pa).portMet = s.portMet := by
  unfold State.touch; dsimp only; split <;> rfl
@[simp] theorem State.touch_agenda (s : State) (pa : Nat) : (s.touch pa).agenda = s.agenda := by
  unfold State.touch; dsimp only; split <;> rfl
@[simp] theorem State.touch_tick (s : State) (pa : Nat) : (s.touch pa).tick = s.tick := by
  unfold State.touch; dsimp only; split <;> rfl

/-! ### State.write -/

@[simp] theorem State.write_cur (s : State) (a : AgentId) (q : Point) (e : Bool) (w pa : Nat) (bs : List Byte) : (s.write a q e w pa bs).cur = s.cur := State.touch_cur _ _
@[simp] theorem State.write_hart (s : State) (a : AgentId) (q : Point) (e : Bool) (w pa : Nat) (bs : List Byte) : (s.write a q e w pa bs).hart = s.hart := State.touch_hart _ _
@[simp] theorem State.write_others (s : State) (a : AgentId) (q : Point) (e : Bool) (w pa : Nat) (bs : List Byte) : (s.write a q e w pa bs).others = s.others := State.touch_others _ _
@[simp] theorem State.write_cores (s : State) (a : AgentId) (q : Point) (e : Bool) (w pa : Nat) (bs : List Byte) : (s.write a q e w pa bs).cores = s.cores := State.touch_cores _ _
@[simp] theorem State.write_clusters (s : State) (a : AgentId) (q : Point) (e : Bool) (w pa : Nat) (bs : List Byte) : (s.write a q e w pa bs).clusters = s.clusters := State.touch_clusters _ _
@[simp] theorem State.write_links (s : State) (a : AgentId) (q : Point) (e : Bool) (w pa : Nat) (bs : List Byte) : (s.write a q e w pa bs).links = s.links := State.touch_links _ _
@[simp] theorem State.write_releases (s : State) (a : AgentId) (q : Point) (e : Bool) (w pa : Nat) (bs : List Byte) : (s.write a q e w pa bs).releases = s.releases := State.touch_releases _ _
@[simp] theorem State.write_posted (s : State) (a : AgentId) (q : Point) (e : Bool) (w pa : Nat) (bs : List Byte) : (s.write a q e w pa bs).posted = s.posted := State.touch_posted _ _
@[simp] theorem State.write_crews (s : State) (a : AgentId) (q : Point) (e : Bool) (w pa : Nat) (bs : List Byte) : (s.write a q e w pa bs).crews = s.crews := State.touch_crews _ _
@[simp] theorem State.write_pieces (s : State) (a : AgentId) (q : Point) (e : Bool) (w pa : Nat) (bs : List Byte) : (s.write a q e w pa bs).pieces = s.pieces := State.touch_pieces _ _
@[simp] theorem State.write_launches (s : State) (a : AgentId) (q : Point) (e : Bool) (w pa : Nat) (bs : List Byte) : (s.write a q e w pa bs).launches = s.launches := State.touch_launches _ _
@[simp] theorem State.write_queues (s : State) (a : AgentId) (q : Point) (e : Bool) (w pa : Nat) (bs : List Byte) : (s.write a q e w pa bs).queues = s.queues := State.touch_queues _ _
@[simp] theorem State.write_saved (s : State) (a : AgentId) (q : Point) (e : Bool) (w pa : Nat) (bs : List Byte) : (s.write a q e w pa bs).saved = s.saved := State.touch_saved _ _
@[simp] theorem State.write_moving (s : State) (a : AgentId) (q : Point) (e : Bool) (w pa : Nat) (bs : List Byte) : (s.write a q e w pa bs).moving = s.moving := State.touch_moving _ _
@[simp] theorem State.write_regs (s : State) (a : AgentId) (q : Point) (e : Bool) (w pa : Nat) (bs : List Byte) : (s.write a q e w pa bs).regs = s.regs := State.touch_regs _ _
@[simp] theorem State.write_msix (s : State) (a : AgentId) (q : Point) (e : Bool) (w pa : Nat) (bs : List Byte) : (s.write a q e w pa bs).msix = s.msix := State.touch_msix _ _
@[simp] theorem State.write_keys (s : State) (a : AgentId) (q : Point) (e : Bool) (w pa : Nat) (bs : List Byte) : (s.write a q e w pa bs).keys = s.keys := State.touch_keys _ _
@[simp] theorem State.write_power (s : State) (a : AgentId) (q : Point) (e : Bool) (w pa : Nat) (bs : List Byte) : (s.write a q e w pa bs).power = s.power := State.touch_power _ _
@[simp] theorem State.write_epoch (s : State) (a : AgentId) (q : Point) (e : Bool) (w pa : Nat) (bs : List Byte) : (s.write a q e w pa bs).epoch = s.epoch := State.touch_epoch _ _
@[simp] theorem State.write_clk (s : State) (a : AgentId) (q : Point) (e : Bool) (w pa : Nat) (bs : List Byte) : (s.write a q e w pa bs).clk = s.clk := State.touch_clk _ _
@[simp] theorem State.write_powered (s : State) (a : AgentId) (q : Point) (e : Bool) (w pa : Nat) (bs : List Byte) : (s.write a q e w pa bs).powered = s.powered := State.touch_powered _ _
@[simp] theorem State.write_held (s : State) (a : AgentId) (q : Point) (e : Bool) (w pa : Nat) (bs : List Byte) : (s.write a q e w pa bs).held = s.held := State.touch_held _ _
@[simp] theorem State.write_frozen (s : State) (a : AgentId) (q : Point) (e : Bool) (w pa : Nat) (bs : List Byte) : (s.write a q e w pa bs).frozen = s.frozen := State.touch_frozen _ _
@[simp] theorem State.write_hostOut (s : State) (a : AgentId) (q : Point) (e : Bool) (w pa : Nat) (bs : List Byte) : (s.write a q e w pa bs).hostOut = s.hostOut := State.touch_hostOut _ _
@[simp] theorem State.write_portMet (s : State) (a : AgentId) (q : Point) (e : Bool) (w pa : Nat) (bs : List Byte) : (s.write a q e w pa bs).portMet = s.portMet := State.touch_portMet _ _
@[simp] theorem State.write_agenda (s : State) (a : AgentId) (q : Point) (e : Bool) (w pa : Nat) (bs : List Byte) : (s.write a q e w pa bs).agenda = s.agenda := State.touch_agenda _ _
@[simp] theorem State.write_tick (s : State) (a : AgentId) (q : Point) (e : Bool) (w pa : Nat) (bs : List Byte) : (s.write a q e w pa bs).tick = s.tick := State.touch_tick _ _

/-! ### State.insertWrite -/

@[simp] theorem State.insertWrite_cur (s : State) (sees : PendWrite → Bool) (w : PendWrite) : (s.insertWrite sees w).cur = s.cur := State.touch_cur _ _
@[simp] theorem State.insertWrite_hart (s : State) (sees : PendWrite → Bool) (w : PendWrite) : (s.insertWrite sees w).hart = s.hart := State.touch_hart _ _
@[simp] theorem State.insertWrite_others (s : State) (sees : PendWrite → Bool) (w : PendWrite) : (s.insertWrite sees w).others = s.others := State.touch_others _ _
@[simp] theorem State.insertWrite_cores (s : State) (sees : PendWrite → Bool) (w : PendWrite) : (s.insertWrite sees w).cores = s.cores := State.touch_cores _ _
@[simp] theorem State.insertWrite_clusters (s : State) (sees : PendWrite → Bool) (w : PendWrite) : (s.insertWrite sees w).clusters = s.clusters := State.touch_clusters _ _
@[simp] theorem State.insertWrite_links (s : State) (sees : PendWrite → Bool) (w : PendWrite) : (s.insertWrite sees w).links = s.links := State.touch_links _ _
@[simp] theorem State.insertWrite_releases (s : State) (sees : PendWrite → Bool) (w : PendWrite) : (s.insertWrite sees w).releases = s.releases := State.touch_releases _ _
@[simp] theorem State.insertWrite_posted (s : State) (sees : PendWrite → Bool) (w : PendWrite) : (s.insertWrite sees w).posted = s.posted := State.touch_posted _ _
@[simp] theorem State.insertWrite_crews (s : State) (sees : PendWrite → Bool) (w : PendWrite) : (s.insertWrite sees w).crews = s.crews := State.touch_crews _ _
@[simp] theorem State.insertWrite_pieces (s : State) (sees : PendWrite → Bool) (w : PendWrite) : (s.insertWrite sees w).pieces = s.pieces := State.touch_pieces _ _
@[simp] theorem State.insertWrite_launches (s : State) (sees : PendWrite → Bool) (w : PendWrite) : (s.insertWrite sees w).launches = s.launches := State.touch_launches _ _
@[simp] theorem State.insertWrite_queues (s : State) (sees : PendWrite → Bool) (w : PendWrite) : (s.insertWrite sees w).queues = s.queues := State.touch_queues _ _
@[simp] theorem State.insertWrite_saved (s : State) (sees : PendWrite → Bool) (w : PendWrite) : (s.insertWrite sees w).saved = s.saved := State.touch_saved _ _
@[simp] theorem State.insertWrite_moving (s : State) (sees : PendWrite → Bool) (w : PendWrite) : (s.insertWrite sees w).moving = s.moving := State.touch_moving _ _
@[simp] theorem State.insertWrite_regs (s : State) (sees : PendWrite → Bool) (w : PendWrite) : (s.insertWrite sees w).regs = s.regs := State.touch_regs _ _
@[simp] theorem State.insertWrite_msix (s : State) (sees : PendWrite → Bool) (w : PendWrite) : (s.insertWrite sees w).msix = s.msix := State.touch_msix _ _
@[simp] theorem State.insertWrite_keys (s : State) (sees : PendWrite → Bool) (w : PendWrite) : (s.insertWrite sees w).keys = s.keys := State.touch_keys _ _
@[simp] theorem State.insertWrite_power (s : State) (sees : PendWrite → Bool) (w : PendWrite) : (s.insertWrite sees w).power = s.power := State.touch_power _ _
@[simp] theorem State.insertWrite_epoch (s : State) (sees : PendWrite → Bool) (w : PendWrite) : (s.insertWrite sees w).epoch = s.epoch := State.touch_epoch _ _
@[simp] theorem State.insertWrite_clk (s : State) (sees : PendWrite → Bool) (w : PendWrite) : (s.insertWrite sees w).clk = s.clk := State.touch_clk _ _
@[simp] theorem State.insertWrite_powered (s : State) (sees : PendWrite → Bool) (w : PendWrite) : (s.insertWrite sees w).powered = s.powered := State.touch_powered _ _
@[simp] theorem State.insertWrite_held (s : State) (sees : PendWrite → Bool) (w : PendWrite) : (s.insertWrite sees w).held = s.held := State.touch_held _ _
@[simp] theorem State.insertWrite_frozen (s : State) (sees : PendWrite → Bool) (w : PendWrite) : (s.insertWrite sees w).frozen = s.frozen := State.touch_frozen _ _
@[simp] theorem State.insertWrite_hostOut (s : State) (sees : PendWrite → Bool) (w : PendWrite) : (s.insertWrite sees w).hostOut = s.hostOut := State.touch_hostOut _ _
@[simp] theorem State.insertWrite_portMet (s : State) (sees : PendWrite → Bool) (w : PendWrite) : (s.insertWrite sees w).portMet = s.portMet := State.touch_portMet _ _
@[simp] theorem State.insertWrite_agenda (s : State) (sees : PendWrite → Bool) (w : PendWrite) : (s.insertWrite sees w).agenda = s.agenda := State.touch_agenda _ _
@[simp] theorem State.insertWrite_tick (s : State) (sees : PendWrite → Bool) (w : PendWrite) : (s.insertWrite sees w).tick = s.tick := State.touch_tick _ _

/-! ### State.amoPut -/

@[simp] theorem State.amoPut_cur (s : State) (a : AgentId) (pa : Nat) (bs : List Byte) : (s.amoPut a pa bs).cur = s.cur := State.insertWrite_cur _ _ _
@[simp] theorem State.amoPut_hart (s : State) (a : AgentId) (pa : Nat) (bs : List Byte) : (s.amoPut a pa bs).hart = s.hart := State.insertWrite_hart _ _ _
@[simp] theorem State.amoPut_others (s : State) (a : AgentId) (pa : Nat) (bs : List Byte) : (s.amoPut a pa bs).others = s.others := State.insertWrite_others _ _ _
@[simp] theorem State.amoPut_cores (s : State) (a : AgentId) (pa : Nat) (bs : List Byte) : (s.amoPut a pa bs).cores = s.cores := State.insertWrite_cores _ _ _
@[simp] theorem State.amoPut_clusters (s : State) (a : AgentId) (pa : Nat) (bs : List Byte) : (s.amoPut a pa bs).clusters = s.clusters := State.insertWrite_clusters _ _ _
@[simp] theorem State.amoPut_links (s : State) (a : AgentId) (pa : Nat) (bs : List Byte) : (s.amoPut a pa bs).links = s.links := State.insertWrite_links _ _ _
@[simp] theorem State.amoPut_releases (s : State) (a : AgentId) (pa : Nat) (bs : List Byte) : (s.amoPut a pa bs).releases = s.releases := State.insertWrite_releases _ _ _
@[simp] theorem State.amoPut_posted (s : State) (a : AgentId) (pa : Nat) (bs : List Byte) : (s.amoPut a pa bs).posted = s.posted := State.insertWrite_posted _ _ _
@[simp] theorem State.amoPut_crews (s : State) (a : AgentId) (pa : Nat) (bs : List Byte) : (s.amoPut a pa bs).crews = s.crews := State.insertWrite_crews _ _ _
@[simp] theorem State.amoPut_pieces (s : State) (a : AgentId) (pa : Nat) (bs : List Byte) : (s.amoPut a pa bs).pieces = s.pieces := State.insertWrite_pieces _ _ _
@[simp] theorem State.amoPut_launches (s : State) (a : AgentId) (pa : Nat) (bs : List Byte) : (s.amoPut a pa bs).launches = s.launches := State.insertWrite_launches _ _ _
@[simp] theorem State.amoPut_queues (s : State) (a : AgentId) (pa : Nat) (bs : List Byte) : (s.amoPut a pa bs).queues = s.queues := State.insertWrite_queues _ _ _
@[simp] theorem State.amoPut_saved (s : State) (a : AgentId) (pa : Nat) (bs : List Byte) : (s.amoPut a pa bs).saved = s.saved := State.insertWrite_saved _ _ _
@[simp] theorem State.amoPut_moving (s : State) (a : AgentId) (pa : Nat) (bs : List Byte) : (s.amoPut a pa bs).moving = s.moving := State.insertWrite_moving _ _ _
@[simp] theorem State.amoPut_regs (s : State) (a : AgentId) (pa : Nat) (bs : List Byte) : (s.amoPut a pa bs).regs = s.regs := State.insertWrite_regs _ _ _
@[simp] theorem State.amoPut_msix (s : State) (a : AgentId) (pa : Nat) (bs : List Byte) : (s.amoPut a pa bs).msix = s.msix := State.insertWrite_msix _ _ _
@[simp] theorem State.amoPut_keys (s : State) (a : AgentId) (pa : Nat) (bs : List Byte) : (s.amoPut a pa bs).keys = s.keys := State.insertWrite_keys _ _ _
@[simp] theorem State.amoPut_power (s : State) (a : AgentId) (pa : Nat) (bs : List Byte) : (s.amoPut a pa bs).power = s.power := State.insertWrite_power _ _ _
@[simp] theorem State.amoPut_epoch (s : State) (a : AgentId) (pa : Nat) (bs : List Byte) : (s.amoPut a pa bs).epoch = s.epoch := State.insertWrite_epoch _ _ _
@[simp] theorem State.amoPut_clk (s : State) (a : AgentId) (pa : Nat) (bs : List Byte) : (s.amoPut a pa bs).clk = s.clk := State.insertWrite_clk _ _ _
@[simp] theorem State.amoPut_powered (s : State) (a : AgentId) (pa : Nat) (bs : List Byte) : (s.amoPut a pa bs).powered = s.powered := State.insertWrite_powered _ _ _
@[simp] theorem State.amoPut_held (s : State) (a : AgentId) (pa : Nat) (bs : List Byte) : (s.amoPut a pa bs).held = s.held := State.insertWrite_held _ _ _
@[simp] theorem State.amoPut_frozen (s : State) (a : AgentId) (pa : Nat) (bs : List Byte) : (s.amoPut a pa bs).frozen = s.frozen := State.insertWrite_frozen _ _ _
@[simp] theorem State.amoPut_hostOut (s : State) (a : AgentId) (pa : Nat) (bs : List Byte) : (s.amoPut a pa bs).hostOut = s.hostOut := State.insertWrite_hostOut _ _ _
@[simp] theorem State.amoPut_portMet (s : State) (a : AgentId) (pa : Nat) (bs : List Byte) : (s.amoPut a pa bs).portMet = s.portMet := State.insertWrite_portMet _ _ _
@[simp] theorem State.amoPut_agenda (s : State) (a : AgentId) (pa : Nat) (bs : List Byte) : (s.amoPut a pa bs).agenda = s.agenda := State.insertWrite_agenda _ _ _
@[simp] theorem State.amoPut_tick (s : State) (a : AgentId) (pa : Nat) (bs : List Byte) : (s.amoPut a pa bs).tick = s.tick := State.insertWrite_tick _ _ _

/-! ### State.writeNibble -/

@[simp] theorem State.writeNibble_cur (s : State) (a : AgentId) (q : Point) (w pa n v : Nat) : (s.writeNibble a q w pa n v).cur = s.cur := State.touch_cur _ _
@[simp] theorem State.writeNibble_hart (s : State) (a : AgentId) (q : Point) (w pa n v : Nat) : (s.writeNibble a q w pa n v).hart = s.hart := State.touch_hart _ _
@[simp] theorem State.writeNibble_others (s : State) (a : AgentId) (q : Point) (w pa n v : Nat) : (s.writeNibble a q w pa n v).others = s.others := State.touch_others _ _
@[simp] theorem State.writeNibble_cores (s : State) (a : AgentId) (q : Point) (w pa n v : Nat) : (s.writeNibble a q w pa n v).cores = s.cores := State.touch_cores _ _
@[simp] theorem State.writeNibble_clusters (s : State) (a : AgentId) (q : Point) (w pa n v : Nat) : (s.writeNibble a q w pa n v).clusters = s.clusters := State.touch_clusters _ _
@[simp] theorem State.writeNibble_links (s : State) (a : AgentId) (q : Point) (w pa n v : Nat) : (s.writeNibble a q w pa n v).links = s.links := State.touch_links _ _
@[simp] theorem State.writeNibble_releases (s : State) (a : AgentId) (q : Point) (w pa n v : Nat) : (s.writeNibble a q w pa n v).releases = s.releases := State.touch_releases _ _
@[simp] theorem State.writeNibble_posted (s : State) (a : AgentId) (q : Point) (w pa n v : Nat) : (s.writeNibble a q w pa n v).posted = s.posted := State.touch_posted _ _
@[simp] theorem State.writeNibble_crews (s : State) (a : AgentId) (q : Point) (w pa n v : Nat) : (s.writeNibble a q w pa n v).crews = s.crews := State.touch_crews _ _
@[simp] theorem State.writeNibble_pieces (s : State) (a : AgentId) (q : Point) (w pa n v : Nat) : (s.writeNibble a q w pa n v).pieces = s.pieces := State.touch_pieces _ _
@[simp] theorem State.writeNibble_launches (s : State) (a : AgentId) (q : Point) (w pa n v : Nat) : (s.writeNibble a q w pa n v).launches = s.launches := State.touch_launches _ _
@[simp] theorem State.writeNibble_queues (s : State) (a : AgentId) (q : Point) (w pa n v : Nat) : (s.writeNibble a q w pa n v).queues = s.queues := State.touch_queues _ _
@[simp] theorem State.writeNibble_saved (s : State) (a : AgentId) (q : Point) (w pa n v : Nat) : (s.writeNibble a q w pa n v).saved = s.saved := State.touch_saved _ _
@[simp] theorem State.writeNibble_moving (s : State) (a : AgentId) (q : Point) (w pa n v : Nat) : (s.writeNibble a q w pa n v).moving = s.moving := State.touch_moving _ _
@[simp] theorem State.writeNibble_regs (s : State) (a : AgentId) (q : Point) (w pa n v : Nat) : (s.writeNibble a q w pa n v).regs = s.regs := State.touch_regs _ _
@[simp] theorem State.writeNibble_msix (s : State) (a : AgentId) (q : Point) (w pa n v : Nat) : (s.writeNibble a q w pa n v).msix = s.msix := State.touch_msix _ _
@[simp] theorem State.writeNibble_keys (s : State) (a : AgentId) (q : Point) (w pa n v : Nat) : (s.writeNibble a q w pa n v).keys = s.keys := State.touch_keys _ _
@[simp] theorem State.writeNibble_power (s : State) (a : AgentId) (q : Point) (w pa n v : Nat) : (s.writeNibble a q w pa n v).power = s.power := State.touch_power _ _
@[simp] theorem State.writeNibble_epoch (s : State) (a : AgentId) (q : Point) (w pa n v : Nat) : (s.writeNibble a q w pa n v).epoch = s.epoch := State.touch_epoch _ _
@[simp] theorem State.writeNibble_clk (s : State) (a : AgentId) (q : Point) (w pa n v : Nat) : (s.writeNibble a q w pa n v).clk = s.clk := State.touch_clk _ _
@[simp] theorem State.writeNibble_powered (s : State) (a : AgentId) (q : Point) (w pa n v : Nat) : (s.writeNibble a q w pa n v).powered = s.powered := State.touch_powered _ _
@[simp] theorem State.writeNibble_held (s : State) (a : AgentId) (q : Point) (w pa n v : Nat) : (s.writeNibble a q w pa n v).held = s.held := State.touch_held _ _
@[simp] theorem State.writeNibble_frozen (s : State) (a : AgentId) (q : Point) (w pa n v : Nat) : (s.writeNibble a q w pa n v).frozen = s.frozen := State.touch_frozen _ _
@[simp] theorem State.writeNibble_hostOut (s : State) (a : AgentId) (q : Point) (w pa n v : Nat) : (s.writeNibble a q w pa n v).hostOut = s.hostOut := State.touch_hostOut _ _
@[simp] theorem State.writeNibble_portMet (s : State) (a : AgentId) (q : Point) (w pa n v : Nat) : (s.writeNibble a q w pa n v).portMet = s.portMet := State.touch_portMet _ _
@[simp] theorem State.writeNibble_agenda (s : State) (a : AgentId) (q : Point) (w pa n v : Nat) : (s.writeNibble a q w pa n v).agenda = s.agenda := State.touch_agenda _ _
@[simp] theorem State.writeNibble_tick (s : State) (a : AgentId) (q : Point) (w pa n v : Nat) : (s.writeNibble a q w pa n v).tick = s.tick := State.touch_tick _ _

/-! ### State.setX -/

@[simp] theorem State.setX_cur (s : State) (r : Reg) (v : Word) : (s.setX r v).cur = s.cur := rfl
@[simp] theorem State.setX_others (s : State) (r : Reg) (v : Word) : (s.setX r v).others = s.others := rfl
@[simp] theorem State.setX_cores (s : State) (r : Reg) (v : Word) : (s.setX r v).cores = s.cores := rfl
@[simp] theorem State.setX_clusters (s : State) (r : Reg) (v : Word) : (s.setX r v).clusters = s.clusters := rfl
@[simp] theorem State.setX_dies (s : State) (r : Reg) (v : Word) : (s.setX r v).dies = s.dies := rfl
@[simp] theorem State.setX_links (s : State) (r : Reg) (v : Word) : (s.setX r v).links = s.links := rfl
@[simp] theorem State.setX_mem (s : State) (r : Reg) (v : Word) : (s.setX r v).mem = s.mem := rfl
@[simp] theorem State.setX_poison (s : State) (r : Reg) (v : Word) : (s.setX r v).poison = s.poison := rfl
@[simp] theorem State.setX_pend (s : State) (r : Reg) (v : Word) : (s.setX r v).pend = s.pend := rfl
@[simp] theorem State.setX_releases (s : State) (r : Reg) (v : Word) : (s.setX r v).releases = s.releases := rfl
@[simp] theorem State.setX_posted (s : State) (r : Reg) (v : Word) : (s.setX r v).posted = s.posted := rfl
@[simp] theorem State.setX_crews (s : State) (r : Reg) (v : Word) : (s.setX r v).crews = s.crews := rfl
@[simp] theorem State.setX_pieces (s : State) (r : Reg) (v : Word) : (s.setX r v).pieces = s.pieces := rfl
@[simp] theorem State.setX_launches (s : State) (r : Reg) (v : Word) : (s.setX r v).launches = s.launches := rfl
@[simp] theorem State.setX_queues (s : State) (r : Reg) (v : Word) : (s.setX r v).queues = s.queues := rfl
@[simp] theorem State.setX_saved (s : State) (r : Reg) (v : Word) : (s.setX r v).saved = s.saved := rfl
@[simp] theorem State.setX_moving (s : State) (r : Reg) (v : Word) : (s.setX r v).moving = s.moving := rfl
@[simp] theorem State.setX_regs (s : State) (r : Reg) (v : Word) : (s.setX r v).regs = s.regs := rfl
@[simp] theorem State.setX_msix (s : State) (r : Reg) (v : Word) : (s.setX r v).msix = s.msix := rfl
@[simp] theorem State.setX_keys (s : State) (r : Reg) (v : Word) : (s.setX r v).keys = s.keys := rfl
@[simp] theorem State.setX_power (s : State) (r : Reg) (v : Word) : (s.setX r v).power = s.power := rfl
@[simp] theorem State.setX_epoch (s : State) (r : Reg) (v : Word) : (s.setX r v).epoch = s.epoch := rfl
@[simp] theorem State.setX_clk (s : State) (r : Reg) (v : Word) : (s.setX r v).clk = s.clk := rfl
@[simp] theorem State.setX_powered (s : State) (r : Reg) (v : Word) : (s.setX r v).powered = s.powered := rfl
@[simp] theorem State.setX_held (s : State) (r : Reg) (v : Word) : (s.setX r v).held = s.held := rfl
@[simp] theorem State.setX_frozen (s : State) (r : Reg) (v : Word) : (s.setX r v).frozen = s.frozen := rfl
@[simp] theorem State.setX_hostOut (s : State) (r : Reg) (v : Word) : (s.setX r v).hostOut = s.hostOut := rfl
@[simp] theorem State.setX_portMet (s : State) (r : Reg) (v : Word) : (s.setX r v).portMet = s.portMet := rfl
@[simp] theorem State.setX_agenda (s : State) (r : Reg) (v : Word) : (s.setX r v).agenda = s.agenda := rfl
@[simp] theorem State.setX_tick (s : State) (r : Reg) (v : Word) : (s.setX r v).tick = s.tick := rfl

/-! ### State.withHart -/

@[simp] theorem State.withHart_cur (s : State) (f : Hart → Hart) : (s.withHart f).cur = s.cur := rfl
@[simp] theorem State.withHart_others (s : State) (f : Hart → Hart) : (s.withHart f).others = s.others := rfl
@[simp] theorem State.withHart_cores (s : State) (f : Hart → Hart) : (s.withHart f).cores = s.cores := rfl
@[simp] theorem State.withHart_clusters (s : State) (f : Hart → Hart) : (s.withHart f).clusters = s.clusters := rfl
@[simp] theorem State.withHart_dies (s : State) (f : Hart → Hart) : (s.withHart f).dies = s.dies := rfl
@[simp] theorem State.withHart_links (s : State) (f : Hart → Hart) : (s.withHart f).links = s.links := rfl
@[simp] theorem State.withHart_mem (s : State) (f : Hart → Hart) : (s.withHart f).mem = s.mem := rfl
@[simp] theorem State.withHart_poison (s : State) (f : Hart → Hart) : (s.withHart f).poison = s.poison := rfl
@[simp] theorem State.withHart_pend (s : State) (f : Hart → Hart) : (s.withHart f).pend = s.pend := rfl
@[simp] theorem State.withHart_releases (s : State) (f : Hart → Hart) : (s.withHart f).releases = s.releases := rfl
@[simp] theorem State.withHart_posted (s : State) (f : Hart → Hart) : (s.withHart f).posted = s.posted := rfl
@[simp] theorem State.withHart_crews (s : State) (f : Hart → Hart) : (s.withHart f).crews = s.crews := rfl
@[simp] theorem State.withHart_pieces (s : State) (f : Hart → Hart) : (s.withHart f).pieces = s.pieces := rfl
@[simp] theorem State.withHart_launches (s : State) (f : Hart → Hart) : (s.withHart f).launches = s.launches := rfl
@[simp] theorem State.withHart_queues (s : State) (f : Hart → Hart) : (s.withHart f).queues = s.queues := rfl
@[simp] theorem State.withHart_saved (s : State) (f : Hart → Hart) : (s.withHart f).saved = s.saved := rfl
@[simp] theorem State.withHart_moving (s : State) (f : Hart → Hart) : (s.withHart f).moving = s.moving := rfl
@[simp] theorem State.withHart_regs (s : State) (f : Hart → Hart) : (s.withHart f).regs = s.regs := rfl
@[simp] theorem State.withHart_msix (s : State) (f : Hart → Hart) : (s.withHart f).msix = s.msix := rfl
@[simp] theorem State.withHart_keys (s : State) (f : Hart → Hart) : (s.withHart f).keys = s.keys := rfl
@[simp] theorem State.withHart_power (s : State) (f : Hart → Hart) : (s.withHart f).power = s.power := rfl
@[simp] theorem State.withHart_epoch (s : State) (f : Hart → Hart) : (s.withHart f).epoch = s.epoch := rfl
@[simp] theorem State.withHart_clk (s : State) (f : Hart → Hart) : (s.withHart f).clk = s.clk := rfl
@[simp] theorem State.withHart_powered (s : State) (f : Hart → Hart) : (s.withHart f).powered = s.powered := rfl
@[simp] theorem State.withHart_held (s : State) (f : Hart → Hart) : (s.withHart f).held = s.held := rfl
@[simp] theorem State.withHart_frozen (s : State) (f : Hart → Hart) : (s.withHart f).frozen = s.frozen := rfl
@[simp] theorem State.withHart_hostOut (s : State) (f : Hart → Hart) : (s.withHart f).hostOut = s.hostOut := rfl
@[simp] theorem State.withHart_portMet (s : State) (f : Hart → Hart) : (s.withHart f).portMet = s.portMet := rfl
@[simp] theorem State.withHart_agenda (s : State) (f : Hart → Hart) : (s.withHart f).agenda = s.agenda := rfl
@[simp] theorem State.withHart_tick (s : State) (f : Hart → Hart) : (s.withHart f).tick = s.tick := rfl

/-! ### State.retire -/

@[simp] theorem State.retire_cur (s : State) : (s.retire).cur = s.cur := rfl
@[simp] theorem State.retire_others (s : State) : (s.retire).others = s.others := rfl
@[simp] theorem State.retire_cores (s : State) : (s.retire).cores = s.cores := rfl
@[simp] theorem State.retire_clusters (s : State) : (s.retire).clusters = s.clusters := rfl
@[simp] theorem State.retire_dies (s : State) : (s.retire).dies = s.dies := rfl
@[simp] theorem State.retire_links (s : State) : (s.retire).links = s.links := rfl
@[simp] theorem State.retire_mem (s : State) : (s.retire).mem = s.mem := rfl
@[simp] theorem State.retire_poison (s : State) : (s.retire).poison = s.poison := rfl
@[simp] theorem State.retire_pend (s : State) : (s.retire).pend = s.pend := rfl
@[simp] theorem State.retire_releases (s : State) : (s.retire).releases = s.releases := rfl
@[simp] theorem State.retire_posted (s : State) : (s.retire).posted = s.posted := rfl
@[simp] theorem State.retire_crews (s : State) : (s.retire).crews = s.crews := rfl
@[simp] theorem State.retire_pieces (s : State) : (s.retire).pieces = s.pieces := rfl
@[simp] theorem State.retire_launches (s : State) : (s.retire).launches = s.launches := rfl
@[simp] theorem State.retire_queues (s : State) : (s.retire).queues = s.queues := rfl
@[simp] theorem State.retire_saved (s : State) : (s.retire).saved = s.saved := rfl
@[simp] theorem State.retire_moving (s : State) : (s.retire).moving = s.moving := rfl
@[simp] theorem State.retire_regs (s : State) : (s.retire).regs = s.regs := rfl
@[simp] theorem State.retire_msix (s : State) : (s.retire).msix = s.msix := rfl
@[simp] theorem State.retire_keys (s : State) : (s.retire).keys = s.keys := rfl
@[simp] theorem State.retire_power (s : State) : (s.retire).power = s.power := rfl
@[simp] theorem State.retire_epoch (s : State) : (s.retire).epoch = s.epoch := rfl
@[simp] theorem State.retire_clk (s : State) : (s.retire).clk = s.clk := rfl
@[simp] theorem State.retire_powered (s : State) : (s.retire).powered = s.powered := rfl
@[simp] theorem State.retire_held (s : State) : (s.retire).held = s.held := rfl
@[simp] theorem State.retire_frozen (s : State) : (s.retire).frozen = s.frozen := rfl
@[simp] theorem State.retire_hostOut (s : State) : (s.retire).hostOut = s.hostOut := rfl
@[simp] theorem State.retire_portMet (s : State) : (s.retire).portMet = s.portMet := rfl
@[simp] theorem State.retire_agenda (s : State) : (s.retire).agenda = s.agenda := rfl
@[simp] theorem State.retire_tick (s : State) : (s.retire).tick = s.tick := rfl

/-! ### State.trap -/

@[simp] theorem State.trap_cur (s : State) (t : Trap) : (s.trap t).cur = s.cur := rfl
@[simp] theorem State.trap_others (s : State) (t : Trap) : (s.trap t).others = s.others := rfl
@[simp] theorem State.trap_cores (s : State) (t : Trap) : (s.trap t).cores = s.cores := rfl
@[simp] theorem State.trap_clusters (s : State) (t : Trap) : (s.trap t).clusters = s.clusters := rfl
@[simp] theorem State.trap_dies (s : State) (t : Trap) : (s.trap t).dies = s.dies := rfl
@[simp] theorem State.trap_links (s : State) (t : Trap) : (s.trap t).links = s.links := rfl
@[simp] theorem State.trap_mem (s : State) (t : Trap) : (s.trap t).mem = s.mem := rfl
@[simp] theorem State.trap_poison (s : State) (t : Trap) : (s.trap t).poison = s.poison := rfl
@[simp] theorem State.trap_pend (s : State) (t : Trap) : (s.trap t).pend = s.pend := rfl
@[simp] theorem State.trap_releases (s : State) (t : Trap) : (s.trap t).releases = s.releases := rfl
@[simp] theorem State.trap_posted (s : State) (t : Trap) : (s.trap t).posted = s.posted := rfl
@[simp] theorem State.trap_crews (s : State) (t : Trap) : (s.trap t).crews = s.crews := rfl
@[simp] theorem State.trap_pieces (s : State) (t : Trap) : (s.trap t).pieces = s.pieces := rfl
@[simp] theorem State.trap_launches (s : State) (t : Trap) : (s.trap t).launches = s.launches := rfl
@[simp] theorem State.trap_queues (s : State) (t : Trap) : (s.trap t).queues = s.queues := rfl
@[simp] theorem State.trap_saved (s : State) (t : Trap) : (s.trap t).saved = s.saved := rfl
@[simp] theorem State.trap_moving (s : State) (t : Trap) : (s.trap t).moving = s.moving := rfl
@[simp] theorem State.trap_regs (s : State) (t : Trap) : (s.trap t).regs = s.regs := rfl
@[simp] theorem State.trap_msix (s : State) (t : Trap) : (s.trap t).msix = s.msix := rfl
@[simp] theorem State.trap_keys (s : State) (t : Trap) : (s.trap t).keys = s.keys := rfl
@[simp] theorem State.trap_power (s : State) (t : Trap) : (s.trap t).power = s.power := rfl
@[simp] theorem State.trap_epoch (s : State) (t : Trap) : (s.trap t).epoch = s.epoch := rfl
@[simp] theorem State.trap_clk (s : State) (t : Trap) : (s.trap t).clk = s.clk := rfl
@[simp] theorem State.trap_powered (s : State) (t : Trap) : (s.trap t).powered = s.powered := rfl
@[simp] theorem State.trap_held (s : State) (t : Trap) : (s.trap t).held = s.held := rfl
@[simp] theorem State.trap_frozen (s : State) (t : Trap) : (s.trap t).frozen = s.frozen := rfl
@[simp] theorem State.trap_hostOut (s : State) (t : Trap) : (s.trap t).hostOut = s.hostOut := rfl
@[simp] theorem State.trap_portMet (s : State) (t : Trap) : (s.trap t).portMet = s.portMet := rfl
@[simp] theorem State.trap_agenda (s : State) (t : Trap) : (s.trap t).agenda = s.agenda := rfl
@[simp] theorem State.trap_tick (s : State) (t : Trap) : (s.trap t).tick = s.tick := rfl

/-! ### State.raiseF -/

@[simp] theorem State.raiseF_cur (s : State) (fl : Nat) : (s.raiseF fl).cur = s.cur := rfl
@[simp] theorem State.raiseF_others (s : State) (fl : Nat) : (s.raiseF fl).others = s.others := rfl
@[simp] theorem State.raiseF_cores (s : State) (fl : Nat) : (s.raiseF fl).cores = s.cores := rfl
@[simp] theorem State.raiseF_clusters (s : State) (fl : Nat) : (s.raiseF fl).clusters = s.clusters := rfl
@[simp] theorem State.raiseF_dies (s : State) (fl : Nat) : (s.raiseF fl).dies = s.dies := rfl
@[simp] theorem State.raiseF_links (s : State) (fl : Nat) : (s.raiseF fl).links = s.links := rfl
@[simp] theorem State.raiseF_mem (s : State) (fl : Nat) : (s.raiseF fl).mem = s.mem := rfl
@[simp] theorem State.raiseF_poison (s : State) (fl : Nat) : (s.raiseF fl).poison = s.poison := rfl
@[simp] theorem State.raiseF_pend (s : State) (fl : Nat) : (s.raiseF fl).pend = s.pend := rfl
@[simp] theorem State.raiseF_releases (s : State) (fl : Nat) : (s.raiseF fl).releases = s.releases := rfl
@[simp] theorem State.raiseF_posted (s : State) (fl : Nat) : (s.raiseF fl).posted = s.posted := rfl
@[simp] theorem State.raiseF_crews (s : State) (fl : Nat) : (s.raiseF fl).crews = s.crews := rfl
@[simp] theorem State.raiseF_pieces (s : State) (fl : Nat) : (s.raiseF fl).pieces = s.pieces := rfl
@[simp] theorem State.raiseF_launches (s : State) (fl : Nat) : (s.raiseF fl).launches = s.launches := rfl
@[simp] theorem State.raiseF_queues (s : State) (fl : Nat) : (s.raiseF fl).queues = s.queues := rfl
@[simp] theorem State.raiseF_saved (s : State) (fl : Nat) : (s.raiseF fl).saved = s.saved := rfl
@[simp] theorem State.raiseF_moving (s : State) (fl : Nat) : (s.raiseF fl).moving = s.moving := rfl
@[simp] theorem State.raiseF_regs (s : State) (fl : Nat) : (s.raiseF fl).regs = s.regs := rfl
@[simp] theorem State.raiseF_msix (s : State) (fl : Nat) : (s.raiseF fl).msix = s.msix := rfl
@[simp] theorem State.raiseF_keys (s : State) (fl : Nat) : (s.raiseF fl).keys = s.keys := rfl
@[simp] theorem State.raiseF_power (s : State) (fl : Nat) : (s.raiseF fl).power = s.power := rfl
@[simp] theorem State.raiseF_epoch (s : State) (fl : Nat) : (s.raiseF fl).epoch = s.epoch := rfl
@[simp] theorem State.raiseF_clk (s : State) (fl : Nat) : (s.raiseF fl).clk = s.clk := rfl
@[simp] theorem State.raiseF_powered (s : State) (fl : Nat) : (s.raiseF fl).powered = s.powered := rfl
@[simp] theorem State.raiseF_held (s : State) (fl : Nat) : (s.raiseF fl).held = s.held := rfl
@[simp] theorem State.raiseF_frozen (s : State) (fl : Nat) : (s.raiseF fl).frozen = s.frozen := rfl
@[simp] theorem State.raiseF_hostOut (s : State) (fl : Nat) : (s.raiseF fl).hostOut = s.hostOut := rfl
@[simp] theorem State.raiseF_portMet (s : State) (fl : Nat) : (s.raiseF fl).portMet = s.portMet := rfl
@[simp] theorem State.raiseF_agenda (s : State) (fl : Nat) : (s.raiseF fl).agenda = s.agenda := rfl
@[simp] theorem State.raiseF_tick (s : State) (fl : Nat) : (s.raiseF fl).tick = s.tick := rfl

/-! ### State.raiseI -/

@[simp] theorem State.raiseI_cur (s : State) (fl : Nat) : (s.raiseI fl).cur = s.cur := rfl
@[simp] theorem State.raiseI_others (s : State) (fl : Nat) : (s.raiseI fl).others = s.others := rfl
@[simp] theorem State.raiseI_cores (s : State) (fl : Nat) : (s.raiseI fl).cores = s.cores := rfl
@[simp] theorem State.raiseI_clusters (s : State) (fl : Nat) : (s.raiseI fl).clusters = s.clusters := rfl
@[simp] theorem State.raiseI_dies (s : State) (fl : Nat) : (s.raiseI fl).dies = s.dies := rfl
@[simp] theorem State.raiseI_links (s : State) (fl : Nat) : (s.raiseI fl).links = s.links := rfl
@[simp] theorem State.raiseI_mem (s : State) (fl : Nat) : (s.raiseI fl).mem = s.mem := rfl
@[simp] theorem State.raiseI_poison (s : State) (fl : Nat) : (s.raiseI fl).poison = s.poison := rfl
@[simp] theorem State.raiseI_pend (s : State) (fl : Nat) : (s.raiseI fl).pend = s.pend := rfl
@[simp] theorem State.raiseI_releases (s : State) (fl : Nat) : (s.raiseI fl).releases = s.releases := rfl
@[simp] theorem State.raiseI_posted (s : State) (fl : Nat) : (s.raiseI fl).posted = s.posted := rfl
@[simp] theorem State.raiseI_crews (s : State) (fl : Nat) : (s.raiseI fl).crews = s.crews := rfl
@[simp] theorem State.raiseI_pieces (s : State) (fl : Nat) : (s.raiseI fl).pieces = s.pieces := rfl
@[simp] theorem State.raiseI_launches (s : State) (fl : Nat) : (s.raiseI fl).launches = s.launches := rfl
@[simp] theorem State.raiseI_queues (s : State) (fl : Nat) : (s.raiseI fl).queues = s.queues := rfl
@[simp] theorem State.raiseI_saved (s : State) (fl : Nat) : (s.raiseI fl).saved = s.saved := rfl
@[simp] theorem State.raiseI_moving (s : State) (fl : Nat) : (s.raiseI fl).moving = s.moving := rfl
@[simp] theorem State.raiseI_regs (s : State) (fl : Nat) : (s.raiseI fl).regs = s.regs := rfl
@[simp] theorem State.raiseI_msix (s : State) (fl : Nat) : (s.raiseI fl).msix = s.msix := rfl
@[simp] theorem State.raiseI_keys (s : State) (fl : Nat) : (s.raiseI fl).keys = s.keys := rfl
@[simp] theorem State.raiseI_power (s : State) (fl : Nat) : (s.raiseI fl).power = s.power := rfl
@[simp] theorem State.raiseI_epoch (s : State) (fl : Nat) : (s.raiseI fl).epoch = s.epoch := rfl
@[simp] theorem State.raiseI_clk (s : State) (fl : Nat) : (s.raiseI fl).clk = s.clk := rfl
@[simp] theorem State.raiseI_powered (s : State) (fl : Nat) : (s.raiseI fl).powered = s.powered := rfl
@[simp] theorem State.raiseI_held (s : State) (fl : Nat) : (s.raiseI fl).held = s.held := rfl
@[simp] theorem State.raiseI_frozen (s : State) (fl : Nat) : (s.raiseI fl).frozen = s.frozen := rfl
@[simp] theorem State.raiseI_hostOut (s : State) (fl : Nat) : (s.raiseI fl).hostOut = s.hostOut := rfl
@[simp] theorem State.raiseI_portMet (s : State) (fl : Nat) : (s.raiseI fl).portMet = s.portMet := rfl
@[simp] theorem State.raiseI_agenda (s : State) (fl : Nat) : (s.raiseI fl).agenda = s.agenda := rfl
@[simp] theorem State.raiseI_tick (s : State) (fl : Nat) : (s.raiseI fl).tick = s.tick := rfl

/-! ### State.modCore -/

@[simp] theorem State.modCore_cur (s : State) (c : Nat) (f : Core → Core) : (s.modCore c f).cur = s.cur := rfl
@[simp] theorem State.modCore_hart (s : State) (c : Nat) (f : Core → Core) : (s.modCore c f).hart = s.hart := rfl
@[simp] theorem State.modCore_others (s : State) (c : Nat) (f : Core → Core) : (s.modCore c f).others = s.others := rfl
@[simp] theorem State.modCore_clusters (s : State) (c : Nat) (f : Core → Core) : (s.modCore c f).clusters = s.clusters := rfl
@[simp] theorem State.modCore_dies (s : State) (c : Nat) (f : Core → Core) : (s.modCore c f).dies = s.dies := rfl
@[simp] theorem State.modCore_links (s : State) (c : Nat) (f : Core → Core) : (s.modCore c f).links = s.links := rfl
@[simp] theorem State.modCore_mem (s : State) (c : Nat) (f : Core → Core) : (s.modCore c f).mem = s.mem := rfl
@[simp] theorem State.modCore_poison (s : State) (c : Nat) (f : Core → Core) : (s.modCore c f).poison = s.poison := rfl
@[simp] theorem State.modCore_pend (s : State) (c : Nat) (f : Core → Core) : (s.modCore c f).pend = s.pend := rfl
@[simp] theorem State.modCore_releases (s : State) (c : Nat) (f : Core → Core) : (s.modCore c f).releases = s.releases := rfl
@[simp] theorem State.modCore_posted (s : State) (c : Nat) (f : Core → Core) : (s.modCore c f).posted = s.posted := rfl
@[simp] theorem State.modCore_crews (s : State) (c : Nat) (f : Core → Core) : (s.modCore c f).crews = s.crews := rfl
@[simp] theorem State.modCore_pieces (s : State) (c : Nat) (f : Core → Core) : (s.modCore c f).pieces = s.pieces := rfl
@[simp] theorem State.modCore_launches (s : State) (c : Nat) (f : Core → Core) : (s.modCore c f).launches = s.launches := rfl
@[simp] theorem State.modCore_queues (s : State) (c : Nat) (f : Core → Core) : (s.modCore c f).queues = s.queues := rfl
@[simp] theorem State.modCore_saved (s : State) (c : Nat) (f : Core → Core) : (s.modCore c f).saved = s.saved := rfl
@[simp] theorem State.modCore_moving (s : State) (c : Nat) (f : Core → Core) : (s.modCore c f).moving = s.moving := rfl
@[simp] theorem State.modCore_regs (s : State) (c : Nat) (f : Core → Core) : (s.modCore c f).regs = s.regs := rfl
@[simp] theorem State.modCore_msix (s : State) (c : Nat) (f : Core → Core) : (s.modCore c f).msix = s.msix := rfl
@[simp] theorem State.modCore_keys (s : State) (c : Nat) (f : Core → Core) : (s.modCore c f).keys = s.keys := rfl
@[simp] theorem State.modCore_power (s : State) (c : Nat) (f : Core → Core) : (s.modCore c f).power = s.power := rfl
@[simp] theorem State.modCore_epoch (s : State) (c : Nat) (f : Core → Core) : (s.modCore c f).epoch = s.epoch := rfl
@[simp] theorem State.modCore_clk (s : State) (c : Nat) (f : Core → Core) : (s.modCore c f).clk = s.clk := rfl
@[simp] theorem State.modCore_powered (s : State) (c : Nat) (f : Core → Core) : (s.modCore c f).powered = s.powered := rfl
@[simp] theorem State.modCore_held (s : State) (c : Nat) (f : Core → Core) : (s.modCore c f).held = s.held := rfl
@[simp] theorem State.modCore_frozen (s : State) (c : Nat) (f : Core → Core) : (s.modCore c f).frozen = s.frozen := rfl
@[simp] theorem State.modCore_hostOut (s : State) (c : Nat) (f : Core → Core) : (s.modCore c f).hostOut = s.hostOut := rfl
@[simp] theorem State.modCore_portMet (s : State) (c : Nat) (f : Core → Core) : (s.modCore c f).portMet = s.portMet := rfl
@[simp] theorem State.modCore_agenda (s : State) (c : Nat) (f : Core → Core) : (s.modCore c f).agenda = s.agenda := rfl
@[simp] theorem State.modCore_tick (s : State) (c : Nat) (f : Core → Core) : (s.modCore c f).tick = s.tick := rfl

/-! ### State.withCore -/

@[simp] theorem State.withCore_cur (s : State) (f : Core → Core) : (s.withCore f).cur = s.cur := rfl
@[simp] theorem State.withCore_hart (s : State) (f : Core → Core) : (s.withCore f).hart = s.hart := rfl
@[simp] theorem State.withCore_others (s : State) (f : Core → Core) : (s.withCore f).others = s.others := rfl
@[simp] theorem State.withCore_clusters (s : State) (f : Core → Core) : (s.withCore f).clusters = s.clusters := rfl
@[simp] theorem State.withCore_dies (s : State) (f : Core → Core) : (s.withCore f).dies = s.dies := rfl
@[simp] theorem State.withCore_links (s : State) (f : Core → Core) : (s.withCore f).links = s.links := rfl
@[simp] theorem State.withCore_mem (s : State) (f : Core → Core) : (s.withCore f).mem = s.mem := rfl
@[simp] theorem State.withCore_poison (s : State) (f : Core → Core) : (s.withCore f).poison = s.poison := rfl
@[simp] theorem State.withCore_pend (s : State) (f : Core → Core) : (s.withCore f).pend = s.pend := rfl
@[simp] theorem State.withCore_releases (s : State) (f : Core → Core) : (s.withCore f).releases = s.releases := rfl
@[simp] theorem State.withCore_posted (s : State) (f : Core → Core) : (s.withCore f).posted = s.posted := rfl
@[simp] theorem State.withCore_crews (s : State) (f : Core → Core) : (s.withCore f).crews = s.crews := rfl
@[simp] theorem State.withCore_pieces (s : State) (f : Core → Core) : (s.withCore f).pieces = s.pieces := rfl
@[simp] theorem State.withCore_launches (s : State) (f : Core → Core) : (s.withCore f).launches = s.launches := rfl
@[simp] theorem State.withCore_queues (s : State) (f : Core → Core) : (s.withCore f).queues = s.queues := rfl
@[simp] theorem State.withCore_saved (s : State) (f : Core → Core) : (s.withCore f).saved = s.saved := rfl
@[simp] theorem State.withCore_moving (s : State) (f : Core → Core) : (s.withCore f).moving = s.moving := rfl
@[simp] theorem State.withCore_regs (s : State) (f : Core → Core) : (s.withCore f).regs = s.regs := rfl
@[simp] theorem State.withCore_msix (s : State) (f : Core → Core) : (s.withCore f).msix = s.msix := rfl
@[simp] theorem State.withCore_keys (s : State) (f : Core → Core) : (s.withCore f).keys = s.keys := rfl
@[simp] theorem State.withCore_power (s : State) (f : Core → Core) : (s.withCore f).power = s.power := rfl
@[simp] theorem State.withCore_epoch (s : State) (f : Core → Core) : (s.withCore f).epoch = s.epoch := rfl
@[simp] theorem State.withCore_clk (s : State) (f : Core → Core) : (s.withCore f).clk = s.clk := rfl
@[simp] theorem State.withCore_powered (s : State) (f : Core → Core) : (s.withCore f).powered = s.powered := rfl
@[simp] theorem State.withCore_held (s : State) (f : Core → Core) : (s.withCore f).held = s.held := rfl
@[simp] theorem State.withCore_frozen (s : State) (f : Core → Core) : (s.withCore f).frozen = s.frozen := rfl
@[simp] theorem State.withCore_hostOut (s : State) (f : Core → Core) : (s.withCore f).hostOut = s.hostOut := rfl
@[simp] theorem State.withCore_portMet (s : State) (f : Core → Core) : (s.withCore f).portMet = s.portMet := rfl
@[simp] theorem State.withCore_agenda (s : State) (f : Core → Core) : (s.withCore f).agenda = s.agenda := rfl
@[simp] theorem State.withCore_tick (s : State) (f : Core → Core) : (s.withCore f).tick = s.tick := rfl

/-! ### State.modCluster -/

@[simp] theorem State.modCluster_cur (s : State) (c : Nat) (f : Cluster → Cluster) : (s.modCluster c f).cur = s.cur := rfl
@[simp] theorem State.modCluster_hart (s : State) (c : Nat) (f : Cluster → Cluster) : (s.modCluster c f).hart = s.hart := rfl
@[simp] theorem State.modCluster_others (s : State) (c : Nat) (f : Cluster → Cluster) : (s.modCluster c f).others = s.others := rfl
@[simp] theorem State.modCluster_cores (s : State) (c : Nat) (f : Cluster → Cluster) : (s.modCluster c f).cores = s.cores := rfl
@[simp] theorem State.modCluster_dies (s : State) (c : Nat) (f : Cluster → Cluster) : (s.modCluster c f).dies = s.dies := rfl
@[simp] theorem State.modCluster_links (s : State) (c : Nat) (f : Cluster → Cluster) : (s.modCluster c f).links = s.links := rfl
@[simp] theorem State.modCluster_mem (s : State) (c : Nat) (f : Cluster → Cluster) : (s.modCluster c f).mem = s.mem := rfl
@[simp] theorem State.modCluster_poison (s : State) (c : Nat) (f : Cluster → Cluster) : (s.modCluster c f).poison = s.poison := rfl
@[simp] theorem State.modCluster_pend (s : State) (c : Nat) (f : Cluster → Cluster) : (s.modCluster c f).pend = s.pend := rfl
@[simp] theorem State.modCluster_releases (s : State) (c : Nat) (f : Cluster → Cluster) : (s.modCluster c f).releases = s.releases := rfl
@[simp] theorem State.modCluster_posted (s : State) (c : Nat) (f : Cluster → Cluster) : (s.modCluster c f).posted = s.posted := rfl
@[simp] theorem State.modCluster_crews (s : State) (c : Nat) (f : Cluster → Cluster) : (s.modCluster c f).crews = s.crews := rfl
@[simp] theorem State.modCluster_pieces (s : State) (c : Nat) (f : Cluster → Cluster) : (s.modCluster c f).pieces = s.pieces := rfl
@[simp] theorem State.modCluster_launches (s : State) (c : Nat) (f : Cluster → Cluster) : (s.modCluster c f).launches = s.launches := rfl
@[simp] theorem State.modCluster_queues (s : State) (c : Nat) (f : Cluster → Cluster) : (s.modCluster c f).queues = s.queues := rfl
@[simp] theorem State.modCluster_saved (s : State) (c : Nat) (f : Cluster → Cluster) : (s.modCluster c f).saved = s.saved := rfl
@[simp] theorem State.modCluster_moving (s : State) (c : Nat) (f : Cluster → Cluster) : (s.modCluster c f).moving = s.moving := rfl
@[simp] theorem State.modCluster_regs (s : State) (c : Nat) (f : Cluster → Cluster) : (s.modCluster c f).regs = s.regs := rfl
@[simp] theorem State.modCluster_msix (s : State) (c : Nat) (f : Cluster → Cluster) : (s.modCluster c f).msix = s.msix := rfl
@[simp] theorem State.modCluster_keys (s : State) (c : Nat) (f : Cluster → Cluster) : (s.modCluster c f).keys = s.keys := rfl
@[simp] theorem State.modCluster_power (s : State) (c : Nat) (f : Cluster → Cluster) : (s.modCluster c f).power = s.power := rfl
@[simp] theorem State.modCluster_epoch (s : State) (c : Nat) (f : Cluster → Cluster) : (s.modCluster c f).epoch = s.epoch := rfl
@[simp] theorem State.modCluster_clk (s : State) (c : Nat) (f : Cluster → Cluster) : (s.modCluster c f).clk = s.clk := rfl
@[simp] theorem State.modCluster_powered (s : State) (c : Nat) (f : Cluster → Cluster) : (s.modCluster c f).powered = s.powered := rfl
@[simp] theorem State.modCluster_held (s : State) (c : Nat) (f : Cluster → Cluster) : (s.modCluster c f).held = s.held := rfl
@[simp] theorem State.modCluster_frozen (s : State) (c : Nat) (f : Cluster → Cluster) : (s.modCluster c f).frozen = s.frozen := rfl
@[simp] theorem State.modCluster_hostOut (s : State) (c : Nat) (f : Cluster → Cluster) : (s.modCluster c f).hostOut = s.hostOut := rfl
@[simp] theorem State.modCluster_portMet (s : State) (c : Nat) (f : Cluster → Cluster) : (s.modCluster c f).portMet = s.portMet := rfl
@[simp] theorem State.modCluster_agenda (s : State) (c : Nat) (f : Cluster → Cluster) : (s.modCluster c f).agenda = s.agenda := rfl
@[simp] theorem State.modCluster_tick (s : State) (c : Nat) (f : Cluster → Cluster) : (s.modCluster c f).tick = s.tick := rfl

/-! ### State.withCluster -/

@[simp] theorem State.withCluster_cur (s : State) (f : Cluster → Cluster) : (s.withCluster f).cur = s.cur := rfl
@[simp] theorem State.withCluster_hart (s : State) (f : Cluster → Cluster) : (s.withCluster f).hart = s.hart := rfl
@[simp] theorem State.withCluster_others (s : State) (f : Cluster → Cluster) : (s.withCluster f).others = s.others := rfl
@[simp] theorem State.withCluster_cores (s : State) (f : Cluster → Cluster) : (s.withCluster f).cores = s.cores := rfl
@[simp] theorem State.withCluster_dies (s : State) (f : Cluster → Cluster) : (s.withCluster f).dies = s.dies := rfl
@[simp] theorem State.withCluster_links (s : State) (f : Cluster → Cluster) : (s.withCluster f).links = s.links := rfl
@[simp] theorem State.withCluster_mem (s : State) (f : Cluster → Cluster) : (s.withCluster f).mem = s.mem := rfl
@[simp] theorem State.withCluster_poison (s : State) (f : Cluster → Cluster) : (s.withCluster f).poison = s.poison := rfl
@[simp] theorem State.withCluster_pend (s : State) (f : Cluster → Cluster) : (s.withCluster f).pend = s.pend := rfl
@[simp] theorem State.withCluster_releases (s : State) (f : Cluster → Cluster) : (s.withCluster f).releases = s.releases := rfl
@[simp] theorem State.withCluster_posted (s : State) (f : Cluster → Cluster) : (s.withCluster f).posted = s.posted := rfl
@[simp] theorem State.withCluster_crews (s : State) (f : Cluster → Cluster) : (s.withCluster f).crews = s.crews := rfl
@[simp] theorem State.withCluster_pieces (s : State) (f : Cluster → Cluster) : (s.withCluster f).pieces = s.pieces := rfl
@[simp] theorem State.withCluster_launches (s : State) (f : Cluster → Cluster) : (s.withCluster f).launches = s.launches := rfl
@[simp] theorem State.withCluster_queues (s : State) (f : Cluster → Cluster) : (s.withCluster f).queues = s.queues := rfl
@[simp] theorem State.withCluster_saved (s : State) (f : Cluster → Cluster) : (s.withCluster f).saved = s.saved := rfl
@[simp] theorem State.withCluster_moving (s : State) (f : Cluster → Cluster) : (s.withCluster f).moving = s.moving := rfl
@[simp] theorem State.withCluster_regs (s : State) (f : Cluster → Cluster) : (s.withCluster f).regs = s.regs := rfl
@[simp] theorem State.withCluster_msix (s : State) (f : Cluster → Cluster) : (s.withCluster f).msix = s.msix := rfl
@[simp] theorem State.withCluster_keys (s : State) (f : Cluster → Cluster) : (s.withCluster f).keys = s.keys := rfl
@[simp] theorem State.withCluster_power (s : State) (f : Cluster → Cluster) : (s.withCluster f).power = s.power := rfl
@[simp] theorem State.withCluster_epoch (s : State) (f : Cluster → Cluster) : (s.withCluster f).epoch = s.epoch := rfl
@[simp] theorem State.withCluster_clk (s : State) (f : Cluster → Cluster) : (s.withCluster f).clk = s.clk := rfl
@[simp] theorem State.withCluster_powered (s : State) (f : Cluster → Cluster) : (s.withCluster f).powered = s.powered := rfl
@[simp] theorem State.withCluster_held (s : State) (f : Cluster → Cluster) : (s.withCluster f).held = s.held := rfl
@[simp] theorem State.withCluster_frozen (s : State) (f : Cluster → Cluster) : (s.withCluster f).frozen = s.frozen := rfl
@[simp] theorem State.withCluster_hostOut (s : State) (f : Cluster → Cluster) : (s.withCluster f).hostOut = s.hostOut := rfl
@[simp] theorem State.withCluster_portMet (s : State) (f : Cluster → Cluster) : (s.withCluster f).portMet = s.portMet := rfl
@[simp] theorem State.withCluster_agenda (s : State) (f : Cluster → Cluster) : (s.withCluster f).agenda = s.agenda := rfl
@[simp] theorem State.withCluster_tick (s : State) (f : Cluster → Cluster) : (s.withCluster f).tick = s.tick := rfl

/-! ### State.modDie -/

@[simp] theorem State.modDie_cur (s : State) (d : Nat) (f : Die → Die) : (s.modDie d f).cur = s.cur := rfl
@[simp] theorem State.modDie_hart (s : State) (d : Nat) (f : Die → Die) : (s.modDie d f).hart = s.hart := rfl
@[simp] theorem State.modDie_others (s : State) (d : Nat) (f : Die → Die) : (s.modDie d f).others = s.others := rfl
@[simp] theorem State.modDie_cores (s : State) (d : Nat) (f : Die → Die) : (s.modDie d f).cores = s.cores := rfl
@[simp] theorem State.modDie_clusters (s : State) (d : Nat) (f : Die → Die) : (s.modDie d f).clusters = s.clusters := rfl
@[simp] theorem State.modDie_links (s : State) (d : Nat) (f : Die → Die) : (s.modDie d f).links = s.links := rfl
@[simp] theorem State.modDie_mem (s : State) (d : Nat) (f : Die → Die) : (s.modDie d f).mem = s.mem := rfl
@[simp] theorem State.modDie_poison (s : State) (d : Nat) (f : Die → Die) : (s.modDie d f).poison = s.poison := rfl
@[simp] theorem State.modDie_pend (s : State) (d : Nat) (f : Die → Die) : (s.modDie d f).pend = s.pend := rfl
@[simp] theorem State.modDie_releases (s : State) (d : Nat) (f : Die → Die) : (s.modDie d f).releases = s.releases := rfl
@[simp] theorem State.modDie_posted (s : State) (d : Nat) (f : Die → Die) : (s.modDie d f).posted = s.posted := rfl
@[simp] theorem State.modDie_crews (s : State) (d : Nat) (f : Die → Die) : (s.modDie d f).crews = s.crews := rfl
@[simp] theorem State.modDie_pieces (s : State) (d : Nat) (f : Die → Die) : (s.modDie d f).pieces = s.pieces := rfl
@[simp] theorem State.modDie_launches (s : State) (d : Nat) (f : Die → Die) : (s.modDie d f).launches = s.launches := rfl
@[simp] theorem State.modDie_queues (s : State) (d : Nat) (f : Die → Die) : (s.modDie d f).queues = s.queues := rfl
@[simp] theorem State.modDie_saved (s : State) (d : Nat) (f : Die → Die) : (s.modDie d f).saved = s.saved := rfl
@[simp] theorem State.modDie_moving (s : State) (d : Nat) (f : Die → Die) : (s.modDie d f).moving = s.moving := rfl
@[simp] theorem State.modDie_regs (s : State) (d : Nat) (f : Die → Die) : (s.modDie d f).regs = s.regs := rfl
@[simp] theorem State.modDie_msix (s : State) (d : Nat) (f : Die → Die) : (s.modDie d f).msix = s.msix := rfl
@[simp] theorem State.modDie_keys (s : State) (d : Nat) (f : Die → Die) : (s.modDie d f).keys = s.keys := rfl
@[simp] theorem State.modDie_power (s : State) (d : Nat) (f : Die → Die) : (s.modDie d f).power = s.power := rfl
@[simp] theorem State.modDie_epoch (s : State) (d : Nat) (f : Die → Die) : (s.modDie d f).epoch = s.epoch := rfl
@[simp] theorem State.modDie_clk (s : State) (d : Nat) (f : Die → Die) : (s.modDie d f).clk = s.clk := rfl
@[simp] theorem State.modDie_powered (s : State) (d : Nat) (f : Die → Die) : (s.modDie d f).powered = s.powered := rfl
@[simp] theorem State.modDie_held (s : State) (d : Nat) (f : Die → Die) : (s.modDie d f).held = s.held := rfl
@[simp] theorem State.modDie_frozen (s : State) (d : Nat) (f : Die → Die) : (s.modDie d f).frozen = s.frozen := rfl
@[simp] theorem State.modDie_hostOut (s : State) (d : Nat) (f : Die → Die) : (s.modDie d f).hostOut = s.hostOut := rfl
@[simp] theorem State.modDie_portMet (s : State) (d : Nat) (f : Die → Die) : (s.modDie d f).portMet = s.portMet := rfl
@[simp] theorem State.modDie_agenda (s : State) (d : Nat) (f : Die → Die) : (s.modDie d f).agenda = s.agenda := rfl
@[simp] theorem State.modDie_tick (s : State) (d : Nat) (f : Die → Die) : (s.modDie d f).tick = s.tick := rfl

/-! ### State.poisonAt -/

@[simp] theorem State.poisonAt_cur (s : State) (pa n : Nat) : (s.poisonAt pa n).cur = s.cur := rfl
@[simp] theorem State.poisonAt_hart (s : State) (pa n : Nat) : (s.poisonAt pa n).hart = s.hart := rfl
@[simp] theorem State.poisonAt_others (s : State) (pa n : Nat) : (s.poisonAt pa n).others = s.others := rfl
@[simp] theorem State.poisonAt_cores (s : State) (pa n : Nat) : (s.poisonAt pa n).cores = s.cores := rfl
@[simp] theorem State.poisonAt_clusters (s : State) (pa n : Nat) : (s.poisonAt pa n).clusters = s.clusters := rfl
@[simp] theorem State.poisonAt_dies (s : State) (pa n : Nat) : (s.poisonAt pa n).dies = s.dies := rfl
@[simp] theorem State.poisonAt_links (s : State) (pa n : Nat) : (s.poisonAt pa n).links = s.links := rfl
@[simp] theorem State.poisonAt_mem (s : State) (pa n : Nat) : (s.poisonAt pa n).mem = s.mem := rfl
@[simp] theorem State.poisonAt_pend (s : State) (pa n : Nat) : (s.poisonAt pa n).pend = s.pend := rfl
@[simp] theorem State.poisonAt_releases (s : State) (pa n : Nat) : (s.poisonAt pa n).releases = s.releases := rfl
@[simp] theorem State.poisonAt_posted (s : State) (pa n : Nat) : (s.poisonAt pa n).posted = s.posted := rfl
@[simp] theorem State.poisonAt_crews (s : State) (pa n : Nat) : (s.poisonAt pa n).crews = s.crews := rfl
@[simp] theorem State.poisonAt_pieces (s : State) (pa n : Nat) : (s.poisonAt pa n).pieces = s.pieces := rfl
@[simp] theorem State.poisonAt_launches (s : State) (pa n : Nat) : (s.poisonAt pa n).launches = s.launches := rfl
@[simp] theorem State.poisonAt_queues (s : State) (pa n : Nat) : (s.poisonAt pa n).queues = s.queues := rfl
@[simp] theorem State.poisonAt_saved (s : State) (pa n : Nat) : (s.poisonAt pa n).saved = s.saved := rfl
@[simp] theorem State.poisonAt_moving (s : State) (pa n : Nat) : (s.poisonAt pa n).moving = s.moving := rfl
@[simp] theorem State.poisonAt_regs (s : State) (pa n : Nat) : (s.poisonAt pa n).regs = s.regs := rfl
@[simp] theorem State.poisonAt_msix (s : State) (pa n : Nat) : (s.poisonAt pa n).msix = s.msix := rfl
@[simp] theorem State.poisonAt_keys (s : State) (pa n : Nat) : (s.poisonAt pa n).keys = s.keys := rfl
@[simp] theorem State.poisonAt_power (s : State) (pa n : Nat) : (s.poisonAt pa n).power = s.power := rfl
@[simp] theorem State.poisonAt_epoch (s : State) (pa n : Nat) : (s.poisonAt pa n).epoch = s.epoch := rfl
@[simp] theorem State.poisonAt_clk (s : State) (pa n : Nat) : (s.poisonAt pa n).clk = s.clk := rfl
@[simp] theorem State.poisonAt_powered (s : State) (pa n : Nat) : (s.poisonAt pa n).powered = s.powered := rfl
@[simp] theorem State.poisonAt_held (s : State) (pa n : Nat) : (s.poisonAt pa n).held = s.held := rfl
@[simp] theorem State.poisonAt_frozen (s : State) (pa n : Nat) : (s.poisonAt pa n).frozen = s.frozen := rfl
@[simp] theorem State.poisonAt_hostOut (s : State) (pa n : Nat) : (s.poisonAt pa n).hostOut = s.hostOut := rfl
@[simp] theorem State.poisonAt_portMet (s : State) (pa n : Nat) : (s.poisonAt pa n).portMet = s.portMet := rfl
@[simp] theorem State.poisonAt_agenda (s : State) (pa n : Nat) : (s.poisonAt pa n).agenda = s.agenda := rfl
@[simp] theorem State.poisonAt_tick (s : State) (pa n : Nat) : (s.poisonAt pa n).tick = s.tick := rfl

/-! ### State.observe -/

@[simp] theorem State.observe_cur (s : State) (a : AgentId) (sc : Scope) (pa n : Nat) : (s.observe a sc pa n).cur = s.cur := rfl
@[simp] theorem State.observe_hart (s : State) (a : AgentId) (sc : Scope) (pa n : Nat) : (s.observe a sc pa n).hart = s.hart := rfl
@[simp] theorem State.observe_others (s : State) (a : AgentId) (sc : Scope) (pa n : Nat) : (s.observe a sc pa n).others = s.others := rfl
@[simp] theorem State.observe_cores (s : State) (a : AgentId) (sc : Scope) (pa n : Nat) : (s.observe a sc pa n).cores = s.cores := rfl
@[simp] theorem State.observe_clusters (s : State) (a : AgentId) (sc : Scope) (pa n : Nat) : (s.observe a sc pa n).clusters = s.clusters := rfl
@[simp] theorem State.observe_dies (s : State) (a : AgentId) (sc : Scope) (pa n : Nat) : (s.observe a sc pa n).dies = s.dies := rfl
@[simp] theorem State.observe_links (s : State) (a : AgentId) (sc : Scope) (pa n : Nat) : (s.observe a sc pa n).links = s.links := rfl
@[simp] theorem State.observe_mem (s : State) (a : AgentId) (sc : Scope) (pa n : Nat) : (s.observe a sc pa n).mem = s.mem := rfl
@[simp] theorem State.observe_poison (s : State) (a : AgentId) (sc : Scope) (pa n : Nat) : (s.observe a sc pa n).poison = s.poison := rfl
@[simp] theorem State.observe_releases (s : State) (a : AgentId) (sc : Scope) (pa n : Nat) : (s.observe a sc pa n).releases = s.releases := rfl
@[simp] theorem State.observe_posted (s : State) (a : AgentId) (sc : Scope) (pa n : Nat) : (s.observe a sc pa n).posted = s.posted := rfl
@[simp] theorem State.observe_crews (s : State) (a : AgentId) (sc : Scope) (pa n : Nat) : (s.observe a sc pa n).crews = s.crews := rfl
@[simp] theorem State.observe_pieces (s : State) (a : AgentId) (sc : Scope) (pa n : Nat) : (s.observe a sc pa n).pieces = s.pieces := rfl
@[simp] theorem State.observe_launches (s : State) (a : AgentId) (sc : Scope) (pa n : Nat) : (s.observe a sc pa n).launches = s.launches := rfl
@[simp] theorem State.observe_queues (s : State) (a : AgentId) (sc : Scope) (pa n : Nat) : (s.observe a sc pa n).queues = s.queues := rfl
@[simp] theorem State.observe_saved (s : State) (a : AgentId) (sc : Scope) (pa n : Nat) : (s.observe a sc pa n).saved = s.saved := rfl
@[simp] theorem State.observe_moving (s : State) (a : AgentId) (sc : Scope) (pa n : Nat) : (s.observe a sc pa n).moving = s.moving := rfl
@[simp] theorem State.observe_regs (s : State) (a : AgentId) (sc : Scope) (pa n : Nat) : (s.observe a sc pa n).regs = s.regs := rfl
@[simp] theorem State.observe_msix (s : State) (a : AgentId) (sc : Scope) (pa n : Nat) : (s.observe a sc pa n).msix = s.msix := rfl
@[simp] theorem State.observe_keys (s : State) (a : AgentId) (sc : Scope) (pa n : Nat) : (s.observe a sc pa n).keys = s.keys := rfl
@[simp] theorem State.observe_power (s : State) (a : AgentId) (sc : Scope) (pa n : Nat) : (s.observe a sc pa n).power = s.power := rfl
@[simp] theorem State.observe_epoch (s : State) (a : AgentId) (sc : Scope) (pa n : Nat) : (s.observe a sc pa n).epoch = s.epoch := rfl
@[simp] theorem State.observe_clk (s : State) (a : AgentId) (sc : Scope) (pa n : Nat) : (s.observe a sc pa n).clk = s.clk := rfl
@[simp] theorem State.observe_powered (s : State) (a : AgentId) (sc : Scope) (pa n : Nat) : (s.observe a sc pa n).powered = s.powered := rfl
@[simp] theorem State.observe_held (s : State) (a : AgentId) (sc : Scope) (pa n : Nat) : (s.observe a sc pa n).held = s.held := rfl
@[simp] theorem State.observe_frozen (s : State) (a : AgentId) (sc : Scope) (pa n : Nat) : (s.observe a sc pa n).frozen = s.frozen := rfl
@[simp] theorem State.observe_hostOut (s : State) (a : AgentId) (sc : Scope) (pa n : Nat) : (s.observe a sc pa n).hostOut = s.hostOut := rfl
@[simp] theorem State.observe_portMet (s : State) (a : AgentId) (sc : Scope) (pa n : Nat) : (s.observe a sc pa n).portMet = s.portMet := rfl
@[simp] theorem State.observe_agenda (s : State) (a : AgentId) (sc : Scope) (pa n : Nat) : (s.observe a sc pa n).agenda = s.agenda := rfl
@[simp] theorem State.observe_tick (s : State) (a : AgentId) (sc : Scope) (pa n : Nat) : (s.observe a sc pa n).tick = s.tick := rfl

/-! ### State.release -/

@[simp] theorem State.release_cur (s : State) (a : AgentId) (sc : Scope) : (s.release a sc).cur = s.cur := rfl
@[simp] theorem State.release_hart (s : State) (a : AgentId) (sc : Scope) : (s.release a sc).hart = s.hart := rfl
@[simp] theorem State.release_others (s : State) (a : AgentId) (sc : Scope) : (s.release a sc).others = s.others := rfl
@[simp] theorem State.release_cores (s : State) (a : AgentId) (sc : Scope) : (s.release a sc).cores = s.cores := rfl
@[simp] theorem State.release_clusters (s : State) (a : AgentId) (sc : Scope) : (s.release a sc).clusters = s.clusters := rfl
@[simp] theorem State.release_dies (s : State) (a : AgentId) (sc : Scope) : (s.release a sc).dies = s.dies := rfl
@[simp] theorem State.release_links (s : State) (a : AgentId) (sc : Scope) : (s.release a sc).links = s.links := rfl
@[simp] theorem State.release_poison (s : State) (a : AgentId) (sc : Scope) : (s.release a sc).poison = s.poison := rfl
@[simp] theorem State.release_posted (s : State) (a : AgentId) (sc : Scope) : (s.release a sc).posted = s.posted := rfl
@[simp] theorem State.release_crews (s : State) (a : AgentId) (sc : Scope) : (s.release a sc).crews = s.crews := rfl
@[simp] theorem State.release_pieces (s : State) (a : AgentId) (sc : Scope) : (s.release a sc).pieces = s.pieces := rfl
@[simp] theorem State.release_launches (s : State) (a : AgentId) (sc : Scope) : (s.release a sc).launches = s.launches := rfl
@[simp] theorem State.release_queues (s : State) (a : AgentId) (sc : Scope) : (s.release a sc).queues = s.queues := rfl
@[simp] theorem State.release_saved (s : State) (a : AgentId) (sc : Scope) : (s.release a sc).saved = s.saved := rfl
@[simp] theorem State.release_moving (s : State) (a : AgentId) (sc : Scope) : (s.release a sc).moving = s.moving := rfl
@[simp] theorem State.release_regs (s : State) (a : AgentId) (sc : Scope) : (s.release a sc).regs = s.regs := rfl
@[simp] theorem State.release_msix (s : State) (a : AgentId) (sc : Scope) : (s.release a sc).msix = s.msix := rfl
@[simp] theorem State.release_keys (s : State) (a : AgentId) (sc : Scope) : (s.release a sc).keys = s.keys := rfl
@[simp] theorem State.release_power (s : State) (a : AgentId) (sc : Scope) : (s.release a sc).power = s.power := rfl
@[simp] theorem State.release_epoch (s : State) (a : AgentId) (sc : Scope) : (s.release a sc).epoch = s.epoch := rfl
@[simp] theorem State.release_clk (s : State) (a : AgentId) (sc : Scope) : (s.release a sc).clk = s.clk := rfl
@[simp] theorem State.release_powered (s : State) (a : AgentId) (sc : Scope) : (s.release a sc).powered = s.powered := rfl
@[simp] theorem State.release_held (s : State) (a : AgentId) (sc : Scope) : (s.release a sc).held = s.held := rfl
@[simp] theorem State.release_frozen (s : State) (a : AgentId) (sc : Scope) : (s.release a sc).frozen = s.frozen := rfl
@[simp] theorem State.release_hostOut (s : State) (a : AgentId) (sc : Scope) : (s.release a sc).hostOut = s.hostOut := rfl
@[simp] theorem State.release_portMet (s : State) (a : AgentId) (sc : Scope) : (s.release a sc).portMet = s.portMet := rfl
@[simp] theorem State.release_agenda (s : State) (a : AgentId) (sc : Scope) : (s.release a sc).agenda = s.agenda := rfl
@[simp] theorem State.release_tick (s : State) (a : AgentId) (sc : Scope) : (s.release a sc).tick = s.tick := rfl

/-! ### State.appear -/

@[simp] theorem State.appear_cur (s : State) (a : AgentId) : (s.appear a).cur = s.cur := rfl
@[simp] theorem State.appear_hart (s : State) (a : AgentId) : (s.appear a).hart = s.hart := rfl
@[simp] theorem State.appear_others (s : State) (a : AgentId) : (s.appear a).others = s.others := rfl
@[simp] theorem State.appear_cores (s : State) (a : AgentId) : (s.appear a).cores = s.cores := rfl
@[simp] theorem State.appear_clusters (s : State) (a : AgentId) : (s.appear a).clusters = s.clusters := rfl
@[simp] theorem State.appear_dies (s : State) (a : AgentId) : (s.appear a).dies = s.dies := rfl
@[simp] theorem State.appear_links (s : State) (a : AgentId) : (s.appear a).links = s.links := rfl
@[simp] theorem State.appear_poison (s : State) (a : AgentId) : (s.appear a).poison = s.poison := rfl
@[simp] theorem State.appear_releases (s : State) (a : AgentId) : (s.appear a).releases = s.releases := rfl
@[simp] theorem State.appear_posted (s : State) (a : AgentId) : (s.appear a).posted = s.posted := rfl
@[simp] theorem State.appear_crews (s : State) (a : AgentId) : (s.appear a).crews = s.crews := rfl
@[simp] theorem State.appear_pieces (s : State) (a : AgentId) : (s.appear a).pieces = s.pieces := rfl
@[simp] theorem State.appear_launches (s : State) (a : AgentId) : (s.appear a).launches = s.launches := rfl
@[simp] theorem State.appear_queues (s : State) (a : AgentId) : (s.appear a).queues = s.queues := rfl
@[simp] theorem State.appear_saved (s : State) (a : AgentId) : (s.appear a).saved = s.saved := rfl
@[simp] theorem State.appear_moving (s : State) (a : AgentId) : (s.appear a).moving = s.moving := rfl
@[simp] theorem State.appear_regs (s : State) (a : AgentId) : (s.appear a).regs = s.regs := rfl
@[simp] theorem State.appear_msix (s : State) (a : AgentId) : (s.appear a).msix = s.msix := rfl
@[simp] theorem State.appear_keys (s : State) (a : AgentId) : (s.appear a).keys = s.keys := rfl
@[simp] theorem State.appear_power (s : State) (a : AgentId) : (s.appear a).power = s.power := rfl
@[simp] theorem State.appear_epoch (s : State) (a : AgentId) : (s.appear a).epoch = s.epoch := rfl
@[simp] theorem State.appear_clk (s : State) (a : AgentId) : (s.appear a).clk = s.clk := rfl
@[simp] theorem State.appear_powered (s : State) (a : AgentId) : (s.appear a).powered = s.powered := rfl
@[simp] theorem State.appear_held (s : State) (a : AgentId) : (s.appear a).held = s.held := rfl
@[simp] theorem State.appear_frozen (s : State) (a : AgentId) : (s.appear a).frozen = s.frozen := rfl
@[simp] theorem State.appear_hostOut (s : State) (a : AgentId) : (s.appear a).hostOut = s.hostOut := rfl
@[simp] theorem State.appear_portMet (s : State) (a : AgentId) : (s.appear a).portMet = s.portMet := rfl
@[simp] theorem State.appear_agenda (s : State) (a : AgentId) : (s.appear a).agenda = s.agenda := rfl
@[simp] theorem State.appear_tick (s : State) (a : AgentId) : (s.appear a).tick = s.tick := rfl

/-! ### State.acquire -/

@[simp] theorem State.acquire_cur (s : State) (a : AgentId) (sc : Scope) : (s.acquire a sc).cur = s.cur := rfl
@[simp] theorem State.acquire_hart (s : State) (a : AgentId) (sc : Scope) : (s.acquire a sc).hart = s.hart := rfl
@[simp] theorem State.acquire_others (s : State) (a : AgentId) (sc : Scope) : (s.acquire a sc).others = s.others := rfl
@[simp] theorem State.acquire_cores (s : State) (a : AgentId) (sc : Scope) : (s.acquire a sc).cores = s.cores := rfl
@[simp] theorem State.acquire_clusters (s : State) (a : AgentId) (sc : Scope) : (s.acquire a sc).clusters = s.clusters := rfl
@[simp] theorem State.acquire_dies (s : State) (a : AgentId) (sc : Scope) : (s.acquire a sc).dies = s.dies := rfl
@[simp] theorem State.acquire_links (s : State) (a : AgentId) (sc : Scope) : (s.acquire a sc).links = s.links := rfl
@[simp] theorem State.acquire_mem (s : State) (a : AgentId) (sc : Scope) : (s.acquire a sc).mem = s.mem := rfl
@[simp] theorem State.acquire_poison (s : State) (a : AgentId) (sc : Scope) : (s.acquire a sc).poison = s.poison := rfl
@[simp] theorem State.acquire_releases (s : State) (a : AgentId) (sc : Scope) : (s.acquire a sc).releases = s.releases := rfl
@[simp] theorem State.acquire_posted (s : State) (a : AgentId) (sc : Scope) : (s.acquire a sc).posted = s.posted := rfl
@[simp] theorem State.acquire_crews (s : State) (a : AgentId) (sc : Scope) : (s.acquire a sc).crews = s.crews := rfl
@[simp] theorem State.acquire_pieces (s : State) (a : AgentId) (sc : Scope) : (s.acquire a sc).pieces = s.pieces := rfl
@[simp] theorem State.acquire_launches (s : State) (a : AgentId) (sc : Scope) : (s.acquire a sc).launches = s.launches := rfl
@[simp] theorem State.acquire_queues (s : State) (a : AgentId) (sc : Scope) : (s.acquire a sc).queues = s.queues := rfl
@[simp] theorem State.acquire_saved (s : State) (a : AgentId) (sc : Scope) : (s.acquire a sc).saved = s.saved := rfl
@[simp] theorem State.acquire_moving (s : State) (a : AgentId) (sc : Scope) : (s.acquire a sc).moving = s.moving := rfl
@[simp] theorem State.acquire_regs (s : State) (a : AgentId) (sc : Scope) : (s.acquire a sc).regs = s.regs := rfl
@[simp] theorem State.acquire_msix (s : State) (a : AgentId) (sc : Scope) : (s.acquire a sc).msix = s.msix := rfl
@[simp] theorem State.acquire_keys (s : State) (a : AgentId) (sc : Scope) : (s.acquire a sc).keys = s.keys := rfl
@[simp] theorem State.acquire_power (s : State) (a : AgentId) (sc : Scope) : (s.acquire a sc).power = s.power := rfl
@[simp] theorem State.acquire_epoch (s : State) (a : AgentId) (sc : Scope) : (s.acquire a sc).epoch = s.epoch := rfl
@[simp] theorem State.acquire_clk (s : State) (a : AgentId) (sc : Scope) : (s.acquire a sc).clk = s.clk := rfl
@[simp] theorem State.acquire_powered (s : State) (a : AgentId) (sc : Scope) : (s.acquire a sc).powered = s.powered := rfl
@[simp] theorem State.acquire_held (s : State) (a : AgentId) (sc : Scope) : (s.acquire a sc).held = s.held := rfl
@[simp] theorem State.acquire_frozen (s : State) (a : AgentId) (sc : Scope) : (s.acquire a sc).frozen = s.frozen := rfl
@[simp] theorem State.acquire_hostOut (s : State) (a : AgentId) (sc : Scope) : (s.acquire a sc).hostOut = s.hostOut := rfl
@[simp] theorem State.acquire_portMet (s : State) (a : AgentId) (sc : Scope) : (s.acquire a sc).portMet = s.portMet := rfl
@[simp] theorem State.acquire_agenda (s : State) (a : AgentId) (sc : Scope) : (s.acquire a sc).agenda = s.agenda := rfl
@[simp] theorem State.acquire_tick (s : State) (a : AgentId) (sc : Scope) : (s.acquire a sc).tick = s.tick := rfl

/-! ### State.orderFetch -/

@[simp] theorem State.orderFetch_cur (s : State) (h : Nat) : (s.orderFetch h).cur = s.cur := rfl
@[simp] theorem State.orderFetch_hart (s : State) (h : Nat) : (s.orderFetch h).hart = s.hart := rfl
@[simp] theorem State.orderFetch_others (s : State) (h : Nat) : (s.orderFetch h).others = s.others := rfl
@[simp] theorem State.orderFetch_cores (s : State) (h : Nat) : (s.orderFetch h).cores = s.cores := rfl
@[simp] theorem State.orderFetch_clusters (s : State) (h : Nat) : (s.orderFetch h).clusters = s.clusters := rfl
@[simp] theorem State.orderFetch_dies (s : State) (h : Nat) : (s.orderFetch h).dies = s.dies := rfl
@[simp] theorem State.orderFetch_links (s : State) (h : Nat) : (s.orderFetch h).links = s.links := rfl
@[simp] theorem State.orderFetch_mem (s : State) (h : Nat) : (s.orderFetch h).mem = s.mem := rfl
@[simp] theorem State.orderFetch_poison (s : State) (h : Nat) : (s.orderFetch h).poison = s.poison := rfl
@[simp] theorem State.orderFetch_releases (s : State) (h : Nat) : (s.orderFetch h).releases = s.releases := rfl
@[simp] theorem State.orderFetch_posted (s : State) (h : Nat) : (s.orderFetch h).posted = s.posted := rfl
@[simp] theorem State.orderFetch_crews (s : State) (h : Nat) : (s.orderFetch h).crews = s.crews := rfl
@[simp] theorem State.orderFetch_pieces (s : State) (h : Nat) : (s.orderFetch h).pieces = s.pieces := rfl
@[simp] theorem State.orderFetch_launches (s : State) (h : Nat) : (s.orderFetch h).launches = s.launches := rfl
@[simp] theorem State.orderFetch_queues (s : State) (h : Nat) : (s.orderFetch h).queues = s.queues := rfl
@[simp] theorem State.orderFetch_saved (s : State) (h : Nat) : (s.orderFetch h).saved = s.saved := rfl
@[simp] theorem State.orderFetch_moving (s : State) (h : Nat) : (s.orderFetch h).moving = s.moving := rfl
@[simp] theorem State.orderFetch_regs (s : State) (h : Nat) : (s.orderFetch h).regs = s.regs := rfl
@[simp] theorem State.orderFetch_msix (s : State) (h : Nat) : (s.orderFetch h).msix = s.msix := rfl
@[simp] theorem State.orderFetch_keys (s : State) (h : Nat) : (s.orderFetch h).keys = s.keys := rfl
@[simp] theorem State.orderFetch_power (s : State) (h : Nat) : (s.orderFetch h).power = s.power := rfl
@[simp] theorem State.orderFetch_epoch (s : State) (h : Nat) : (s.orderFetch h).epoch = s.epoch := rfl
@[simp] theorem State.orderFetch_clk (s : State) (h : Nat) : (s.orderFetch h).clk = s.clk := rfl
@[simp] theorem State.orderFetch_powered (s : State) (h : Nat) : (s.orderFetch h).powered = s.powered := rfl
@[simp] theorem State.orderFetch_held (s : State) (h : Nat) : (s.orderFetch h).held = s.held := rfl
@[simp] theorem State.orderFetch_frozen (s : State) (h : Nat) : (s.orderFetch h).frozen = s.frozen := rfl
@[simp] theorem State.orderFetch_hostOut (s : State) (h : Nat) : (s.orderFetch h).hostOut = s.hostOut := rfl
@[simp] theorem State.orderFetch_portMet (s : State) (h : Nat) : (s.orderFetch h).portMet = s.portMet := rfl
@[simp] theorem State.orderFetch_agenda (s : State) (h : Nat) : (s.orderFetch h).agenda = s.agenda := rfl
@[simp] theorem State.orderFetch_tick (s : State) (h : Nat) : (s.orderFetch h).tick = s.tick := rfl

/-! ### State.performNow -/

@[simp] theorem State.performNow_cur (s : State) (a : AgentId) (pa n : Nat) : (s.performNow a pa n).cur = s.cur := rfl
@[simp] theorem State.performNow_hart (s : State) (a : AgentId) (pa n : Nat) : (s.performNow a pa n).hart = s.hart := rfl
@[simp] theorem State.performNow_others (s : State) (a : AgentId) (pa n : Nat) : (s.performNow a pa n).others = s.others := rfl
@[simp] theorem State.performNow_cores (s : State) (a : AgentId) (pa n : Nat) : (s.performNow a pa n).cores = s.cores := rfl
@[simp] theorem State.performNow_clusters (s : State) (a : AgentId) (pa n : Nat) : (s.performNow a pa n).clusters = s.clusters := rfl
@[simp] theorem State.performNow_dies (s : State) (a : AgentId) (pa n : Nat) : (s.performNow a pa n).dies = s.dies := rfl
@[simp] theorem State.performNow_links (s : State) (a : AgentId) (pa n : Nat) : (s.performNow a pa n).links = s.links := rfl
@[simp] theorem State.performNow_poison (s : State) (a : AgentId) (pa n : Nat) : (s.performNow a pa n).poison = s.poison := rfl
@[simp] theorem State.performNow_releases (s : State) (a : AgentId) (pa n : Nat) : (s.performNow a pa n).releases = s.releases := rfl
@[simp] theorem State.performNow_posted (s : State) (a : AgentId) (pa n : Nat) : (s.performNow a pa n).posted = s.posted := rfl
@[simp] theorem State.performNow_crews (s : State) (a : AgentId) (pa n : Nat) : (s.performNow a pa n).crews = s.crews := rfl
@[simp] theorem State.performNow_pieces (s : State) (a : AgentId) (pa n : Nat) : (s.performNow a pa n).pieces = s.pieces := rfl
@[simp] theorem State.performNow_launches (s : State) (a : AgentId) (pa n : Nat) : (s.performNow a pa n).launches = s.launches := rfl
@[simp] theorem State.performNow_queues (s : State) (a : AgentId) (pa n : Nat) : (s.performNow a pa n).queues = s.queues := rfl
@[simp] theorem State.performNow_saved (s : State) (a : AgentId) (pa n : Nat) : (s.performNow a pa n).saved = s.saved := rfl
@[simp] theorem State.performNow_moving (s : State) (a : AgentId) (pa n : Nat) : (s.performNow a pa n).moving = s.moving := rfl
@[simp] theorem State.performNow_regs (s : State) (a : AgentId) (pa n : Nat) : (s.performNow a pa n).regs = s.regs := rfl
@[simp] theorem State.performNow_msix (s : State) (a : AgentId) (pa n : Nat) : (s.performNow a pa n).msix = s.msix := rfl
@[simp] theorem State.performNow_keys (s : State) (a : AgentId) (pa n : Nat) : (s.performNow a pa n).keys = s.keys := rfl
@[simp] theorem State.performNow_power (s : State) (a : AgentId) (pa n : Nat) : (s.performNow a pa n).power = s.power := rfl
@[simp] theorem State.performNow_epoch (s : State) (a : AgentId) (pa n : Nat) : (s.performNow a pa n).epoch = s.epoch := rfl
@[simp] theorem State.performNow_clk (s : State) (a : AgentId) (pa n : Nat) : (s.performNow a pa n).clk = s.clk := rfl
@[simp] theorem State.performNow_powered (s : State) (a : AgentId) (pa n : Nat) : (s.performNow a pa n).powered = s.powered := rfl
@[simp] theorem State.performNow_held (s : State) (a : AgentId) (pa n : Nat) : (s.performNow a pa n).held = s.held := rfl
@[simp] theorem State.performNow_frozen (s : State) (a : AgentId) (pa n : Nat) : (s.performNow a pa n).frozen = s.frozen := rfl
@[simp] theorem State.performNow_hostOut (s : State) (a : AgentId) (pa n : Nat) : (s.performNow a pa n).hostOut = s.hostOut := rfl
@[simp] theorem State.performNow_portMet (s : State) (a : AgentId) (pa n : Nat) : (s.performNow a pa n).portMet = s.portMet := rfl
@[simp] theorem State.performNow_agenda (s : State) (a : AgentId) (pa n : Nat) : (s.performNow a pa n).agenda = s.agenda := rfl
@[simp] theorem State.performNow_tick (s : State) (a : AgentId) (pa n : Nat) : (s.performNow a pa n).tick = s.tick := rfl

/-! ### State.dropWrites -/

@[simp] theorem State.dropWrites_cur (s : State) (lost : PendWrite → Bool) : (s.dropWrites lost).cur = s.cur := rfl
@[simp] theorem State.dropWrites_hart (s : State) (lost : PendWrite → Bool) : (s.dropWrites lost).hart = s.hart := rfl
@[simp] theorem State.dropWrites_others (s : State) (lost : PendWrite → Bool) : (s.dropWrites lost).others = s.others := rfl
@[simp] theorem State.dropWrites_cores (s : State) (lost : PendWrite → Bool) : (s.dropWrites lost).cores = s.cores := rfl
@[simp] theorem State.dropWrites_clusters (s : State) (lost : PendWrite → Bool) : (s.dropWrites lost).clusters = s.clusters := rfl
@[simp] theorem State.dropWrites_dies (s : State) (lost : PendWrite → Bool) : (s.dropWrites lost).dies = s.dies := rfl
@[simp] theorem State.dropWrites_links (s : State) (lost : PendWrite → Bool) : (s.dropWrites lost).links = s.links := rfl
@[simp] theorem State.dropWrites_poison (s : State) (lost : PendWrite → Bool) : (s.dropWrites lost).poison = s.poison := rfl
@[simp] theorem State.dropWrites_releases (s : State) (lost : PendWrite → Bool) : (s.dropWrites lost).releases = s.releases := rfl
@[simp] theorem State.dropWrites_posted (s : State) (lost : PendWrite → Bool) : (s.dropWrites lost).posted = s.posted := rfl
@[simp] theorem State.dropWrites_crews (s : State) (lost : PendWrite → Bool) : (s.dropWrites lost).crews = s.crews := rfl
@[simp] theorem State.dropWrites_pieces (s : State) (lost : PendWrite → Bool) : (s.dropWrites lost).pieces = s.pieces := rfl
@[simp] theorem State.dropWrites_launches (s : State) (lost : PendWrite → Bool) : (s.dropWrites lost).launches = s.launches := rfl
@[simp] theorem State.dropWrites_queues (s : State) (lost : PendWrite → Bool) : (s.dropWrites lost).queues = s.queues := rfl
@[simp] theorem State.dropWrites_saved (s : State) (lost : PendWrite → Bool) : (s.dropWrites lost).saved = s.saved := rfl
@[simp] theorem State.dropWrites_moving (s : State) (lost : PendWrite → Bool) : (s.dropWrites lost).moving = s.moving := rfl
@[simp] theorem State.dropWrites_regs (s : State) (lost : PendWrite → Bool) : (s.dropWrites lost).regs = s.regs := rfl
@[simp] theorem State.dropWrites_msix (s : State) (lost : PendWrite → Bool) : (s.dropWrites lost).msix = s.msix := rfl
@[simp] theorem State.dropWrites_keys (s : State) (lost : PendWrite → Bool) : (s.dropWrites lost).keys = s.keys := rfl
@[simp] theorem State.dropWrites_power (s : State) (lost : PendWrite → Bool) : (s.dropWrites lost).power = s.power := rfl
@[simp] theorem State.dropWrites_epoch (s : State) (lost : PendWrite → Bool) : (s.dropWrites lost).epoch = s.epoch := rfl
@[simp] theorem State.dropWrites_clk (s : State) (lost : PendWrite → Bool) : (s.dropWrites lost).clk = s.clk := rfl
@[simp] theorem State.dropWrites_powered (s : State) (lost : PendWrite → Bool) : (s.dropWrites lost).powered = s.powered := rfl
@[simp] theorem State.dropWrites_held (s : State) (lost : PendWrite → Bool) : (s.dropWrites lost).held = s.held := rfl
@[simp] theorem State.dropWrites_frozen (s : State) (lost : PendWrite → Bool) : (s.dropWrites lost).frozen = s.frozen := rfl
@[simp] theorem State.dropWrites_hostOut (s : State) (lost : PendWrite → Bool) : (s.dropWrites lost).hostOut = s.hostOut := rfl
@[simp] theorem State.dropWrites_portMet (s : State) (lost : PendWrite → Bool) : (s.dropWrites lost).portMet = s.portMet := rfl
@[simp] theorem State.dropWrites_agenda (s : State) (lost : PendWrite → Bool) : (s.dropWrites lost).agenda = s.agenda := rfl
@[simp] theorem State.dropWrites_tick (s : State) (lost : PendWrite → Bool) : (s.dropWrites lost).tick = s.tick := rfl

/-! ### State.amoObserve -/

@[simp] theorem State.amoObserve_cur (s : State) (a : AgentId) (pa n : Nat) : (s.amoObserve a pa n).cur = s.cur := rfl
@[simp] theorem State.amoObserve_hart (s : State) (a : AgentId) (pa n : Nat) : (s.amoObserve a pa n).hart = s.hart := rfl
@[simp] theorem State.amoObserve_others (s : State) (a : AgentId) (pa n : Nat) : (s.amoObserve a pa n).others = s.others := rfl
@[simp] theorem State.amoObserve_cores (s : State) (a : AgentId) (pa n : Nat) : (s.amoObserve a pa n).cores = s.cores := rfl
@[simp] theorem State.amoObserve_clusters (s : State) (a : AgentId) (pa n : Nat) : (s.amoObserve a pa n).clusters = s.clusters := rfl
@[simp] theorem State.amoObserve_dies (s : State) (a : AgentId) (pa n : Nat) : (s.amoObserve a pa n).dies = s.dies := rfl
@[simp] theorem State.amoObserve_links (s : State) (a : AgentId) (pa n : Nat) : (s.amoObserve a pa n).links = s.links := rfl
@[simp] theorem State.amoObserve_mem (s : State) (a : AgentId) (pa n : Nat) : (s.amoObserve a pa n).mem = s.mem := rfl
@[simp] theorem State.amoObserve_poison (s : State) (a : AgentId) (pa n : Nat) : (s.amoObserve a pa n).poison = s.poison := rfl
@[simp] theorem State.amoObserve_releases (s : State) (a : AgentId) (pa n : Nat) : (s.amoObserve a pa n).releases = s.releases := rfl
@[simp] theorem State.amoObserve_posted (s : State) (a : AgentId) (pa n : Nat) : (s.amoObserve a pa n).posted = s.posted := rfl
@[simp] theorem State.amoObserve_crews (s : State) (a : AgentId) (pa n : Nat) : (s.amoObserve a pa n).crews = s.crews := rfl
@[simp] theorem State.amoObserve_pieces (s : State) (a : AgentId) (pa n : Nat) : (s.amoObserve a pa n).pieces = s.pieces := rfl
@[simp] theorem State.amoObserve_launches (s : State) (a : AgentId) (pa n : Nat) : (s.amoObserve a pa n).launches = s.launches := rfl
@[simp] theorem State.amoObserve_queues (s : State) (a : AgentId) (pa n : Nat) : (s.amoObserve a pa n).queues = s.queues := rfl
@[simp] theorem State.amoObserve_saved (s : State) (a : AgentId) (pa n : Nat) : (s.amoObserve a pa n).saved = s.saved := rfl
@[simp] theorem State.amoObserve_moving (s : State) (a : AgentId) (pa n : Nat) : (s.amoObserve a pa n).moving = s.moving := rfl
@[simp] theorem State.amoObserve_regs (s : State) (a : AgentId) (pa n : Nat) : (s.amoObserve a pa n).regs = s.regs := rfl
@[simp] theorem State.amoObserve_msix (s : State) (a : AgentId) (pa n : Nat) : (s.amoObserve a pa n).msix = s.msix := rfl
@[simp] theorem State.amoObserve_keys (s : State) (a : AgentId) (pa n : Nat) : (s.amoObserve a pa n).keys = s.keys := rfl
@[simp] theorem State.amoObserve_power (s : State) (a : AgentId) (pa n : Nat) : (s.amoObserve a pa n).power = s.power := rfl
@[simp] theorem State.amoObserve_epoch (s : State) (a : AgentId) (pa n : Nat) : (s.amoObserve a pa n).epoch = s.epoch := rfl
@[simp] theorem State.amoObserve_clk (s : State) (a : AgentId) (pa n : Nat) : (s.amoObserve a pa n).clk = s.clk := rfl
@[simp] theorem State.amoObserve_powered (s : State) (a : AgentId) (pa n : Nat) : (s.amoObserve a pa n).powered = s.powered := rfl
@[simp] theorem State.amoObserve_held (s : State) (a : AgentId) (pa n : Nat) : (s.amoObserve a pa n).held = s.held := rfl
@[simp] theorem State.amoObserve_frozen (s : State) (a : AgentId) (pa n : Nat) : (s.amoObserve a pa n).frozen = s.frozen := rfl
@[simp] theorem State.amoObserve_hostOut (s : State) (a : AgentId) (pa n : Nat) : (s.amoObserve a pa n).hostOut = s.hostOut := rfl
@[simp] theorem State.amoObserve_portMet (s : State) (a : AgentId) (pa n : Nat) : (s.amoObserve a pa n).portMet = s.portMet := rfl
@[simp] theorem State.amoObserve_agenda (s : State) (a : AgentId) (pa n : Nat) : (s.amoObserve a pa n).agenda = s.agenda := rfl
@[simp] theorem State.amoObserve_tick (s : State) (a : AgentId) (pa n : Nat) : (s.amoObserve a pa n).tick = s.tick := rfl

/-! ### State.zeroRange -/

@[simp] theorem State.zeroRange_cur (s : State) (pa n : Nat) : (s.zeroRange pa n).cur = s.cur := rfl
@[simp] theorem State.zeroRange_hart (s : State) (pa n : Nat) : (s.zeroRange pa n).hart = s.hart := rfl
@[simp] theorem State.zeroRange_others (s : State) (pa n : Nat) : (s.zeroRange pa n).others = s.others := rfl
@[simp] theorem State.zeroRange_cores (s : State) (pa n : Nat) : (s.zeroRange pa n).cores = s.cores := rfl
@[simp] theorem State.zeroRange_clusters (s : State) (pa n : Nat) : (s.zeroRange pa n).clusters = s.clusters := rfl
@[simp] theorem State.zeroRange_dies (s : State) (pa n : Nat) : (s.zeroRange pa n).dies = s.dies := rfl
@[simp] theorem State.zeroRange_links (s : State) (pa n : Nat) : (s.zeroRange pa n).links = s.links := rfl
@[simp] theorem State.zeroRange_releases (s : State) (pa n : Nat) : (s.zeroRange pa n).releases = s.releases := rfl
@[simp] theorem State.zeroRange_posted (s : State) (pa n : Nat) : (s.zeroRange pa n).posted = s.posted := rfl
@[simp] theorem State.zeroRange_crews (s : State) (pa n : Nat) : (s.zeroRange pa n).crews = s.crews := rfl
@[simp] theorem State.zeroRange_pieces (s : State) (pa n : Nat) : (s.zeroRange pa n).pieces = s.pieces := rfl
@[simp] theorem State.zeroRange_launches (s : State) (pa n : Nat) : (s.zeroRange pa n).launches = s.launches := rfl
@[simp] theorem State.zeroRange_queues (s : State) (pa n : Nat) : (s.zeroRange pa n).queues = s.queues := rfl
@[simp] theorem State.zeroRange_saved (s : State) (pa n : Nat) : (s.zeroRange pa n).saved = s.saved := rfl
@[simp] theorem State.zeroRange_moving (s : State) (pa n : Nat) : (s.zeroRange pa n).moving = s.moving := rfl
@[simp] theorem State.zeroRange_regs (s : State) (pa n : Nat) : (s.zeroRange pa n).regs = s.regs := rfl
@[simp] theorem State.zeroRange_msix (s : State) (pa n : Nat) : (s.zeroRange pa n).msix = s.msix := rfl
@[simp] theorem State.zeroRange_keys (s : State) (pa n : Nat) : (s.zeroRange pa n).keys = s.keys := rfl
@[simp] theorem State.zeroRange_power (s : State) (pa n : Nat) : (s.zeroRange pa n).power = s.power := rfl
@[simp] theorem State.zeroRange_epoch (s : State) (pa n : Nat) : (s.zeroRange pa n).epoch = s.epoch := rfl
@[simp] theorem State.zeroRange_clk (s : State) (pa n : Nat) : (s.zeroRange pa n).clk = s.clk := rfl
@[simp] theorem State.zeroRange_powered (s : State) (pa n : Nat) : (s.zeroRange pa n).powered = s.powered := rfl
@[simp] theorem State.zeroRange_held (s : State) (pa n : Nat) : (s.zeroRange pa n).held = s.held := rfl
@[simp] theorem State.zeroRange_frozen (s : State) (pa n : Nat) : (s.zeroRange pa n).frozen = s.frozen := rfl
@[simp] theorem State.zeroRange_hostOut (s : State) (pa n : Nat) : (s.zeroRange pa n).hostOut = s.hostOut := rfl
@[simp] theorem State.zeroRange_portMet (s : State) (pa n : Nat) : (s.zeroRange pa n).portMet = s.portMet := rfl
@[simp] theorem State.zeroRange_agenda (s : State) (pa n : Nat) : (s.zeroRange pa n).agenda = s.agenda := rfl
@[simp] theorem State.zeroRange_tick (s : State) (pa n : Nat) : (s.zeroRange pa n).tick = s.tick := rfl

/-! ### State.pass -/

@[simp] theorem State.pass_cur (s : State) : (s.pass).cur = s.cur := rfl
@[simp] theorem State.pass_hart (s : State) : (s.pass).hart = s.hart := rfl
@[simp] theorem State.pass_others (s : State) : (s.pass).others = s.others := rfl
@[simp] theorem State.pass_cores (s : State) : (s.pass).cores = s.cores := rfl
@[simp] theorem State.pass_clusters (s : State) : (s.pass).clusters = s.clusters := rfl
@[simp] theorem State.pass_dies (s : State) : (s.pass).dies = s.dies := rfl
@[simp] theorem State.pass_links (s : State) : (s.pass).links = s.links := rfl
@[simp] theorem State.pass_mem (s : State) : (s.pass).mem = s.mem := rfl
@[simp] theorem State.pass_poison (s : State) : (s.pass).poison = s.poison := rfl
@[simp] theorem State.pass_pend (s : State) : (s.pass).pend = s.pend := rfl
@[simp] theorem State.pass_releases (s : State) : (s.pass).releases = s.releases := rfl
@[simp] theorem State.pass_posted (s : State) : (s.pass).posted = s.posted := rfl
@[simp] theorem State.pass_crews (s : State) : (s.pass).crews = s.crews := rfl
@[simp] theorem State.pass_pieces (s : State) : (s.pass).pieces = s.pieces := rfl
@[simp] theorem State.pass_launches (s : State) : (s.pass).launches = s.launches := rfl
@[simp] theorem State.pass_queues (s : State) : (s.pass).queues = s.queues := rfl
@[simp] theorem State.pass_saved (s : State) : (s.pass).saved = s.saved := rfl
@[simp] theorem State.pass_moving (s : State) : (s.pass).moving = s.moving := rfl
@[simp] theorem State.pass_regs (s : State) : (s.pass).regs = s.regs := rfl
@[simp] theorem State.pass_msix (s : State) : (s.pass).msix = s.msix := rfl
@[simp] theorem State.pass_keys (s : State) : (s.pass).keys = s.keys := rfl
@[simp] theorem State.pass_power (s : State) : (s.pass).power = s.power := rfl
@[simp] theorem State.pass_epoch (s : State) : (s.pass).epoch = s.epoch := rfl
@[simp] theorem State.pass_powered (s : State) : (s.pass).powered = s.powered := rfl
@[simp] theorem State.pass_held (s : State) : (s.pass).held = s.held := rfl
@[simp] theorem State.pass_frozen (s : State) : (s.pass).frozen = s.frozen := rfl
@[simp] theorem State.pass_hostOut (s : State) : (s.pass).hostOut = s.hostOut := rfl
@[simp] theorem State.pass_portMet (s : State) : (s.pass).portMet = s.portMet := rfl
@[simp] theorem State.pass_agenda (s : State) : (s.pass).agenda = s.agenda := rfl

/-! ### Requests to the HBM channels -/

/-- Requests change the dies alone. -/
theorem foldl_touch (l : List Nat) (s : State) : l.foldl State.touch s = { s with dies := (l.foldl State.touch s).dies } := by
  induction l generalizing s with
  | nil => rfl
  | cons pa l ih =>
    have h : s.touch pa = { s with dies := (s.touch pa).dies } := by unfold State.touch; dsimp only; split <;> rfl
    rw [List.foldl_cons, ih, h]

theorem State.walkRequests_eq (s : State) (c : Ctx) (va : Word) : s.walkRequests c va = { s with dies := (s.walkRequests c va).dies } := by
  unfold State.walkRequests
  split
  · rfl
  · split
    · exact foldl_touch _ _
    · rfl

theorem State.requests_eq (s : State) (c : Ctx) (k : Kind) (va : Word) : s.requests c k va = { s with dies := (s.requests c k va).dies } := by
  unfold State.requests
  split
  · exact (foldl_touch [_] _).trans (by rw [s.walkRequests_eq c va]; rfl)
  · exact s.walkRequests_eq c va

theorem State.requestAll_eq (s : State) (c : Ctx) (k : Kind) (l : List (Word × Nat)) :
    s.requestAll c k l = { s with dies := (s.requestAll c k l).dies } := by
  induction l generalizing s with
  | nil => rfl
  | cons x l ih =>
    unfold State.requestAll
    split
    · rw [ih, s.requests_eq c k x.1]
    · exact s.requests_eq c k x.1

@[simp] theorem State.walkRequests_cur (s : State) (c : Ctx) (va : Word) : (s.walkRequests c va).cur = s.cur := (congrArg State.cur (State.walkRequests_eq s c va)).trans rfl
@[simp] theorem State.walkRequests_hart (s : State) (c : Ctx) (va : Word) : (s.walkRequests c va).hart = s.hart := (congrArg State.hart (State.walkRequests_eq s c va)).trans rfl
@[simp] theorem State.walkRequests_others (s : State) (c : Ctx) (va : Word) : (s.walkRequests c va).others = s.others := (congrArg State.others (State.walkRequests_eq s c va)).trans rfl
@[simp] theorem State.walkRequests_cores (s : State) (c : Ctx) (va : Word) : (s.walkRequests c va).cores = s.cores := (congrArg State.cores (State.walkRequests_eq s c va)).trans rfl
@[simp] theorem State.walkRequests_clusters (s : State) (c : Ctx) (va : Word) : (s.walkRequests c va).clusters = s.clusters := (congrArg State.clusters (State.walkRequests_eq s c va)).trans rfl
@[simp] theorem State.walkRequests_links (s : State) (c : Ctx) (va : Word) : (s.walkRequests c va).links = s.links := (congrArg State.links (State.walkRequests_eq s c va)).trans rfl
@[simp] theorem State.walkRequests_mem (s : State) (c : Ctx) (va : Word) : (s.walkRequests c va).mem = s.mem := (congrArg State.mem (State.walkRequests_eq s c va)).trans rfl
@[simp] theorem State.walkRequests_poison (s : State) (c : Ctx) (va : Word) : (s.walkRequests c va).poison = s.poison := (congrArg State.poison (State.walkRequests_eq s c va)).trans rfl
@[simp] theorem State.walkRequests_pend (s : State) (c : Ctx) (va : Word) : (s.walkRequests c va).pend = s.pend := (congrArg State.pend (State.walkRequests_eq s c va)).trans rfl
@[simp] theorem State.walkRequests_releases (s : State) (c : Ctx) (va : Word) : (s.walkRequests c va).releases = s.releases := (congrArg State.releases (State.walkRequests_eq s c va)).trans rfl
@[simp] theorem State.walkRequests_posted (s : State) (c : Ctx) (va : Word) : (s.walkRequests c va).posted = s.posted := (congrArg State.posted (State.walkRequests_eq s c va)).trans rfl
@[simp] theorem State.walkRequests_crews (s : State) (c : Ctx) (va : Word) : (s.walkRequests c va).crews = s.crews := (congrArg State.crews (State.walkRequests_eq s c va)).trans rfl
@[simp] theorem State.walkRequests_pieces (s : State) (c : Ctx) (va : Word) : (s.walkRequests c va).pieces = s.pieces := (congrArg State.pieces (State.walkRequests_eq s c va)).trans rfl
@[simp] theorem State.walkRequests_launches (s : State) (c : Ctx) (va : Word) : (s.walkRequests c va).launches = s.launches := (congrArg State.launches (State.walkRequests_eq s c va)).trans rfl
@[simp] theorem State.walkRequests_queues (s : State) (c : Ctx) (va : Word) : (s.walkRequests c va).queues = s.queues := (congrArg State.queues (State.walkRequests_eq s c va)).trans rfl
@[simp] theorem State.walkRequests_saved (s : State) (c : Ctx) (va : Word) : (s.walkRequests c va).saved = s.saved := (congrArg State.saved (State.walkRequests_eq s c va)).trans rfl
@[simp] theorem State.walkRequests_moving (s : State) (c : Ctx) (va : Word) : (s.walkRequests c va).moving = s.moving := (congrArg State.moving (State.walkRequests_eq s c va)).trans rfl
@[simp] theorem State.walkRequests_regs (s : State) (c : Ctx) (va : Word) : (s.walkRequests c va).regs = s.regs := (congrArg State.regs (State.walkRequests_eq s c va)).trans rfl
@[simp] theorem State.walkRequests_msix (s : State) (c : Ctx) (va : Word) : (s.walkRequests c va).msix = s.msix := (congrArg State.msix (State.walkRequests_eq s c va)).trans rfl
@[simp] theorem State.walkRequests_keys (s : State) (c : Ctx) (va : Word) : (s.walkRequests c va).keys = s.keys := (congrArg State.keys (State.walkRequests_eq s c va)).trans rfl
@[simp] theorem State.walkRequests_power (s : State) (c : Ctx) (va : Word) : (s.walkRequests c va).power = s.power := (congrArg State.power (State.walkRequests_eq s c va)).trans rfl
@[simp] theorem State.walkRequests_epoch (s : State) (c : Ctx) (va : Word) : (s.walkRequests c va).epoch = s.epoch := (congrArg State.epoch (State.walkRequests_eq s c va)).trans rfl
@[simp] theorem State.walkRequests_clk (s : State) (c : Ctx) (va : Word) : (s.walkRequests c va).clk = s.clk := (congrArg State.clk (State.walkRequests_eq s c va)).trans rfl
@[simp] theorem State.walkRequests_powered (s : State) (c : Ctx) (va : Word) : (s.walkRequests c va).powered = s.powered := (congrArg State.powered (State.walkRequests_eq s c va)).trans rfl
@[simp] theorem State.walkRequests_held (s : State) (c : Ctx) (va : Word) : (s.walkRequests c va).held = s.held := (congrArg State.held (State.walkRequests_eq s c va)).trans rfl
@[simp] theorem State.walkRequests_frozen (s : State) (c : Ctx) (va : Word) : (s.walkRequests c va).frozen = s.frozen := (congrArg State.frozen (State.walkRequests_eq s c va)).trans rfl
@[simp] theorem State.walkRequests_hostOut (s : State) (c : Ctx) (va : Word) : (s.walkRequests c va).hostOut = s.hostOut := (congrArg State.hostOut (State.walkRequests_eq s c va)).trans rfl
@[simp] theorem State.walkRequests_portMet (s : State) (c : Ctx) (va : Word) : (s.walkRequests c va).portMet = s.portMet := (congrArg State.portMet (State.walkRequests_eq s c va)).trans rfl
@[simp] theorem State.walkRequests_agenda (s : State) (c : Ctx) (va : Word) : (s.walkRequests c va).agenda = s.agenda := (congrArg State.agenda (State.walkRequests_eq s c va)).trans rfl
@[simp] theorem State.walkRequests_tick (s : State) (c : Ctx) (va : Word) : (s.walkRequests c va).tick = s.tick := (congrArg State.tick (State.walkRequests_eq s c va)).trans rfl

@[simp] theorem State.requests_cur (s : State) (c : Ctx) (k : Kind) (va : Word) : (s.requests c k va).cur = s.cur := (congrArg State.cur (State.requests_eq s c k va)).trans rfl
@[simp] theorem State.requests_hart (s : State) (c : Ctx) (k : Kind) (va : Word) : (s.requests c k va).hart = s.hart := (congrArg State.hart (State.requests_eq s c k va)).trans rfl
@[simp] theorem State.requests_others (s : State) (c : Ctx) (k : Kind) (va : Word) : (s.requests c k va).others = s.others := (congrArg State.others (State.requests_eq s c k va)).trans rfl
@[simp] theorem State.requests_cores (s : State) (c : Ctx) (k : Kind) (va : Word) : (s.requests c k va).cores = s.cores := (congrArg State.cores (State.requests_eq s c k va)).trans rfl
@[simp] theorem State.requests_clusters (s : State) (c : Ctx) (k : Kind) (va : Word) : (s.requests c k va).clusters = s.clusters := (congrArg State.clusters (State.requests_eq s c k va)).trans rfl
@[simp] theorem State.requests_links (s : State) (c : Ctx) (k : Kind) (va : Word) : (s.requests c k va).links = s.links := (congrArg State.links (State.requests_eq s c k va)).trans rfl
@[simp] theorem State.requests_mem (s : State) (c : Ctx) (k : Kind) (va : Word) : (s.requests c k va).mem = s.mem := (congrArg State.mem (State.requests_eq s c k va)).trans rfl
@[simp] theorem State.requests_poison (s : State) (c : Ctx) (k : Kind) (va : Word) : (s.requests c k va).poison = s.poison := (congrArg State.poison (State.requests_eq s c k va)).trans rfl
@[simp] theorem State.requests_pend (s : State) (c : Ctx) (k : Kind) (va : Word) : (s.requests c k va).pend = s.pend := (congrArg State.pend (State.requests_eq s c k va)).trans rfl
@[simp] theorem State.requests_releases (s : State) (c : Ctx) (k : Kind) (va : Word) : (s.requests c k va).releases = s.releases := (congrArg State.releases (State.requests_eq s c k va)).trans rfl
@[simp] theorem State.requests_posted (s : State) (c : Ctx) (k : Kind) (va : Word) : (s.requests c k va).posted = s.posted := (congrArg State.posted (State.requests_eq s c k va)).trans rfl
@[simp] theorem State.requests_crews (s : State) (c : Ctx) (k : Kind) (va : Word) : (s.requests c k va).crews = s.crews := (congrArg State.crews (State.requests_eq s c k va)).trans rfl
@[simp] theorem State.requests_pieces (s : State) (c : Ctx) (k : Kind) (va : Word) : (s.requests c k va).pieces = s.pieces := (congrArg State.pieces (State.requests_eq s c k va)).trans rfl
@[simp] theorem State.requests_launches (s : State) (c : Ctx) (k : Kind) (va : Word) : (s.requests c k va).launches = s.launches := (congrArg State.launches (State.requests_eq s c k va)).trans rfl
@[simp] theorem State.requests_queues (s : State) (c : Ctx) (k : Kind) (va : Word) : (s.requests c k va).queues = s.queues := (congrArg State.queues (State.requests_eq s c k va)).trans rfl
@[simp] theorem State.requests_saved (s : State) (c : Ctx) (k : Kind) (va : Word) : (s.requests c k va).saved = s.saved := (congrArg State.saved (State.requests_eq s c k va)).trans rfl
@[simp] theorem State.requests_moving (s : State) (c : Ctx) (k : Kind) (va : Word) : (s.requests c k va).moving = s.moving := (congrArg State.moving (State.requests_eq s c k va)).trans rfl
@[simp] theorem State.requests_regs (s : State) (c : Ctx) (k : Kind) (va : Word) : (s.requests c k va).regs = s.regs := (congrArg State.regs (State.requests_eq s c k va)).trans rfl
@[simp] theorem State.requests_msix (s : State) (c : Ctx) (k : Kind) (va : Word) : (s.requests c k va).msix = s.msix := (congrArg State.msix (State.requests_eq s c k va)).trans rfl
@[simp] theorem State.requests_keys (s : State) (c : Ctx) (k : Kind) (va : Word) : (s.requests c k va).keys = s.keys := (congrArg State.keys (State.requests_eq s c k va)).trans rfl
@[simp] theorem State.requests_power (s : State) (c : Ctx) (k : Kind) (va : Word) : (s.requests c k va).power = s.power := (congrArg State.power (State.requests_eq s c k va)).trans rfl
@[simp] theorem State.requests_epoch (s : State) (c : Ctx) (k : Kind) (va : Word) : (s.requests c k va).epoch = s.epoch := (congrArg State.epoch (State.requests_eq s c k va)).trans rfl
@[simp] theorem State.requests_clk (s : State) (c : Ctx) (k : Kind) (va : Word) : (s.requests c k va).clk = s.clk := (congrArg State.clk (State.requests_eq s c k va)).trans rfl
@[simp] theorem State.requests_powered (s : State) (c : Ctx) (k : Kind) (va : Word) : (s.requests c k va).powered = s.powered := (congrArg State.powered (State.requests_eq s c k va)).trans rfl
@[simp] theorem State.requests_held (s : State) (c : Ctx) (k : Kind) (va : Word) : (s.requests c k va).held = s.held := (congrArg State.held (State.requests_eq s c k va)).trans rfl
@[simp] theorem State.requests_frozen (s : State) (c : Ctx) (k : Kind) (va : Word) : (s.requests c k va).frozen = s.frozen := (congrArg State.frozen (State.requests_eq s c k va)).trans rfl
@[simp] theorem State.requests_hostOut (s : State) (c : Ctx) (k : Kind) (va : Word) : (s.requests c k va).hostOut = s.hostOut := (congrArg State.hostOut (State.requests_eq s c k va)).trans rfl
@[simp] theorem State.requests_portMet (s : State) (c : Ctx) (k : Kind) (va : Word) : (s.requests c k va).portMet = s.portMet := (congrArg State.portMet (State.requests_eq s c k va)).trans rfl
@[simp] theorem State.requests_agenda (s : State) (c : Ctx) (k : Kind) (va : Word) : (s.requests c k va).agenda = s.agenda := (congrArg State.agenda (State.requests_eq s c k va)).trans rfl
@[simp] theorem State.requests_tick (s : State) (c : Ctx) (k : Kind) (va : Word) : (s.requests c k va).tick = s.tick := (congrArg State.tick (State.requests_eq s c k va)).trans rfl

@[simp] theorem State.requestAll_cur (s : State) (c : Ctx) (k : Kind) (l : List (Word × Nat)) : (s.requestAll c k l).cur = s.cur := (congrArg State.cur (State.requestAll_eq s c k l)).trans rfl
@[simp] theorem State.requestAll_hart (s : State) (c : Ctx) (k : Kind) (l : List (Word × Nat)) : (s.requestAll c k l).hart = s.hart := (congrArg State.hart (State.requestAll_eq s c k l)).trans rfl
@[simp] theorem State.requestAll_others (s : State) (c : Ctx) (k : Kind) (l : List (Word × Nat)) : (s.requestAll c k l).others = s.others := (congrArg State.others (State.requestAll_eq s c k l)).trans rfl
@[simp] theorem State.requestAll_cores (s : State) (c : Ctx) (k : Kind) (l : List (Word × Nat)) : (s.requestAll c k l).cores = s.cores := (congrArg State.cores (State.requestAll_eq s c k l)).trans rfl
@[simp] theorem State.requestAll_clusters (s : State) (c : Ctx) (k : Kind) (l : List (Word × Nat)) : (s.requestAll c k l).clusters = s.clusters := (congrArg State.clusters (State.requestAll_eq s c k l)).trans rfl
@[simp] theorem State.requestAll_links (s : State) (c : Ctx) (k : Kind) (l : List (Word × Nat)) : (s.requestAll c k l).links = s.links := (congrArg State.links (State.requestAll_eq s c k l)).trans rfl
@[simp] theorem State.requestAll_mem (s : State) (c : Ctx) (k : Kind) (l : List (Word × Nat)) : (s.requestAll c k l).mem = s.mem := (congrArg State.mem (State.requestAll_eq s c k l)).trans rfl
@[simp] theorem State.requestAll_poison (s : State) (c : Ctx) (k : Kind) (l : List (Word × Nat)) : (s.requestAll c k l).poison = s.poison := (congrArg State.poison (State.requestAll_eq s c k l)).trans rfl
@[simp] theorem State.requestAll_pend (s : State) (c : Ctx) (k : Kind) (l : List (Word × Nat)) : (s.requestAll c k l).pend = s.pend := (congrArg State.pend (State.requestAll_eq s c k l)).trans rfl
@[simp] theorem State.requestAll_releases (s : State) (c : Ctx) (k : Kind) (l : List (Word × Nat)) : (s.requestAll c k l).releases = s.releases := (congrArg State.releases (State.requestAll_eq s c k l)).trans rfl
@[simp] theorem State.requestAll_posted (s : State) (c : Ctx) (k : Kind) (l : List (Word × Nat)) : (s.requestAll c k l).posted = s.posted := (congrArg State.posted (State.requestAll_eq s c k l)).trans rfl
@[simp] theorem State.requestAll_crews (s : State) (c : Ctx) (k : Kind) (l : List (Word × Nat)) : (s.requestAll c k l).crews = s.crews := (congrArg State.crews (State.requestAll_eq s c k l)).trans rfl
@[simp] theorem State.requestAll_pieces (s : State) (c : Ctx) (k : Kind) (l : List (Word × Nat)) : (s.requestAll c k l).pieces = s.pieces := (congrArg State.pieces (State.requestAll_eq s c k l)).trans rfl
@[simp] theorem State.requestAll_launches (s : State) (c : Ctx) (k : Kind) (l : List (Word × Nat)) : (s.requestAll c k l).launches = s.launches := (congrArg State.launches (State.requestAll_eq s c k l)).trans rfl
@[simp] theorem State.requestAll_queues (s : State) (c : Ctx) (k : Kind) (l : List (Word × Nat)) : (s.requestAll c k l).queues = s.queues := (congrArg State.queues (State.requestAll_eq s c k l)).trans rfl
@[simp] theorem State.requestAll_saved (s : State) (c : Ctx) (k : Kind) (l : List (Word × Nat)) : (s.requestAll c k l).saved = s.saved := (congrArg State.saved (State.requestAll_eq s c k l)).trans rfl
@[simp] theorem State.requestAll_moving (s : State) (c : Ctx) (k : Kind) (l : List (Word × Nat)) : (s.requestAll c k l).moving = s.moving := (congrArg State.moving (State.requestAll_eq s c k l)).trans rfl
@[simp] theorem State.requestAll_regs (s : State) (c : Ctx) (k : Kind) (l : List (Word × Nat)) : (s.requestAll c k l).regs = s.regs := (congrArg State.regs (State.requestAll_eq s c k l)).trans rfl
@[simp] theorem State.requestAll_msix (s : State) (c : Ctx) (k : Kind) (l : List (Word × Nat)) : (s.requestAll c k l).msix = s.msix := (congrArg State.msix (State.requestAll_eq s c k l)).trans rfl
@[simp] theorem State.requestAll_keys (s : State) (c : Ctx) (k : Kind) (l : List (Word × Nat)) : (s.requestAll c k l).keys = s.keys := (congrArg State.keys (State.requestAll_eq s c k l)).trans rfl
@[simp] theorem State.requestAll_power (s : State) (c : Ctx) (k : Kind) (l : List (Word × Nat)) : (s.requestAll c k l).power = s.power := (congrArg State.power (State.requestAll_eq s c k l)).trans rfl
@[simp] theorem State.requestAll_epoch (s : State) (c : Ctx) (k : Kind) (l : List (Word × Nat)) : (s.requestAll c k l).epoch = s.epoch := (congrArg State.epoch (State.requestAll_eq s c k l)).trans rfl
@[simp] theorem State.requestAll_clk (s : State) (c : Ctx) (k : Kind) (l : List (Word × Nat)) : (s.requestAll c k l).clk = s.clk := (congrArg State.clk (State.requestAll_eq s c k l)).trans rfl
@[simp] theorem State.requestAll_powered (s : State) (c : Ctx) (k : Kind) (l : List (Word × Nat)) : (s.requestAll c k l).powered = s.powered := (congrArg State.powered (State.requestAll_eq s c k l)).trans rfl
@[simp] theorem State.requestAll_held (s : State) (c : Ctx) (k : Kind) (l : List (Word × Nat)) : (s.requestAll c k l).held = s.held := (congrArg State.held (State.requestAll_eq s c k l)).trans rfl
@[simp] theorem State.requestAll_frozen (s : State) (c : Ctx) (k : Kind) (l : List (Word × Nat)) : (s.requestAll c k l).frozen = s.frozen := (congrArg State.frozen (State.requestAll_eq s c k l)).trans rfl
@[simp] theorem State.requestAll_hostOut (s : State) (c : Ctx) (k : Kind) (l : List (Word × Nat)) : (s.requestAll c k l).hostOut = s.hostOut := (congrArg State.hostOut (State.requestAll_eq s c k l)).trans rfl
@[simp] theorem State.requestAll_portMet (s : State) (c : Ctx) (k : Kind) (l : List (Word × Nat)) : (s.requestAll c k l).portMet = s.portMet := (congrArg State.portMet (State.requestAll_eq s c k l)).trans rfl
@[simp] theorem State.requestAll_agenda (s : State) (c : Ctx) (k : Kind) (l : List (Word × Nat)) : (s.requestAll c k l).agenda = s.agenda := (congrArg State.agenda (State.requestAll_eq s c k l)).trans rfl
@[simp] theorem State.requestAll_tick (s : State) (c : Ctx) (k : Kind) (l : List (Word × Nat)) : (s.requestAll c k l).tick = s.tick := (congrArg State.tick (State.requestAll_eq s c k l)).trans rfl

/-! ### State.setHart -/

@[simp] theorem State.setHart_cur (s : State) (h : Nat) (v : Hart) : (s.setHart h v).cur = s.cur := by
  unfold State.setHart; split <;> rfl
@[simp] theorem State.setHart_cores (s : State) (h : Nat) (v : Hart) : (s.setHart h v).cores = s.cores := by
  unfold State.setHart; split <;> rfl
@[simp] theorem State.setHart_clusters (s : State) (h : Nat) (v : Hart) : (s.setHart h v).clusters = s.clusters := by
  unfold State.setHart; split <;> rfl
@[simp] theorem State.setHart_dies (s : State) (h : Nat) (v : Hart) : (s.setHart h v).dies = s.dies := by
  unfold State.setHart; split <;> rfl
@[simp] theorem State.setHart_links (s : State) (h : Nat) (v : Hart) : (s.setHart h v).links = s.links := by
  unfold State.setHart; split <;> rfl
@[simp] theorem State.setHart_mem (s : State) (h : Nat) (v : Hart) : (s.setHart h v).mem = s.mem := by
  unfold State.setHart; split <;> rfl
@[simp] theorem State.setHart_poison (s : State) (h : Nat) (v : Hart) : (s.setHart h v).poison = s.poison := by
  unfold State.setHart; split <;> rfl
@[simp] theorem State.setHart_pend (s : State) (h : Nat) (v : Hart) : (s.setHart h v).pend = s.pend := by
  unfold State.setHart; split <;> rfl
@[simp] theorem State.setHart_releases (s : State) (h : Nat) (v : Hart) : (s.setHart h v).releases = s.releases := by
  unfold State.setHart; split <;> rfl
@[simp] theorem State.setHart_posted (s : State) (h : Nat) (v : Hart) : (s.setHart h v).posted = s.posted := by
  unfold State.setHart; split <;> rfl
@[simp] theorem State.setHart_crews (s : State) (h : Nat) (v : Hart) : (s.setHart h v).crews = s.crews := by
  unfold State.setHart; split <;> rfl
@[simp] theorem State.setHart_pieces (s : State) (h : Nat) (v : Hart) : (s.setHart h v).pieces = s.pieces := by
  unfold State.setHart; split <;> rfl
@[simp] theorem State.setHart_launches (s : State) (h : Nat) (v : Hart) : (s.setHart h v).launches = s.launches := by
  unfold State.setHart; split <;> rfl
@[simp] theorem State.setHart_queues (s : State) (h : Nat) (v : Hart) : (s.setHart h v).queues = s.queues := by
  unfold State.setHart; split <;> rfl
@[simp] theorem State.setHart_saved (s : State) (h : Nat) (v : Hart) : (s.setHart h v).saved = s.saved := by
  unfold State.setHart; split <;> rfl
@[simp] theorem State.setHart_moving (s : State) (h : Nat) (v : Hart) : (s.setHart h v).moving = s.moving := by
  unfold State.setHart; split <;> rfl
@[simp] theorem State.setHart_regs (s : State) (h : Nat) (v : Hart) : (s.setHart h v).regs = s.regs := by
  unfold State.setHart; split <;> rfl
@[simp] theorem State.setHart_msix (s : State) (h : Nat) (v : Hart) : (s.setHart h v).msix = s.msix := by
  unfold State.setHart; split <;> rfl
@[simp] theorem State.setHart_keys (s : State) (h : Nat) (v : Hart) : (s.setHart h v).keys = s.keys := by
  unfold State.setHart; split <;> rfl
@[simp] theorem State.setHart_power (s : State) (h : Nat) (v : Hart) : (s.setHart h v).power = s.power := by
  unfold State.setHart; split <;> rfl
@[simp] theorem State.setHart_epoch (s : State) (h : Nat) (v : Hart) : (s.setHart h v).epoch = s.epoch := by
  unfold State.setHart; split <;> rfl
@[simp] theorem State.setHart_clk (s : State) (h : Nat) (v : Hart) : (s.setHart h v).clk = s.clk := by
  unfold State.setHart; split <;> rfl
@[simp] theorem State.setHart_powered (s : State) (h : Nat) (v : Hart) : (s.setHart h v).powered = s.powered := by
  unfold State.setHart; split <;> rfl
@[simp] theorem State.setHart_held (s : State) (h : Nat) (v : Hart) : (s.setHart h v).held = s.held := by
  unfold State.setHart; split <;> rfl
@[simp] theorem State.setHart_frozen (s : State) (h : Nat) (v : Hart) : (s.setHart h v).frozen = s.frozen := by
  unfold State.setHart; split <;> rfl
@[simp] theorem State.setHart_hostOut (s : State) (h : Nat) (v : Hart) : (s.setHart h v).hostOut = s.hostOut := by
  unfold State.setHart; split <;> rfl
@[simp] theorem State.setHart_portMet (s : State) (h : Nat) (v : Hart) : (s.setHart h v).portMet = s.portMet := by
  unfold State.setHart; split <;> rfl
@[simp] theorem State.setHart_agenda (s : State) (h : Nat) (v : Hart) : (s.setHart h v).agenda = s.agenda := by
  unfold State.setHart; split <;> rfl
@[simp] theorem State.setHart_tick (s : State) (h : Nat) (v : Hart) : (s.setHart h v).tick = s.tick := by
  unfold State.setHart; split <;> rfl

/-! ### State.modHart -/

@[simp] theorem State.modHart_cur (s : State) (h : Nat) (f : Hart → Hart) : (s.modHart h f).cur = s.cur := State.setHart_cur ..
@[simp] theorem State.modHart_cores (s : State) (h : Nat) (f : Hart → Hart) : (s.modHart h f).cores = s.cores := State.setHart_cores ..
@[simp] theorem State.modHart_clusters (s : State) (h : Nat) (f : Hart → Hart) : (s.modHart h f).clusters = s.clusters := State.setHart_clusters ..
@[simp] theorem State.modHart_dies (s : State) (h : Nat) (f : Hart → Hart) : (s.modHart h f).dies = s.dies := State.setHart_dies ..
@[simp] theorem State.modHart_links (s : State) (h : Nat) (f : Hart → Hart) : (s.modHart h f).links = s.links := State.setHart_links ..
@[simp] theorem State.modHart_mem (s : State) (h : Nat) (f : Hart → Hart) : (s.modHart h f).mem = s.mem := State.setHart_mem ..
@[simp] theorem State.modHart_poison (s : State) (h : Nat) (f : Hart → Hart) : (s.modHart h f).poison = s.poison := State.setHart_poison ..
@[simp] theorem State.modHart_pend (s : State) (h : Nat) (f : Hart → Hart) : (s.modHart h f).pend = s.pend := State.setHart_pend ..
@[simp] theorem State.modHart_releases (s : State) (h : Nat) (f : Hart → Hart) : (s.modHart h f).releases = s.releases := State.setHart_releases ..
@[simp] theorem State.modHart_posted (s : State) (h : Nat) (f : Hart → Hart) : (s.modHart h f).posted = s.posted := State.setHart_posted ..
@[simp] theorem State.modHart_crews (s : State) (h : Nat) (f : Hart → Hart) : (s.modHart h f).crews = s.crews := State.setHart_crews ..
@[simp] theorem State.modHart_pieces (s : State) (h : Nat) (f : Hart → Hart) : (s.modHart h f).pieces = s.pieces := State.setHart_pieces ..
@[simp] theorem State.modHart_launches (s : State) (h : Nat) (f : Hart → Hart) : (s.modHart h f).launches = s.launches := State.setHart_launches ..
@[simp] theorem State.modHart_queues (s : State) (h : Nat) (f : Hart → Hart) : (s.modHart h f).queues = s.queues := State.setHart_queues ..
@[simp] theorem State.modHart_saved (s : State) (h : Nat) (f : Hart → Hart) : (s.modHart h f).saved = s.saved := State.setHart_saved ..
@[simp] theorem State.modHart_moving (s : State) (h : Nat) (f : Hart → Hart) : (s.modHart h f).moving = s.moving := State.setHart_moving ..
@[simp] theorem State.modHart_regs (s : State) (h : Nat) (f : Hart → Hart) : (s.modHart h f).regs = s.regs := State.setHart_regs ..
@[simp] theorem State.modHart_msix (s : State) (h : Nat) (f : Hart → Hart) : (s.modHart h f).msix = s.msix := State.setHart_msix ..
@[simp] theorem State.modHart_keys (s : State) (h : Nat) (f : Hart → Hart) : (s.modHart h f).keys = s.keys := State.setHart_keys ..
@[simp] theorem State.modHart_power (s : State) (h : Nat) (f : Hart → Hart) : (s.modHart h f).power = s.power := State.setHart_power ..
@[simp] theorem State.modHart_epoch (s : State) (h : Nat) (f : Hart → Hart) : (s.modHart h f).epoch = s.epoch := State.setHart_epoch ..
@[simp] theorem State.modHart_clk (s : State) (h : Nat) (f : Hart → Hart) : (s.modHart h f).clk = s.clk := State.setHart_clk ..
@[simp] theorem State.modHart_powered (s : State) (h : Nat) (f : Hart → Hart) : (s.modHart h f).powered = s.powered := State.setHart_powered ..
@[simp] theorem State.modHart_held (s : State) (h : Nat) (f : Hart → Hart) : (s.modHart h f).held = s.held := State.setHart_held ..
@[simp] theorem State.modHart_frozen (s : State) (h : Nat) (f : Hart → Hart) : (s.modHart h f).frozen = s.frozen := State.setHart_frozen ..
@[simp] theorem State.modHart_hostOut (s : State) (h : Nat) (f : Hart → Hart) : (s.modHart h f).hostOut = s.hostOut := State.setHart_hostOut ..
@[simp] theorem State.modHart_portMet (s : State) (h : Nat) (f : Hart → Hart) : (s.modHart h f).portMet = s.portMet := State.setHart_portMet ..
@[simp] theorem State.modHart_agenda (s : State) (h : Nat) (f : Hart → Hart) : (s.modHart h f).agenda = s.agenda := State.setHart_agenda ..
@[simp] theorem State.modHart_tick (s : State) (h : Nat) (f : Hart → Hart) : (s.modHart h f).tick = s.tick := State.setHart_tick ..

/-! ### The current hart -/

@[simp] theorem State.setX_hart (s : State) (r : Reg) (v : Word) : (s.setX r v).hart = s.hart.setReg r v := rfl
@[simp] theorem State.withHart_hart (s : State) (f : Hart → Hart) : (s.withHart f).hart = f s.hart := rfl
@[simp] theorem State.retire_hart (s : State) : s.retire.hart = s.hart.retireTo (s.hart.pc + 4) := rfl
@[simp] theorem State.trap_hart (s : State) (t : Trap) : (s.trap t).hart = s.hart.trap t := rfl
@[simp] theorem State.withHart_id (s : State) : s.withHart id = s := rfl

/-! ### Tables of cores, clusters, dies and harts -/

theorem State.coreAt_modCore (s : State) (c k : Nat) (f : Core → Core) :
    (s.modCore c f).coreAt k = if k = c then f (s.coreAt c) else s.coreAt k := Tab.get_modify ..

theorem State.clusterAt_modCluster (s : State) (c k : Nat) (f : Cluster → Cluster) :
    (s.modCluster c f).clusterAt k = if k = c then f (s.clusterAt c) else s.clusterAt k := Tab.get_modify ..

theorem State.dieAt_modDie (s : State) (d k : Nat) (f : Die → Die) :
    (s.modDie d f).dieAt k = if k = d then f (s.dieAt d) else s.dieAt k := Tab.get_modify ..

@[simp] theorem State.coreAt_modCluster (s : State) (c k : Nat) (f : Cluster → Cluster) : (s.modCluster c f).coreAt k = s.coreAt k := rfl
@[simp] theorem State.coreAt_modDie (s : State) (d k : Nat) (f : Die → Die) : (s.modDie d f).coreAt k = s.coreAt k := rfl
@[simp] theorem State.clusterAt_modCore (s : State) (c k : Nat) (f : Core → Core) : (s.modCore c f).clusterAt k = s.clusterAt k := rfl
@[simp] theorem State.clusterAt_modDie (s : State) (d k : Nat) (f : Die → Die) : (s.modDie d f).clusterAt k = s.clusterAt k := rfl
@[simp] theorem State.dieAt_modCore (s : State) (c k : Nat) (f : Core → Core) : (s.modCore c f).dieAt k = s.dieAt k := rfl
@[simp] theorem State.dieAt_modCluster (s : State) (c k : Nat) (f : Cluster → Cluster) : (s.modCluster c f).dieAt k = s.dieAt k := rfl
@[simp] theorem State.hartAt_modCore (s : State) (c h : Nat) (f : Core → Core) : (s.modCore c f).hartAt h = s.hartAt h := rfl
@[simp] theorem State.hartAt_modCluster (s : State) (c h : Nat) (f : Cluster → Cluster) : (s.modCluster c f).hartAt h = s.hartAt h := rfl
@[simp] theorem State.hartAt_modDie (s : State) (d h : Nat) (f : Die → Die) : (s.modDie d f).hartAt h = s.hartAt h := rfl

theorem State.hartAt_cur (s : State) : s.hartAt s.cur = s.hart := if_pos rfl

theorem State.hartAt_setHart (s : State) (h k : Nat) (v : Hart) : (s.setHart h v).hartAt k = if k = h then v else s.hartAt k := by
  unfold State.setHart State.hartAt
  by_cases hc : h = s.cur
  · subst hc; by_cases hk : k = s.cur <;> simp [hk]
  · by_cases hk : k = s.cur
    · subst hk; simp [hc, Ne.symm hc]
    · by_cases h2 : k = h
      · subst h2; simp [hc]
      · simp [hc, hk, h2, Tab.get_put_other _ _ _ _ h2]

theorem State.hartAt_modHart (s : State) (h k : Nat) (f : Hart → Hart) :
    (s.modHart h f).hartAt k = if k = h then f (s.hartAt h) else s.hartAt k := State.hartAt_setHart ..

/-! ### General registers -/

@[simp] theorem State.x_zero (s : State) : s.x 0 = 0 := rfl

theorem Hart.reg_setReg (h : Hart) (d r : Reg) (v : Word) : (h.setReg d v).reg r = if r = d ∧ d ≠ 0 then v else h.reg r := by
  by_cases hd : d = 0
  · have hn : ¬(r = d ∧ d ≠ 0) := fun c => c.2 hd
    rw [Hart.setReg, if_pos hd, if_neg hn]
  · rw [Hart.setReg, if_neg hd]
    by_cases h0 : r = 0
    · have hn : ¬(r = d ∧ d ≠ 0) := fun c => hd (c.1.symm.trans h0)
      rw [if_neg hn, Hart.reg, Hart.reg, if_pos h0, if_pos h0]
    · rw [Hart.reg, if_neg h0]
      by_cases hr : r = d
      · rw [if_pos ⟨hr, hd⟩, hr, Tab.get_put_same]
      · have hn : r.toNat ≠ d.toNat := fun h => hr (BitVec.eq_of_toNat_eq h)
        have hm : ¬(r = d ∧ d ≠ 0) := fun c => hr c.1
        rw [if_neg hm, Hart.reg, if_neg h0, Tab.get_put_ne _ _ _ hn]

theorem State.x_setX (s : State) (d r : Reg) (v : Word) : (s.setX d v).x r = if r = d ∧ d ≠ 0 then v else s.x r := Hart.reg_setReg ..

end Sys2Proof.Machine
end

