-- ==== Sys2Proof/Laws/Memory.lean ====
section
/-! SUPPORT. Memory: what a byte reads as after each operation that writes memory, that each keeps the canonical form, and the operations that
leave memory alone. -/

namespace Sys2Proof.Machine

/-! ### Bytes -/

@[simp] theorem leBytes_length (n v : Nat) : (leBytes n v).length = n := by
  induction n generalizing v with
  | zero => rfl
  | succ n ih => simp [leBytes, ih]

theorem leBytes_getD (n v i : Nat) (h : i < n) : (leBytes n v).getD i 0 = BitVec.ofNat 8 (v / 256 ^ i) := by
  induction n generalizing v i with
  | zero => exact absurd h (Nat.not_lt_zero i)
  | succ n ih =>
    cases i with
    | zero => simp [leBytes]
    | succ i =>
      have := ih (v / 256) i (Nat.lt_of_succ_lt_succ h)
      rw [Nat.div_div_eq_div_mul, ← Nat.pow_add_one'] at this
      simpa [leBytes] using this

/-! ### Lists of bytes in memory -/

theorem get_putBytes (m : List Host.Cell) (pa q : Nat) (bs : List Byte) :
    Tab.get Config.unwritten (putBytes m pa bs) q = if pa ≤ q ∧ q < pa + bs.length then bs.getD (q - pa) 0 else Tab.get Config.unwritten m q := by
  induction bs generalizing m pa with
  | nil =>
    have : ¬(pa ≤ q ∧ q < pa + ([] : List Byte).length) := fun h => absurd h.2 (Nat.not_lt.2 h.1)
    rw [if_neg this]; rfl
  | cons b bs ih =>
    rw [putBytes, ih, List.length_cons]
    by_cases h0 : q = pa
    · subst h0
      rw [if_neg (by omega), if_pos (by omega), Tab.get_put_same]; simp
    · by_cases h1 : pa + 1 ≤ q ∧ q < pa + 1 + bs.length
      · rw [if_pos h1, if_pos (by omega)]
        have : q - pa = q - (pa + 1) + 1 := by omega
        rw [this]; simp
      · rw [if_neg h1, if_neg (by omega), Tab.get_put_ne _ _ _ h0]

theorem wf_putBytes (m : List Host.Cell) (pa : Nat) (bs : List Byte) (h : Memory.wf m = true) : Memory.wf (putBytes m pa bs) = true := by
  induction bs generalizing m pa with
  | nil => exact h
  | cons b bs ih => exact ih _ _ (Tab.wf_put _ _ _ _ h)

theorem wf_putWritten (v : Nat → Byte) (ps : List PendWrite) (m : List Host.Cell) (h : Memory.wf m = true) :
    Memory.wf (putWritten v ps m) = true := by
  have hf : ∀ (l : List Nat) (pa : Nat) (m : List Host.Cell), Memory.wf m = true →
      Memory.wf (l.foldl (fun m i => Tab.put Config.unwritten m (pa + i) (v (pa + i))) m) = true := by
    intro l pa
    induction l with
    | nil => exact fun m hm => hm
    | cons i l ih => exact fun m hm => ih _ (Tab.wf_put _ _ _ _ hm)
  induction ps generalizing m with
  | nil => exact h
  | cons p ps ih => exact ih _ (hf _ _ _ h)

theorem wf_filter (m : List Host.Cell) (q : Host.Cell → Bool) (h : Memory.wf m = true) : Memory.wf (m.filter q) = true := Tab.wf_filter _ _ _ h

/-- What a filtered memory reads: what stays is as it was, what goes reads as unwritten memory. -/
theorem get_filter (m : List Host.Cell) (q : Nat → Bool) (a : Nat) :
    Tab.get Config.unwritten (m.filter (fun c => q c.1)) a = if q a then Tab.get Config.unwritten m a else Config.unwritten := by
  induction m with
  | nil => simp
  | cons c m ih =>
    rw [List.filter_cons]
    by_cases hc : q c.1 = true
    · rw [if_pos hc, Tab.get, ih]
      by_cases ha : a = c.1
      · subst ha; simp [Tab.get, hc]
      · by_cases hq : q a = true <;> simp [Tab.get, ha, hq]
    · rw [if_neg hc, ih]
      by_cases ha : a = c.1
      · subst ha; simp [hc]
      · simp [Tab.get, ha]

/-! ### The operations that write memory -/

theorem State.latest_write (s : State) (a : AgentId) (p : Point) (e : Bool) (w pa : Nat) (bs : List Byte) (q : Nat) :
    (s.write a p e w pa bs).latest q = if pa ≤ q ∧ q < pa + bs.length then bs.getD (q - pa) 0 else s.latest q := by
  have h : (s.write a p e w pa bs).mem = putBytes s.mem pa bs := by unfold State.write State.touch; dsimp only; split <;> rfl
  unfold State.latest; rw [h]; exact get_putBytes ..

theorem State.wf_write (s : State) (a : AgentId) (p : Point) (e : Bool) (w pa : Nat) (bs : List Byte) (h : Memory.wf s.mem = true) :
    Memory.wf (s.write a p e w pa bs).mem = true := by
  unfold State.write State.touch; dsimp only; split <;> exact wf_putBytes _ _ _ h

theorem State.latest_put (s : State) (c : Ctx) (sc : Scope) (pa n v q : Nat) :
    (s.put c sc pa n v).latest q = if pa ≤ q ∧ q < pa + n then BitVec.ofNat 8 (v / 256 ^ (q - pa)) else s.latest q := by
  rw [State.put, State.latest_write, leBytes_length]
  by_cases h : pa ≤ q ∧ q < pa + n
  · rw [if_pos h, if_pos h, leBytes_getD _ _ _ (by omega)]
  · rw [if_neg h, if_neg h]

theorem State.wf_put (s : State) (c : Ctx) (sc : Scope) (pa n v : Nat) (h : Memory.wf s.mem = true) : Memory.wf (s.put c sc pa n v).mem = true :=
  State.wf_write _ _ _ _ _ _ _ h

/-- Memory after a write enters the coherence order in its place. -/
theorem State.insertWrite_mem (s : State) (sees : PendWrite → Bool) (w : PendWrite) :
    (s.insertWrite sees w).mem = putBytes s.mem w.pa
      ((List.range w.new.length).map (fun i => newestByte (w.pa + i) (s.latest (w.pa + i)) (addBelow sees w s.beneath s.pend))) := by
  unfold State.insertWrite State.touch; dsimp only; split <;> rfl

theorem State.wf_insertWrite (s : State) (sees : PendWrite → Bool) (w : PendWrite) (h : Memory.wf s.mem = true) :
    Memory.wf (s.insertWrite sees w).mem = true := by
  rw [State.insertWrite_mem]; exact wf_putBytes _ _ _ h

/-- Outside its bytes a write leaves every location at its latest write. -/
theorem State.latest_insertWrite_ne (s : State) (sees : PendWrite → Bool) (w : PendWrite) (q : Nat) (h : ¬(w.pa ≤ q ∧ q < w.pa + w.new.length)) :
    (s.insertWrite sees w).latest q = s.latest q := by
  unfold State.latest
  rw [State.insertWrite_mem, get_putBytes, if_neg (by simpa using h)]

/-- In its bytes, where every write under way is one that `sees` accepts, it is the latest write. -/
theorem State.latest_insertWrite (s : State) (sees : PendWrite → Bool) (w : PendWrite) (q : Nat) (hq : w.pa ≤ q ∧ q < w.pa + w.new.length)
    (h : s.pend.any (fun p => p.touches w.pa w.new.length && !sees p) = false) : (s.insertWrite sees w).latest q = w.new.getD (q - w.pa) 0 := by
  have ha : addBelow sees w s.beneath s.pend = w :: s.pend := by unfold addBelow; rw [if_neg (by simpa using h)]
  have hi : q - w.pa < w.new.length := by omega
  have hc : w.covers (w.pa + (q - w.pa)) = true := by simp [PendWrite.covers]; omega
  have hs : w.pa + (q - w.pa) - w.pa = q - w.pa := by omega
  rw [State.latest, State.insertWrite_mem, get_putBytes, if_pos (by simpa using hq), ha, List.getD_eq_getElem?_getD, List.getElem?_map,
    List.getElem?_range hi]
  simp only [Option.map_some, Option.getD_some]
  rw [newestByte, if_pos hc, hs]

/-- Writes that appear where no other write waits leave memory as it is. -/
theorem State.appearing_mem (s : State) (ms : List (Bool × PendWrite)) (h : crosses ms = false) : (s.appearing ms).mem = s.mem := by
  unfold State.appearing; dsimp only; rw [if_neg (by simp [h])]

theorem State.wf_appearing (s : State) (ms : List (Bool × PendWrite)) (h : Memory.wf s.mem = true) : Memory.wf (s.appearing ms).mem = true := by
  unfold State.appearing; dsimp only
  split
  · exact wf_putWritten _ _ _ h
  · exact h

theorem State.wf_appear (s : State) (a : AgentId) (h : Memory.wf s.mem = true) : Memory.wf (s.appear a).mem = true := s.wf_appearing _ h

theorem State.wf_release (s : State) (a : AgentId) (sc : Scope) (h : Memory.wf s.mem = true) : Memory.wf (s.release a sc).mem = true :=
  s.wf_appear a h

theorem State.wf_performNow (s : State) (a : AgentId) (pa n : Nat) (h : Memory.wf s.mem = true) : Memory.wf (s.performNow a pa n).mem = true :=
  s.wf_appear a h

/-- Outside its bytes an AMO leaves every location at its latest write, once its agent's earlier writes have appeared. -/
theorem State.latest_amoPut_ne (s : State) (a : AgentId) (pa : Nat) (bs : List Byte) (q : Nat) (h : ¬(pa ≤ q ∧ q < pa + bs.length)) :
    (s.amoPut a pa bs).latest q = (s.appear a).latest q := (s.appear a).latest_insertWrite_ne _ _ q h

/-- In its bytes, where no write of another agent waits to appear, an AMO is the latest write. -/
theorem State.latest_amoPut (s : State) (a : AgentId) (pa : Nat) (bs : List Byte) (q : Nat) (hq : pa ≤ q ∧ q < pa + bs.length)
    (h : (s.appear a).pend.any (fun p => p.touches pa bs.length && !p.amoSees a) = false) :
    (s.amoPut a pa bs).latest q = bs.getD (q - pa) 0 := (s.appear a).latest_insertWrite _ _ q hq h

theorem State.wf_amoPut (s : State) (a : AgentId) (pa : Nat) (bs : List Byte) (h : Memory.wf s.mem = true) :
    Memory.wf (s.amoPut a pa bs).mem = true := (s.appear a).wf_insertWrite _ _ (s.wf_appear a h)

theorem State.wf_writeNibble (s : State) (a : AgentId) (p : Point) (w pa n v : Nat) (h : Memory.wf s.mem = true) :
    Memory.wf (s.writeNibble a p w pa n v).mem = true := by
  unfold State.writeNibble State.touch; dsimp only; split <;> exact wf_putBytes _ _ _ h

theorem State.wf_atomicPut (s : State) (a : AgentId) (pa n v : Nat) (h : Memory.wf s.mem = true) : Memory.wf (s.atomicPut a pa n v).mem = true :=
  s.wf_amoPut a pa _ h

theorem State.wf_publish (s : State) (a : AgentId) (sc : Scope) (pa n v : Nat) (h : Memory.wf s.mem = true) :
    Memory.wf (s.publish a sc pa n v).mem = true := State.wf_write (s.release a sc) _ _ _ _ _ _ (s.wf_release a sc h)

theorem State.latest_zeroRange (s : State) (pa n q : Nat) :
    (s.zeroRange pa n).latest q = if pa ≤ q ∧ q < pa + n then Config.unwritten else s.latest q := by
  have := get_filter s.mem (fun a => !(decide (pa ≤ a) && decide (a < pa + n))) q
  unfold State.latest State.zeroRange
  rw [this]
  by_cases h : pa ≤ q ∧ q < pa + n
  · simp [h]
  · rw [if_neg h, if_pos (by simp; omega)]

theorem State.wf_zeroRange (s : State) (pa n : Nat) (h : Memory.wf s.mem = true) : Memory.wf (s.zeroRange pa n).mem = true := wf_filter _ _ h

theorem State.latest_wipeDie (s : State) (d q : Nat) :
    (s.wipeDie d).latest q = if dieHolding q = some d then Config.unwritten else s.latest q := by
  have := get_filter s.mem (fun a => decide (dieHolding a ≠ some d)) q
  unfold State.latest State.wipeDie
  rw [this]
  by_cases h : dieHolding q = some d <;> simp [h]

theorem State.wf_wipeDie (s : State) (d : Nat) (h : Memory.wf s.mem = true) : Memory.wf (s.wipeDie d).mem = true := wf_filter _ _ h

theorem State.wf_place' (s : State) (pa : Nat) (bs : List Byte) (h : Memory.wf s.mem = true) : Memory.wf (s.place' pa bs).mem = true :=
  wf_putBytes _ _ _ h

theorem wf_reset : Memory.wf State.reset.mem = true := rfl

/-- What outlasts a package reset is in the canonical form (24 R438). -/
theorem State.wf_survivingMem (s : State) (h : Memory.wf s.mem = true) : Memory.wf s.survivingMem = true := wf_putWritten _ _ _ (wf_filter _ _ h)

theorem wf_packageReset (s : State) (h : Memory.wf s.mem = true) :
    ∃ t, execPackageReset s = .next t ∧ Memory.wf t.mem = true := ⟨_, rfl, s.wf_survivingMem h⟩

/-- Lost writes leave memory in its canonical form. -/
theorem State.wf_dropWrites (s : State) (lost : PendWrite → Bool) (h : Memory.wf s.mem = true) : Memory.wf (s.dropWrites lost).mem = true := by
  unfold State.dropWrites; dsimp only; exact wf_putWritten _ _ _ h

/-! ### Operations that leave memory alone -/

@[simp] theorem State.switchTo_mem (s : State) (h : Nat) : (s.switchTo h).mem = s.mem := by unfold State.switchTo; split <;> rfl
@[simp] theorem State.observeAt_mem (s : State) (c : Ctx) (sc : Scope) (va : Word) (n : Nat) : (s.observeAt c sc va n).mem = s.mem := by
  unfold State.observeAt; split <;> simp
@[simp] theorem State.setHirqBit_mem (s : State) (h i : Nat) (b : Bool) : (s.setHirqBit h i b).mem = s.mem := rfl
@[simp] theorem State.clearNotices_mem (s : State) (h : Nat) : (s.clearNotices h).mem = s.mem := rfl

/-- A fold of operations that leave memory alone leaves it alone. -/
theorem foldl_mem {α : Type} (f : State → α → State) (h : ∀ s a, (f s a).mem = s.mem) (l : List α) (s : State) : (l.foldl f s).mem = s.mem := by
  induction l generalizing s with
  | nil => rfl
  | cons a l ih => rw [List.foldl_cons, ih, h]

/-- A fold of operations that keep the canonical form keeps it. -/
theorem foldl_wf {α : Type} (f : State → α → State) (h : ∀ s a, Memory.wf s.mem = true → Memory.wf (f s a).mem = true) (l : List α) (s : State)
    (hs : Memory.wf s.mem = true) : Memory.wf (l.foldl f s).mem = true := by
  induction l generalizing s with
  | nil => exact hs
  | cons a l ih => exact ih _ (h _ _ hs)

@[simp] theorem State.noticeDie_mem (s : State) : s.noticeDie.mem = s.mem :=
  foldl_mem _ (fun s d => foldl_mem (fun s h => s.setHirqBit h 2 true) (fun s h => s.setHirqBit_mem h 2 true) (hartsOfDie d) s) _ _
@[simp] theorem State.raiseVector_mem (s : State) (v : Nat) : (s.raiseVector v).mem = s.mem := by
  unfold State.raiseVector; dsimp only; split <;> rfl
@[simp] theorem State.logRecord_mem (s : State) (d : Nat) (r : LogRecord) : (s.logRecord d r).mem = s.mem := by
  unfold State.logRecord; dsimp only
  split
  · rfl
  · split
    · simp
    · rfl
@[simp] theorem State.record_mem (s : State) (d kind : Nat) (l : Bool) (site : Nat) (a b : Word) (h i : Nat) :
    (s.record d kind l site a b h i).mem = s.mem := State.logRecord_mem ..
theorem State.wf_loseWrites (s : State) (d : Nat) (h : Memory.wf s.mem = true) : Memory.wf (s.loseWrites d).mem = true := by
  unfold State.loseWrites; dsimp only
  exact State.wf_dropWrites _ _ (by rw [foldl_mem _ (fun s p => s.record_mem ..)]; exact h)
@[simp] theorem State.siteError_mem (s : State) (d k : Nat) : (s.siteError d k).mem = s.mem := by unfold State.siteError; split <;> rfl
@[simp] theorem State.correctedError_mem (s : State) (d k : Nat) : (s.correctedError d k).mem = s.mem := by
  unfold State.correctedError; split <;> simp
@[simp] theorem State.uncorrectable_mem (s : State) (k d : Nat) : (s.uncorrectable k d).mem = s.mem := by simp [State.uncorrectable]
@[simp] theorem State.logPort_mem (s : State) (pa : Nat) (asid : Word) (h x : Nat) : (s.logPort pa asid h x).mem = s.mem := by
  unfold State.logPort; split <;> simp
@[simp] theorem State.setDieState_mem (s : State) (d st : Nat) : (s.setDieState d st).mem = s.mem := by
  unfold State.setDieState; dsimp only
  split
  · rfl
  · split <;> simp
@[simp] theorem State.releaseChannels_mem (s : State) (h : Nat) : (s.releaseChannels h).mem = s.mem := by simp [State.releaseChannels]
@[simp] theorem State.setStream_mem (s : State) (h q : Nat) (v : Stream) : (s.setStream h q v).mem = s.mem := by simp [State.setStream]
@[simp] theorem State.dropEntries_mem (s : State) (h : Nat) : (s.dropEntries h).mem = s.mem := rfl
@[simp] theorem State.modCrew_mem (s : State) (n : Nat) (f : Crew → Crew) : (s.modCrew n f).mem = s.mem := rfl
@[simp] theorem State.dropCrew_mem (s : State) (n : Nat) : (s.dropCrew n).mem = s.mem := rfl
@[simp] theorem State.touchAt_mem (s : State) (pa : Nat) : (s.touchAt pa).mem = s.mem := State.touch_mem ..
@[simp] theorem State.tellQueue_mem (s : State) (q : Option Nat) : (s.tellQueue q).mem = s.mem := by
  unfold State.tellQueue
  split
  · split <;> simp
  · rfl

theorem State.wf_unbind (s : State) (h q : Nat) (hs : Memory.wf s.mem = true) : Memory.wf (s.unbind h q).mem = true := by
  unfold State.unbind; dsimp only
  split
  · exact State.wf_zeroRange _ _ _ (by simpa using hs)
  · exact hs

theorem State.wf_unbindAll (s : State) (h : Nat) (hs : Memory.wf s.mem = true) : Memory.wf (s.unbindAll h).mem = true :=
  foldl_wf _ (fun s q => s.wf_unbind h q) _ _ hs

theorem State.wf_amoOr (s t : State) (c : Ctx) (sc : Scope) (va : Word) (v : Nat) (h : s.amoOr c sc va v = some t) (hs : Memory.wf s.mem = true) :
    Memory.wf t.mem = true := by
  unfold State.amoOr at h
  split at h
  · split at h
    · cases h
    · cases h; exact State.wf_atomicPut _ _ _ _ _ (by rw [State.amoObserve_mem]; exact State.wf_release _ _ sc (by simpa using hs))
  · cases h

end Sys2Proof.Machine
end

