-- ==== Sys2Proof/Laws/Ops.lean ====
section
/-! SUPPORT. The shared operations of the meanings, each said once: what a hart keeps through retirement and trap entry, and every outcome of an
operation that may trap. A proof about an instruction cites these and does not unfold them. -/

namespace Sys2Proof.Machine

/-! ### A hart through retirement, settling and trap entry -/

@[simp] theorem Hart.setReg_level (h : Hart) (r : Reg) (v : Word) : (h.setReg r v).level = h.level := by unfold Hart.setReg; split <;> rfl
@[simp] theorem Hart.setReg_pc (h : Hart) (r : Reg) (v : Word) : (h.setReg r v).pc = h.pc := by unfold Hart.setReg; split <;> rfl
@[simp] theorem Hart.setReg_fflags (h : Hart) (r : Reg) (v : Word) : (h.setReg r v).fflags = h.fflags := by unfold Hart.setReg; split <;> rfl
@[simp] theorem Hart.setReg_frm (h : Hart) (r : Reg) (v : Word) : (h.setReg r v).frm = h.frm := by unfold Hart.setReg; split <;> rfl
@[simp] theorem Hart.setReg_iflags (h : Hart) (r : Reg) (v : Word) : (h.setReg r v).iflags = h.iflags := by unfold Hart.setReg; split <;> rfl
@[simp] theorem Hart.setReg_cycleBase (h : Hart) (r : Reg) (v : Word) : (h.setReg r v).cycleBase = h.cycleBase := by unfold Hart.setReg; split <;> rfl
@[simp] theorem Hart.setReg_retired (h : Hart) (r : Reg) (v : Word) : (h.setReg r v).retired = h.retired := by unfold Hart.setReg; split <;> rfl
@[simp] theorem Hart.setReg_trapS (h : Hart) (r : Reg) (v : Word) : (h.setReg r v).trapS = h.trapS := by unfold Hart.setReg; split <;> rfl
@[simp] theorem Hart.setReg_trapM (h : Hart) (r : Reg) (v : Word) : (h.setReg r v).trapM = h.trapM := by unfold Hart.setReg; split <;> rfl
@[simp] theorem Hart.setReg_vtype (h : Hart) (r : Reg) (v : Word) : (h.setReg r v).vtype = h.vtype := by unfold Hart.setReg; split <;> rfl
@[simp] theorem Hart.setReg_vl (h : Hart) (r : Reg) (v : Word) : (h.setReg r v).vl = h.vl := by unfold Hart.setReg; split <;> rfl
@[simp] theorem Hart.setReg_rows (h : Hart) (r : Reg) (v : Word) : (h.setReg r v).rows = h.rows := by unfold Hart.setReg; split <;> rfl
@[simp] theorem Hart.setReg_vstart (h : Hart) (r : Reg) (v : Word) : (h.setReg r v).vstart = h.vstart := by unfold Hart.setReg; split <;> rfl
@[simp] theorem Hart.setReg_vgrant (h : Hart) (r : Reg) (v : Word) : (h.setReg r v).vgrant = h.vgrant := by unfold Hart.setReg; split <;> rfl
@[simp] theorem Hart.setReg_vxflags (h : Hart) (r : Reg) (v : Word) : (h.setReg r v).vxflags = h.vxflags := by unfold Hart.setReg; split <;> rfl
@[simp] theorem Hart.setReg_vxtrap (h : Hart) (r : Reg) (v : Word) : (h.setReg r v).vxtrap = h.vxtrap := by unfold Hart.setReg; split <;> rfl
@[simp] theorem Hart.setReg_vpoison (h : Hart) (r : Reg) (v : Word) : (h.setReg r v).vpoison = h.vpoison := by unfold Hart.setReg; split <;> rfl
@[simp] theorem Hart.setReg_mgrant (h : Hart) (r : Reg) (v : Word) : (h.setReg r v).mgrant = h.mgrant := by unfold Hart.setReg; split <;> rfl
@[simp] theorem Hart.setReg_amiss (h : Hart) (r : Reg) (v : Word) : (h.setReg r v).amiss = h.amiss := by unfold Hart.setReg; split <;> rfl
@[simp] theorem Hart.setReg_adbase (h : Hart) (r : Reg) (v : Word) : (h.setReg r v).adbase = h.adbase := by unfold Hart.setReg; split <;> rfl
@[simp] theorem Hart.setReg_uxid (h : Hart) (r : Reg) (v : Word) : (h.setReg r v).uxid = h.uxid := by unfold Hart.setReg; split <;> rfl
@[simp] theorem Hart.setReg_uhandler (h : Hart) (r : Reg) (v : Word) : (h.setReg r v).uhandler = h.uhandler := by unfold Hart.setReg; split <;> rfl
@[simp] theorem Hart.setReg_ushadow0 (h : Hart) (r : Reg) (v : Word) : (h.setReg r v).ushadow0 = h.ushadow0 := by unfold Hart.setReg; split <;> rfl
@[simp] theorem Hart.setReg_ushadow1 (h : Hart) (r : Reg) (v : Word) : (h.setReg r v).ushadow1 = h.ushadow1 := by unfold Hart.setReg; split <;> rfl
@[simp] theorem Hart.setReg_ushadow2 (h : Hart) (r : Reg) (v : Word) : (h.setReg r v).ushadow2 = h.ushadow2 := by unfold Hart.setReg; split <;> rfl
@[simp] theorem Hart.setReg_ushadow3 (h : Hart) (r : Reg) (v : Word) : (h.setReg r v).ushadow3 = h.ushadow3 := by unfold Hart.setReg; split <;> rfl
@[simp] theorem Hart.setReg_eshadow (h : Hart) (r : Reg) (v : Word) : (h.setReg r v).eshadow = h.eshadow := by unfold Hart.setReg; split <;> rfl
@[simp] theorem Hart.setReg_eword (h : Hart) (r : Reg) (v : Word) : (h.setReg r v).eword = h.eword := by unfold Hart.setReg; split <;> rfl
@[simp] theorem Hart.setReg_asid (h : Hart) (r : Reg) (v : Word) : (h.setReg r v).asid = h.asid := by unfold Hart.setReg; split <;> rfl
@[simp] theorem Hart.setReg_ptbase (h : Hart) (r : Reg) (v : Word) : (h.setReg r v).ptbase = h.ptbase := by unfold Hart.setReg; split <;> rfl
@[simp] theorem Hart.setReg_recvto (h : Hart) (r : Reg) (v : Word) : (h.setReg r v).recvto = h.recvto := by unfold Hart.setReg; split <;> rfl
@[simp] theorem Hart.setReg_ebase (h : Hart) (r : Reg) (v : Word) : (h.setReg r v).ebase = h.ebase := by unfold Hart.setReg; split <;> rfl
@[simp] theorem Hart.setReg_mseq (h : Hart) (r : Reg) (v : Word) : (h.setReg r v).mseq = h.mseq := by unfold Hart.setReg; split <;> rfl
@[simp] theorem Hart.setReg_coremap (h : Hart) (r : Reg) (v : Word) : (h.setReg r v).coremap = h.coremap := by unfold Hart.setReg; split <;> rfl
@[simp] theorem Hart.setReg_routemap (h : Hart) (r : Reg) (v : Word) : (h.setReg r v).routemap = h.routemap := by unfold Hart.setReg; split <;> rfl
@[simp] theorem Hart.setReg_coremapAt (h : Hart) (r : Reg) (v : Word) : (h.setReg r v).coremapAt = h.coremapAt := by unfold Hart.setReg; split <;> rfl
@[simp] theorem Hart.setReg_routemapAt (h : Hart) (r : Reg) (v : Word) : (h.setReg r v).routemapAt = h.routemapAt := by unfold Hart.setReg; split <;> rfl
@[simp] theorem Hart.setReg_v (h : Hart) (r : Reg) (v : Word) : (h.setReg r v).v = h.v := by unfold Hart.setReg; split <;> rfl
@[simp] theorem Hart.setReg_vtag (h : Hart) (r : Reg) (v : Word) : (h.setReg r v).vtag = h.vtag := by unfold Hart.setReg; split <;> rfl
@[simp] theorem Hart.setReg_vpois (h : Hart) (r : Reg) (v : Word) : (h.setReg r v).vpois = h.vpois := by unfold Hart.setReg; split <;> rfl
@[simp] theorem Hart.setReg_m (h : Hart) (r : Reg) (v : Word) : (h.setReg r v).m = h.m := by unfold Hart.setReg; split <;> rfl
@[simp] theorem Hart.setReg_held (h : Hart) (r : Reg) (v : Word) : (h.setReg r v).held = h.held := by unfold Hart.setReg; split <;> rfl
@[simp] theorem Hart.setReg_streams (h : Hart) (r : Reg) (v : Word) : (h.setReg r v).streams = h.streams := by unfold Hart.setReg; split <;> rfl
@[simp] theorem Hart.setReg_ov (h : Hart) (r : Reg) (v : Word) : (h.setReg r v).ov = h.ov := by unfold Hart.setReg; split <;> rfl
@[simp] theorem Hart.setReg_tag (h : Hart) (r : Reg) (v : Word) : (h.setReg r v).tag = h.tag := by unfold Hart.setReg; split <;> rfl
@[simp] theorem Hart.setReg_run (h : Hart) (r : Reg) (v : Word) : (h.setReg r v).run = h.run := by unfold Hart.setReg; split <;> rfl
@[simp] theorem Hart.setReg_prio (h : Hart) (r : Reg) (v : Word) : (h.setReg r v).prio = h.prio := by unfold Hart.setReg; split <;> rfl
@[simp] theorem Hart.setReg_lastSend (h : Hart) (r : Reg) (v : Word) : (h.setReg r v).lastSend = h.lastSend := by unfold Hart.setReg; split <;> rfl
@[simp] theorem Hart.setReg_ahead (h : Hart) (r : Reg) (v : Word) : (h.setReg r v).ahead = h.ahead := by unfold Hart.setReg; split <;> rfl
@[simp] theorem Hart.setReg_aheadAt (h : Hart) (r : Reg) (v : Word) : (h.setReg r v).aheadAt = h.aheadAt := by unfold Hart.setReg; split <;> rfl
@[simp] theorem Hart.setReg_block (h : Hart) (r : Reg) (v : Word) : (h.setReg r v).block = h.block := by unfold Hart.setReg; split <;> rfl
@[simp] theorem Hart.setReg_partials (h : Hart) (r : Reg) (v : Word) : (h.setReg r v).partials = h.partials := by unfold Hart.setReg; split <;> rfl
@[simp] theorem Hart.setReg_stopped (h : Hart) (r : Reg) (v : Word) : (h.setReg r v).stopped = h.stopped := by unfold Hart.setReg; split <;> rfl
@[simp] theorem Hart.setReg_stay (h : Hart) (r : Reg) (v : Word) : (h.setReg r v).stay = h.stay := by unfold Hart.setReg; split <;> rfl
@[simp] theorem Hart.setReg_loweredGl (h : Hart) (r : Reg) (v : Word) : (h.setReg r v).loweredGl = h.loweredGl := by unfold Hart.setReg; split <;> rfl
@[simp] theorem Hart.setReg_loweredGq (h : Hart) (r : Reg) (v : Word) : (h.setReg r v).loweredGq = h.loweredGq := by unfold Hart.setReg; split <;> rfl
@[simp] theorem Hart.setReg_throttledV (h : Hart) (r : Reg) (v : Word) : (h.setReg r v).throttledV = h.throttledV := by unfold Hart.setReg; split <;> rfl
@[simp] theorem Hart.setReg_throttledM (h : Hart) (r : Reg) (v : Word) : (h.setReg r v).throttledM = h.throttledM := by unfold Hart.setReg; split <;> rfl
@[simp] theorem Hart.setReg_stopIn (h : Hart) (r : Reg) (v : Word) : (h.setReg r v).stopIn = h.stopIn := by unfold Hart.setReg; split <;> rfl
@[simp] theorem Hart.setReg_hwError (h : Hart) (r : Reg) (v : Word) : (h.setReg r v).hwError = h.hwError := by unfold Hart.setReg; split <;> rfl

@[simp] theorem Hart.retireTo_level (h : Hart) (pc : Word) : (h.retireTo pc).level = h.level := by unfold Hart.retireTo; split <;> rfl
@[simp] theorem Hart.retireTo_x (h : Hart) (pc : Word) : (h.retireTo pc).x = h.x := by unfold Hart.retireTo; split <;> rfl
@[simp] theorem Hart.retireTo_fflags (h : Hart) (pc : Word) : (h.retireTo pc).fflags = h.fflags := by unfold Hart.retireTo; split <;> rfl
@[simp] theorem Hart.retireTo_frm (h : Hart) (pc : Word) : (h.retireTo pc).frm = h.frm := by unfold Hart.retireTo; split <;> rfl
@[simp] theorem Hart.retireTo_iflags (h : Hart) (pc : Word) : (h.retireTo pc).iflags = h.iflags := by unfold Hart.retireTo; split <;> rfl
@[simp] theorem Hart.retireTo_cycleBase (h : Hart) (pc : Word) : (h.retireTo pc).cycleBase = h.cycleBase := by unfold Hart.retireTo; split <;> rfl
@[simp] theorem Hart.retireTo_trapS (h : Hart) (pc : Word) : (h.retireTo pc).trapS = h.trapS := by unfold Hart.retireTo; split <;> rfl
@[simp] theorem Hart.retireTo_trapM (h : Hart) (pc : Word) : (h.retireTo pc).trapM = h.trapM := by unfold Hart.retireTo; split <;> rfl
@[simp] theorem Hart.retireTo_vtype (h : Hart) (pc : Word) : (h.retireTo pc).vtype = h.vtype := by unfold Hart.retireTo; split <;> rfl
@[simp] theorem Hart.retireTo_vl (h : Hart) (pc : Word) : (h.retireTo pc).vl = h.vl := by unfold Hart.retireTo; split <;> rfl
@[simp] theorem Hart.retireTo_rows (h : Hart) (pc : Word) : (h.retireTo pc).rows = h.rows := by unfold Hart.retireTo; split <;> rfl
@[simp] theorem Hart.retireTo_vstart (h : Hart) (pc : Word) : (h.retireTo pc).vstart = h.vstart := by unfold Hart.retireTo; split <;> rfl
@[simp] theorem Hart.retireTo_vgrant (h : Hart) (pc : Word) : (h.retireTo pc).vgrant = h.vgrant := by unfold Hart.retireTo; split <;> rfl
@[simp] theorem Hart.retireTo_vxflags (h : Hart) (pc : Word) : (h.retireTo pc).vxflags = h.vxflags := by unfold Hart.retireTo; split <;> rfl
@[simp] theorem Hart.retireTo_vxtrap (h : Hart) (pc : Word) : (h.retireTo pc).vxtrap = h.vxtrap := by unfold Hart.retireTo; split <;> rfl
@[simp] theorem Hart.retireTo_vpoison (h : Hart) (pc : Word) : (h.retireTo pc).vpoison = h.vpoison := by unfold Hart.retireTo; split <;> rfl
@[simp] theorem Hart.retireTo_mgrant (h : Hart) (pc : Word) : (h.retireTo pc).mgrant = h.mgrant := by unfold Hart.retireTo; split <;> rfl
@[simp] theorem Hart.retireTo_amiss (h : Hart) (pc : Word) : (h.retireTo pc).amiss = h.amiss := by unfold Hart.retireTo; split <;> rfl
@[simp] theorem Hart.retireTo_adbase (h : Hart) (pc : Word) : (h.retireTo pc).adbase = h.adbase := by unfold Hart.retireTo; split <;> rfl
@[simp] theorem Hart.retireTo_uxid (h : Hart) (pc : Word) : (h.retireTo pc).uxid = h.uxid := by unfold Hart.retireTo; split <;> rfl
@[simp] theorem Hart.retireTo_uhandler (h : Hart) (pc : Word) : (h.retireTo pc).uhandler = h.uhandler := by unfold Hart.retireTo; split <;> rfl
@[simp] theorem Hart.retireTo_ushadow0 (h : Hart) (pc : Word) : (h.retireTo pc).ushadow0 = h.ushadow0 := by unfold Hart.retireTo; split <;> rfl
@[simp] theorem Hart.retireTo_ushadow1 (h : Hart) (pc : Word) : (h.retireTo pc).ushadow1 = h.ushadow1 := by unfold Hart.retireTo; split <;> rfl
@[simp] theorem Hart.retireTo_ushadow2 (h : Hart) (pc : Word) : (h.retireTo pc).ushadow2 = h.ushadow2 := by unfold Hart.retireTo; split <;> rfl
@[simp] theorem Hart.retireTo_ushadow3 (h : Hart) (pc : Word) : (h.retireTo pc).ushadow3 = h.ushadow3 := by unfold Hart.retireTo; split <;> rfl
@[simp] theorem Hart.retireTo_eshadow (h : Hart) (pc : Word) : (h.retireTo pc).eshadow = h.eshadow := by unfold Hart.retireTo; split <;> rfl
@[simp] theorem Hart.retireTo_eword (h : Hart) (pc : Word) : (h.retireTo pc).eword = h.eword := by unfold Hart.retireTo; split <;> rfl
@[simp] theorem Hart.retireTo_asid (h : Hart) (pc : Word) : (h.retireTo pc).asid = h.asid := by unfold Hart.retireTo; split <;> rfl
@[simp] theorem Hart.retireTo_ptbase (h : Hart) (pc : Word) : (h.retireTo pc).ptbase = h.ptbase := by unfold Hart.retireTo; split <;> rfl
@[simp] theorem Hart.retireTo_recvto (h : Hart) (pc : Word) : (h.retireTo pc).recvto = h.recvto := by unfold Hart.retireTo; split <;> rfl
@[simp] theorem Hart.retireTo_ebase (h : Hart) (pc : Word) : (h.retireTo pc).ebase = h.ebase := by unfold Hart.retireTo; split <;> rfl
@[simp] theorem Hart.retireTo_mseq (h : Hart) (pc : Word) : (h.retireTo pc).mseq = h.mseq := by unfold Hart.retireTo; split <;> rfl
@[simp] theorem Hart.retireTo_coremap (h : Hart) (pc : Word) : (h.retireTo pc).coremap = h.coremap := by unfold Hart.retireTo; split <;> rfl
@[simp] theorem Hart.retireTo_routemap (h : Hart) (pc : Word) : (h.retireTo pc).routemap = h.routemap := by unfold Hart.retireTo; split <;> rfl
@[simp] theorem Hart.retireTo_coremapAt (h : Hart) (pc : Word) : (h.retireTo pc).coremapAt = h.coremapAt := by unfold Hart.retireTo; split <;> rfl
@[simp] theorem Hart.retireTo_routemapAt (h : Hart) (pc : Word) : (h.retireTo pc).routemapAt = h.routemapAt := by unfold Hart.retireTo; split <;> rfl
@[simp] theorem Hart.retireTo_v (h : Hart) (pc : Word) : (h.retireTo pc).v = h.v := by unfold Hart.retireTo; split <;> rfl
@[simp] theorem Hart.retireTo_vtag (h : Hart) (pc : Word) : (h.retireTo pc).vtag = h.vtag := by unfold Hart.retireTo; split <;> rfl
@[simp] theorem Hart.retireTo_vpois (h : Hart) (pc : Word) : (h.retireTo pc).vpois = h.vpois := by unfold Hart.retireTo; split <;> rfl
@[simp] theorem Hart.retireTo_m (h : Hart) (pc : Word) : (h.retireTo pc).m = h.m := by unfold Hart.retireTo; split <;> rfl
@[simp] theorem Hart.retireTo_held (h : Hart) (pc : Word) : (h.retireTo pc).held = h.held := by unfold Hart.retireTo; split <;> rfl
@[simp] theorem Hart.retireTo_streams (h : Hart) (pc : Word) : (h.retireTo pc).streams = h.streams := by unfold Hart.retireTo; split <;> rfl
@[simp] theorem Hart.retireTo_ov (h : Hart) (pc : Word) : (h.retireTo pc).ov = h.ov := by unfold Hart.retireTo; split <;> rfl
@[simp] theorem Hart.retireTo_tag (h : Hart) (pc : Word) : (h.retireTo pc).tag = h.tag := by unfold Hart.retireTo; split <;> rfl
@[simp] theorem Hart.retireTo_run (h : Hart) (pc : Word) : (h.retireTo pc).run = h.run := by unfold Hart.retireTo; split <;> rfl
@[simp] theorem Hart.retireTo_prio (h : Hart) (pc : Word) : (h.retireTo pc).prio = h.prio := by unfold Hart.retireTo; split <;> rfl
@[simp] theorem Hart.retireTo_lastSend (h : Hart) (pc : Word) : (h.retireTo pc).lastSend = h.lastSend := by unfold Hart.retireTo; split <;> rfl
@[simp] theorem Hart.retireTo_aheadAt (h : Hart) (pc : Word) : (h.retireTo pc).aheadAt = h.aheadAt := by unfold Hart.retireTo; split <;> rfl
@[simp] theorem Hart.retireTo_block (h : Hart) (pc : Word) : (h.retireTo pc).block = h.block := by unfold Hart.retireTo; split <;> rfl
@[simp] theorem Hart.retireTo_partials (h : Hart) (pc : Word) : (h.retireTo pc).partials = h.partials := by unfold Hart.retireTo; split <;> rfl
@[simp] theorem Hart.retireTo_stopped (h : Hart) (pc : Word) : (h.retireTo pc).stopped = h.stopped := by unfold Hart.retireTo; split <;> rfl
@[simp] theorem Hart.retireTo_stay (h : Hart) (pc : Word) : (h.retireTo pc).stay = h.stay := by unfold Hart.retireTo; split <;> rfl
@[simp] theorem Hart.retireTo_loweredGl (h : Hart) (pc : Word) : (h.retireTo pc).loweredGl = h.loweredGl := by unfold Hart.retireTo; split <;> rfl
@[simp] theorem Hart.retireTo_loweredGq (h : Hart) (pc : Word) : (h.retireTo pc).loweredGq = h.loweredGq := by unfold Hart.retireTo; split <;> rfl
@[simp] theorem Hart.retireTo_throttledV (h : Hart) (pc : Word) : (h.retireTo pc).throttledV = h.throttledV := by unfold Hart.retireTo; split <;> rfl
@[simp] theorem Hart.retireTo_throttledM (h : Hart) (pc : Word) : (h.retireTo pc).throttledM = h.throttledM := by unfold Hart.retireTo; split <;> rfl
@[simp] theorem Hart.retireTo_stopIn (h : Hart) (pc : Word) : (h.retireTo pc).stopIn = h.stopIn := by unfold Hart.retireTo; split <;> rfl
@[simp] theorem Hart.retireTo_hwError (h : Hart) (pc : Word) : (h.retireTo pc).hwError = h.hwError := by unfold Hart.retireTo; split <;> rfl

@[simp] theorem Hart.settle_level (h : Hart) : (h.settle).level = h.level := by unfold Hart.settle; split <;> rfl
@[simp] theorem Hart.settle_pc (h : Hart) : (h.settle).pc = h.pc := by unfold Hart.settle; split <;> rfl
@[simp] theorem Hart.settle_x (h : Hart) : (h.settle).x = h.x := by unfold Hart.settle; split <;> rfl
@[simp] theorem Hart.settle_fflags (h : Hart) : (h.settle).fflags = h.fflags := by unfold Hart.settle; split <;> rfl
@[simp] theorem Hart.settle_frm (h : Hart) : (h.settle).frm = h.frm := by unfold Hart.settle; split <;> rfl
@[simp] theorem Hart.settle_iflags (h : Hart) : (h.settle).iflags = h.iflags := by unfold Hart.settle; split <;> rfl
@[simp] theorem Hart.settle_cycleBase (h : Hart) : (h.settle).cycleBase = h.cycleBase := by unfold Hart.settle; split <;> rfl
@[simp] theorem Hart.settle_trapS (h : Hart) : (h.settle).trapS = h.trapS := by unfold Hart.settle; split <;> rfl
@[simp] theorem Hart.settle_trapM (h : Hart) : (h.settle).trapM = h.trapM := by unfold Hart.settle; split <;> rfl
@[simp] theorem Hart.settle_vtype (h : Hart) : (h.settle).vtype = h.vtype := by unfold Hart.settle; split <;> rfl
@[simp] theorem Hart.settle_vl (h : Hart) : (h.settle).vl = h.vl := by unfold Hart.settle; split <;> rfl
@[simp] theorem Hart.settle_rows (h : Hart) : (h.settle).rows = h.rows := by unfold Hart.settle; split <;> rfl
@[simp] theorem Hart.settle_vstart (h : Hart) : (h.settle).vstart = h.vstart := by unfold Hart.settle; split <;> rfl
@[simp] theorem Hart.settle_vgrant (h : Hart) : (h.settle).vgrant = h.vgrant := by unfold Hart.settle; split <;> rfl
@[simp] theorem Hart.settle_vxflags (h : Hart) : (h.settle).vxflags = h.vxflags := by unfold Hart.settle; split <;> rfl
@[simp] theorem Hart.settle_vxtrap (h : Hart) : (h.settle).vxtrap = h.vxtrap := by unfold Hart.settle; split <;> rfl
@[simp] theorem Hart.settle_vpoison (h : Hart) : (h.settle).vpoison = h.vpoison := by unfold Hart.settle; split <;> rfl
@[simp] theorem Hart.settle_mgrant (h : Hart) : (h.settle).mgrant = h.mgrant := by unfold Hart.settle; split <;> rfl
@[simp] theorem Hart.settle_amiss (h : Hart) : (h.settle).amiss = h.amiss := by unfold Hart.settle; split <;> rfl
@[simp] theorem Hart.settle_adbase (h : Hart) : (h.settle).adbase = h.adbase := by unfold Hart.settle; split <;> rfl
@[simp] theorem Hart.settle_uxid (h : Hart) : (h.settle).uxid = h.uxid := by unfold Hart.settle; split <;> rfl
@[simp] theorem Hart.settle_uhandler (h : Hart) : (h.settle).uhandler = h.uhandler := by unfold Hart.settle; split <;> rfl
@[simp] theorem Hart.settle_ushadow0 (h : Hart) : (h.settle).ushadow0 = h.ushadow0 := by unfold Hart.settle; split <;> rfl
@[simp] theorem Hart.settle_ushadow1 (h : Hart) : (h.settle).ushadow1 = h.ushadow1 := by unfold Hart.settle; split <;> rfl
@[simp] theorem Hart.settle_ushadow2 (h : Hart) : (h.settle).ushadow2 = h.ushadow2 := by unfold Hart.settle; split <;> rfl
@[simp] theorem Hart.settle_ushadow3 (h : Hart) : (h.settle).ushadow3 = h.ushadow3 := by unfold Hart.settle; split <;> rfl
@[simp] theorem Hart.settle_eshadow (h : Hart) : (h.settle).eshadow = h.eshadow := by unfold Hart.settle; split <;> rfl
@[simp] theorem Hart.settle_eword (h : Hart) : (h.settle).eword = h.eword := by unfold Hart.settle; split <;> rfl
@[simp] theorem Hart.settle_asid (h : Hart) : (h.settle).asid = h.asid := by unfold Hart.settle; split <;> rfl
@[simp] theorem Hart.settle_ptbase (h : Hart) : (h.settle).ptbase = h.ptbase := by unfold Hart.settle; split <;> rfl
@[simp] theorem Hart.settle_recvto (h : Hart) : (h.settle).recvto = h.recvto := by unfold Hart.settle; split <;> rfl
@[simp] theorem Hart.settle_ebase (h : Hart) : (h.settle).ebase = h.ebase := by unfold Hart.settle; split <;> rfl
@[simp] theorem Hart.settle_mseq (h : Hart) : (h.settle).mseq = h.mseq := by unfold Hart.settle; split <;> rfl
@[simp] theorem Hart.settle_coremap (h : Hart) : (h.settle).coremap = h.coremap := by unfold Hart.settle; split <;> rfl
@[simp] theorem Hart.settle_routemap (h : Hart) : (h.settle).routemap = h.routemap := by unfold Hart.settle; split <;> rfl
@[simp] theorem Hart.settle_coremapAt (h : Hart) : (h.settle).coremapAt = h.coremapAt := by unfold Hart.settle; split <;> rfl
@[simp] theorem Hart.settle_routemapAt (h : Hart) : (h.settle).routemapAt = h.routemapAt := by unfold Hart.settle; split <;> rfl
@[simp] theorem Hart.settle_v (h : Hart) : (h.settle).v = h.v := by unfold Hart.settle; split <;> rfl
@[simp] theorem Hart.settle_vtag (h : Hart) : (h.settle).vtag = h.vtag := by unfold Hart.settle; split <;> rfl
@[simp] theorem Hart.settle_vpois (h : Hart) : (h.settle).vpois = h.vpois := by unfold Hart.settle; split <;> rfl
@[simp] theorem Hart.settle_m (h : Hart) : (h.settle).m = h.m := by unfold Hart.settle; split <;> rfl
@[simp] theorem Hart.settle_held (h : Hart) : (h.settle).held = h.held := by unfold Hart.settle; split <;> rfl
@[simp] theorem Hart.settle_streams (h : Hart) : (h.settle).streams = h.streams := by unfold Hart.settle; split <;> rfl
@[simp] theorem Hart.settle_ov (h : Hart) : (h.settle).ov = h.ov := by unfold Hart.settle; split <;> rfl
@[simp] theorem Hart.settle_tag (h : Hart) : (h.settle).tag = h.tag := by unfold Hart.settle; split <;> rfl
@[simp] theorem Hart.settle_run (h : Hart) : (h.settle).run = h.run := by unfold Hart.settle; split <;> rfl
@[simp] theorem Hart.settle_prio (h : Hart) : (h.settle).prio = h.prio := by unfold Hart.settle; split <;> rfl
@[simp] theorem Hart.settle_lastSend (h : Hart) : (h.settle).lastSend = h.lastSend := by unfold Hart.settle; split <;> rfl
@[simp] theorem Hart.settle_aheadAt (h : Hart) : (h.settle).aheadAt = h.aheadAt := by unfold Hart.settle; split <;> rfl
@[simp] theorem Hart.settle_block (h : Hart) : (h.settle).block = h.block := by unfold Hart.settle; split <;> rfl
@[simp] theorem Hart.settle_partials (h : Hart) : (h.settle).partials = h.partials := by unfold Hart.settle; split <;> rfl
@[simp] theorem Hart.settle_stopped (h : Hart) : (h.settle).stopped = h.stopped := by unfold Hart.settle; split <;> rfl
@[simp] theorem Hart.settle_stay (h : Hart) : (h.settle).stay = h.stay := by unfold Hart.settle; split <;> rfl
@[simp] theorem Hart.settle_loweredGl (h : Hart) : (h.settle).loweredGl = h.loweredGl := by unfold Hart.settle; split <;> rfl
@[simp] theorem Hart.settle_loweredGq (h : Hart) : (h.settle).loweredGq = h.loweredGq := by unfold Hart.settle; split <;> rfl
@[simp] theorem Hart.settle_throttledV (h : Hart) : (h.settle).throttledV = h.throttledV := by unfold Hart.settle; split <;> rfl
@[simp] theorem Hart.settle_throttledM (h : Hart) : (h.settle).throttledM = h.throttledM := by unfold Hart.settle; split <;> rfl
@[simp] theorem Hart.settle_stopIn (h : Hart) : (h.settle).stopIn = h.stopIn := by unfold Hart.settle; split <;> rfl
@[simp] theorem Hart.settle_hwError (h : Hart) : (h.settle).hwError = h.hwError := by unfold Hart.settle; split <;> rfl

@[simp] theorem Hart.trap_x (h : Hart) (t : Trap) : (h.trap t).x = h.x := by
  unfold Hart.trap; dsimp only; split <;> exact Hart.settle_x h
@[simp] theorem Hart.trap_fflags (h : Hart) (t : Trap) : (h.trap t).fflags = h.fflags := by
  unfold Hart.trap; dsimp only; split <;> exact Hart.settle_fflags h
@[simp] theorem Hart.trap_frm (h : Hart) (t : Trap) : (h.trap t).frm = h.frm := by
  unfold Hart.trap; dsimp only; split <;> exact Hart.settle_frm h
@[simp] theorem Hart.trap_iflags (h : Hart) (t : Trap) : (h.trap t).iflags = h.iflags := by
  unfold Hart.trap; dsimp only; split <;> exact Hart.settle_iflags h
@[simp] theorem Hart.trap_cycleBase (h : Hart) (t : Trap) : (h.trap t).cycleBase = h.cycleBase := by
  unfold Hart.trap; dsimp only; split <;> exact Hart.settle_cycleBase h
@[simp] theorem Hart.trap_vtype (h : Hart) (t : Trap) : (h.trap t).vtype = h.vtype := by
  unfold Hart.trap; dsimp only; split <;> exact Hart.settle_vtype h
@[simp] theorem Hart.trap_vl (h : Hart) (t : Trap) : (h.trap t).vl = h.vl := by
  unfold Hart.trap; dsimp only; split <;> exact Hart.settle_vl h
@[simp] theorem Hart.trap_rows (h : Hart) (t : Trap) : (h.trap t).rows = h.rows := by
  unfold Hart.trap; dsimp only; split <;> exact Hart.settle_rows h
@[simp] theorem Hart.trap_vstart (h : Hart) (t : Trap) : (h.trap t).vstart = h.vstart := by
  unfold Hart.trap; dsimp only; split <;> exact Hart.settle_vstart h
@[simp] theorem Hart.trap_vgrant (h : Hart) (t : Trap) : (h.trap t).vgrant = h.vgrant := by
  unfold Hart.trap; dsimp only; split <;> exact Hart.settle_vgrant h
@[simp] theorem Hart.trap_vxflags (h : Hart) (t : Trap) : (h.trap t).vxflags = h.vxflags := by
  unfold Hart.trap; dsimp only; split <;> exact Hart.settle_vxflags h
@[simp] theorem Hart.trap_vxtrap (h : Hart) (t : Trap) : (h.trap t).vxtrap = h.vxtrap := by
  unfold Hart.trap; dsimp only; split <;> exact Hart.settle_vxtrap h
@[simp] theorem Hart.trap_vpoison (h : Hart) (t : Trap) : (h.trap t).vpoison = h.vpoison := by
  unfold Hart.trap; dsimp only; split <;> exact Hart.settle_vpoison h
@[simp] theorem Hart.trap_mgrant (h : Hart) (t : Trap) : (h.trap t).mgrant = h.mgrant := by
  unfold Hart.trap; dsimp only; split <;> exact Hart.settle_mgrant h
@[simp] theorem Hart.trap_amiss (h : Hart) (t : Trap) : (h.trap t).amiss = h.amiss := by
  unfold Hart.trap; dsimp only; split <;> exact Hart.settle_amiss h
@[simp] theorem Hart.trap_adbase (h : Hart) (t : Trap) : (h.trap t).adbase = h.adbase := by
  unfold Hart.trap; dsimp only; split <;> exact Hart.settle_adbase h
@[simp] theorem Hart.trap_uxid (h : Hart) (t : Trap) : (h.trap t).uxid = h.uxid := by
  unfold Hart.trap; dsimp only; split <;> exact Hart.settle_uxid h
@[simp] theorem Hart.trap_uhandler (h : Hart) (t : Trap) : (h.trap t).uhandler = h.uhandler := by
  unfold Hart.trap; dsimp only; split <;> exact Hart.settle_uhandler h
@[simp] theorem Hart.trap_ushadow0 (h : Hart) (t : Trap) : (h.trap t).ushadow0 = h.ushadow0 := by
  unfold Hart.trap; dsimp only; split <;> exact Hart.settle_ushadow0 h
@[simp] theorem Hart.trap_ushadow1 (h : Hart) (t : Trap) : (h.trap t).ushadow1 = h.ushadow1 := by
  unfold Hart.trap; dsimp only; split <;> exact Hart.settle_ushadow1 h
@[simp] theorem Hart.trap_ushadow2 (h : Hart) (t : Trap) : (h.trap t).ushadow2 = h.ushadow2 := by
  unfold Hart.trap; dsimp only; split <;> exact Hart.settle_ushadow2 h
@[simp] theorem Hart.trap_ushadow3 (h : Hart) (t : Trap) : (h.trap t).ushadow3 = h.ushadow3 := by
  unfold Hart.trap; dsimp only; split <;> exact Hart.settle_ushadow3 h
@[simp] theorem Hart.trap_eshadow (h : Hart) (t : Trap) : (h.trap t).eshadow = h.eshadow := by
  unfold Hart.trap; dsimp only; split <;> exact Hart.settle_eshadow h
@[simp] theorem Hart.trap_eword (h : Hart) (t : Trap) : (h.trap t).eword = h.eword := by
  unfold Hart.trap; dsimp only; split <;> exact Hart.settle_eword h
@[simp] theorem Hart.trap_asid (h : Hart) (t : Trap) : (h.trap t).asid = h.asid := by
  unfold Hart.trap; dsimp only; split <;> exact Hart.settle_asid h
@[simp] theorem Hart.trap_ptbase (h : Hart) (t : Trap) : (h.trap t).ptbase = h.ptbase := by
  unfold Hart.trap; dsimp only; split <;> exact Hart.settle_ptbase h
@[simp] theorem Hart.trap_recvto (h : Hart) (t : Trap) : (h.trap t).recvto = h.recvto := by
  unfold Hart.trap; dsimp only; split <;> exact Hart.settle_recvto h
@[simp] theorem Hart.trap_ebase (h : Hart) (t : Trap) : (h.trap t).ebase = h.ebase := by
  unfold Hart.trap; dsimp only; split <;> exact Hart.settle_ebase h
@[simp] theorem Hart.trap_mseq (h : Hart) (t : Trap) : (h.trap t).mseq = h.mseq := by
  unfold Hart.trap; dsimp only; split <;> exact Hart.settle_mseq h
@[simp] theorem Hart.trap_coremap (h : Hart) (t : Trap) : (h.trap t).coremap = h.coremap := by
  unfold Hart.trap; dsimp only; split <;> exact Hart.settle_coremap h
@[simp] theorem Hart.trap_routemap (h : Hart) (t : Trap) : (h.trap t).routemap = h.routemap := by
  unfold Hart.trap; dsimp only; split <;> exact Hart.settle_routemap h
@[simp] theorem Hart.trap_coremapAt (h : Hart) (t : Trap) : (h.trap t).coremapAt = h.coremapAt := by
  unfold Hart.trap; dsimp only; split <;> exact Hart.settle_coremapAt h
@[simp] theorem Hart.trap_routemapAt (h : Hart) (t : Trap) : (h.trap t).routemapAt = h.routemapAt := by
  unfold Hart.trap; dsimp only; split <;> exact Hart.settle_routemapAt h
@[simp] theorem Hart.trap_v (h : Hart) (t : Trap) : (h.trap t).v = h.v := by
  unfold Hart.trap; dsimp only; split <;> exact Hart.settle_v h
@[simp] theorem Hart.trap_vtag (h : Hart) (t : Trap) : (h.trap t).vtag = h.vtag := by
  unfold Hart.trap; dsimp only; split <;> exact Hart.settle_vtag h
@[simp] theorem Hart.trap_vpois (h : Hart) (t : Trap) : (h.trap t).vpois = h.vpois := by
  unfold Hart.trap; dsimp only; split <;> exact Hart.settle_vpois h
@[simp] theorem Hart.trap_m (h : Hart) (t : Trap) : (h.trap t).m = h.m := by
  unfold Hart.trap; dsimp only; split <;> exact Hart.settle_m h
@[simp] theorem Hart.trap_held (h : Hart) (t : Trap) : (h.trap t).held = h.held := by
  unfold Hart.trap; dsimp only; split <;> exact Hart.settle_held h
@[simp] theorem Hart.trap_streams (h : Hart) (t : Trap) : (h.trap t).streams = h.streams := by
  unfold Hart.trap; dsimp only; split <;> exact Hart.settle_streams h
@[simp] theorem Hart.trap_ov (h : Hart) (t : Trap) : (h.trap t).ov = h.ov := by
  unfold Hart.trap; dsimp only; split <;> exact Hart.settle_ov h
@[simp] theorem Hart.trap_tag (h : Hart) (t : Trap) : (h.trap t).tag = h.tag := by
  unfold Hart.trap; dsimp only; split <;> exact Hart.settle_tag h
@[simp] theorem Hart.trap_run (h : Hart) (t : Trap) : (h.trap t).run = h.run := by
  unfold Hart.trap; dsimp only; split <;> exact Hart.settle_run h
@[simp] theorem Hart.trap_prio (h : Hart) (t : Trap) : (h.trap t).prio = h.prio := by
  unfold Hart.trap; dsimp only; split <;> exact Hart.settle_prio h
@[simp] theorem Hart.trap_lastSend (h : Hart) (t : Trap) : (h.trap t).lastSend = h.lastSend := by
  unfold Hart.trap; dsimp only; split <;> exact Hart.settle_lastSend h
@[simp] theorem Hart.trap_aheadAt (h : Hart) (t : Trap) : (h.trap t).aheadAt = h.aheadAt := by
  unfold Hart.trap; dsimp only; split <;> exact Hart.settle_aheadAt h
@[simp] theorem Hart.trap_block (h : Hart) (t : Trap) : (h.trap t).block = h.block := by
  unfold Hart.trap; dsimp only; split <;> exact Hart.settle_block h
@[simp] theorem Hart.trap_partials (h : Hart) (t : Trap) : (h.trap t).partials = h.partials := by
  unfold Hart.trap; dsimp only; split <;> exact Hart.settle_partials h
@[simp] theorem Hart.trap_stopped (h : Hart) (t : Trap) : (h.trap t).stopped = h.stopped := by
  unfold Hart.trap; dsimp only; split <;> exact Hart.settle_stopped h
@[simp] theorem Hart.trap_stay (h : Hart) (t : Trap) : (h.trap t).stay = h.stay := by
  unfold Hart.trap; dsimp only; split <;> exact Hart.settle_stay h
@[simp] theorem Hart.trap_loweredGl (h : Hart) (t : Trap) : (h.trap t).loweredGl = h.loweredGl := by
  unfold Hart.trap; dsimp only; split <;> exact Hart.settle_loweredGl h
@[simp] theorem Hart.trap_loweredGq (h : Hart) (t : Trap) : (h.trap t).loweredGq = h.loweredGq := by
  unfold Hart.trap; dsimp only; split <;> exact Hart.settle_loweredGq h
@[simp] theorem Hart.trap_throttledV (h : Hart) (t : Trap) : (h.trap t).throttledV = h.throttledV := by
  unfold Hart.trap; dsimp only; split <;> exact Hart.settle_throttledV h
@[simp] theorem Hart.trap_throttledM (h : Hart) (t : Trap) : (h.trap t).throttledM = h.throttledM := by
  unfold Hart.trap; dsimp only; split <;> exact Hart.settle_throttledM h
@[simp] theorem Hart.trap_stopIn (h : Hart) (t : Trap) : (h.trap t).stopIn = h.stopIn := by
  unfold Hart.trap; dsimp only; split <;> exact Hart.settle_stopIn h
@[simp] theorem Hart.trap_hwError (h : Hart) (t : Trap) : (h.trap t).hwError = h.hwError := by
  unfold Hart.trap; dsimp only; split <;> exact Hart.settle_hwError h

@[simp] theorem Hart.trap_ahead (h : Hart) (t : Trap) : (h.trap t).ahead = none := by
  unfold Hart.trap Hart.settle; dsimp only; split <;> split <;> simp_all

theorem Hart.settle_none (h : Hart) (ha : h.ahead = none) : h.settle = h := by unfold Hart.settle; rw [ha]

@[simp] theorem Hart.retireTo_pc (h : Hart) (pc : Word) : (h.retireTo pc).pc = pc := by unfold Hart.retireTo; split <;> rfl

/-! ### Outcomes -/

theorem done_eq (s : State) : done s = .next s.retire := rfl
theorem jump_eq (s : State) (pc : Word) : jump s pc = .next { s with hart := s.hart.retireTo pc } := rfl
theorem setDone_eq (s : State) (d : Reg) (v : Word) : setDone s d v = .next (s.setX d v).retire := rfl
theorem raise_eq (s : State) (c : Nat) (v : Word) : raise s c v = .next (s.trap ⟨c, v⟩) := rfl
theorem illegal_eq (s : State) (i : Instr) : illegal s i = .next (s.trap ⟨2, wordOfInstr i⟩) := rfl
theorem stall_eq (s : State) (i : Instr) : stall s i = .next (s.withHart (fun h => { h with run := .waiting (.drained i) })) := rfl

theorem illegal_of_encode (s : State) (i : Instr) (w : Word32) (h : encode i = some w) : illegal s i = .next (s.trap ⟨2, w.setWidth 64⟩) := by
  unfold illegal wordOfInstr; rw [h]; rfl

/-- An operation that may trap: the trap, or what follows. -/
theorem orTrap_cases {α : Type} {s t : State} {r : Except Trap α} {k : α → Result} (h : orTrap s r k = .next t) :
    (∃ e, r = .error e ∧ t = s.trap e) ∨ ∃ a, r = .ok a ∧ k a = .next t := by
  cases r with
  | error e => exact .inl ⟨e, rfl, by cases h; rfl⟩
  | ok a => exact .inr ⟨a, rfl, h⟩

theorem orTrap_ok {α : Type} (s : State) (a : α) (k : α → Result) : orTrap s (.ok a) k = k a := rfl
theorem orTrap_error {α : Type} (s : State) (e : Trap) (k : α → Result) : orTrap s (.error e) k = .next (s.trap e) := rfl

/-! ### Loads and stores -/

/-- A load writes one register, or traps. -/
theorem loadInstr_cases {s t : State} {d : Reg} {va : Word} {n : Nat} {sg : Bool} (h : loadInstr s d va n sg = .next t) :
    (∃ e, s.load s.ctx .hart va n = .error e ∧ t = s.trap e)
      ∨ ∃ v, s.load s.ctx .hart va n = .ok v ∧ t = ((s.observeAt s.ctx .hart va n).setX d (extBytes sg n v)).retire := by
  obtain ⟨e, he, rfl⟩ | ⟨v, hv, hk⟩ := orTrap_cases h
  · exact .inl ⟨e, he, rfl⟩
  · exact .inr ⟨v, hv, by cases hk; rfl⟩

/-- A store reaches memory, or one register as eight bytes, or traps. -/
theorem State.store_cases {s t : State} {c : Ctx} {sc : Scope} {va : Word} {n v : Nat} (h : s.store c sc va n v = .ok t) :
    (∃ pa b, s.target c .store va n = .ok (.mem pa b) ∧ t = (s.walkRequests c va).put c sc pa n v)
      ∨ ∃ d off, s.target c .store va n = .ok (.reg d off) ∧ n = 8 ∧ t = (s.settleFor c).writeReg d off (word v) := by
  unfold State.store at h
  split at h
  · cases h
  · next pa b ht => exact .inl ⟨pa, b, ht, by cases h; rfl⟩
  · cases h
  · next d off ht =>
    split at h
    · cases h
    · next hn =>
      split at h
      · cases h
      · exact .inr ⟨d, off, ht, Decidable.not_not.1 hn, by cases h; rfl⟩

/-- A store instruction completes with its store, or traps. -/
theorem storeInstr_cases {s t : State} {b : Reg} {va : Word} {n : Nat} (h : storeInstr s b va n = .next t) :
    (∃ e, s.store s.ctx .hart va n ((s.x b).toNat % 2 ^ (8 * n)) = .error e ∧ t = s.trap e)
      ∨ ∃ u, s.store s.ctx .hart va n ((s.x b).toNat % 2 ^ (8 * n)) = .ok u ∧ t = u.retire := by
  obtain ⟨e, he, rfl⟩ | ⟨u, hu, hk⟩ := orTrap_cases h
  · exact .inl ⟨e, he, rfl⟩
  · exact .inr ⟨u, hu, by cases hk; rfl⟩

theorem State.load_mem {s : State} {c : Ctx} {sc : Scope} {va : Word} {n pa : Nat} {b : Bool} (h : s.target c .load va n = .ok (.mem pa b))
    (hp : s.poisoned pa = false) : s.load c sc va n = .ok (leNat (s.viewBytes c.agent sc pa n)) := by
  unfold State.load; rw [h]; simp [hp]

theorem State.load_poison {s : State} {c : Ctx} {sc : Scope} {va : Word} {n pa : Nat} {b : Bool} (h : s.target c .load va n = .ok (.mem pa b))
    (hp : s.poisoned pa = true) : s.load c sc va n = .error ⟨33, va⟩ := by
  unfold State.load; rw [h]; simp [hp]

theorem State.store_mem {s : State} {c : Ctx} {sc : Scope} {va : Word} {n v pa : Nat} {b : Bool} (h : s.target c .store va n = .ok (.mem pa b)) :
    s.store c sc va n v = .ok ((s.walkRequests c va).put c sc pa n v) := by
  unfold State.store; rw [h]

/-- An AMO traps, or performs its read and write at once and answers the old value. -/
theorem amo_cases {s t : State} {dbl : Bool} {d a : Reg} {sc : Scope} {ord : Ord} {host sg : Bool} {f : Nat → Option Nat}
    (h : amo s dbl d a sc ord host sg f = .next t) :
    (∃ e, s.amoTarget s.ctx (s.x a) (amoBytes dbl) host = .error e ∧ t = s.trap e)
      ∨ ∃ pa, s.amoTarget s.ctx (s.x a) (amoBytes dbl) host = .ok pa
          ∧ ((s.poisoned pa = true ∧ t = s.trap ⟨33, s.x a⟩)
            ∨ (s.poisoned pa = false ∧ ∃ u : State,
                let old := leNat (s.amoBytesAt (.hart s.cur) pa (amoBytes dbl))
                let s0 := s.walkRequests s.ctx (s.x a)
                let s1 := if ordRel ord then s0.release (.hart s.cur) sc else s0
                let s2 := (s1.amoWrite (.hart s.cur) pa (amoBytes dbl) (f old)).endTerminated pa (amoBytes dbl) (f old)
                u = (if ordAcq ord then s2.acquire (.hart s.cur) sc else s2)
                  ∧ t = (u.setX d (extBytes sg (amoBytes dbl) old)).retire)) := by
  unfold amo at h
  obtain ⟨e, he, rfl⟩ | ⟨pa, hp, hk⟩ := orTrap_cases h
  · exact .inl ⟨e, he, rfl⟩
  · refine .inr ⟨pa, hp, ?_⟩
    by_cases hq : s.poisoned pa = true
    · rw [if_pos hq] at hk; exact .inl ⟨hq, by cases hk; rfl⟩
    · rw [if_neg hq] at hk; exact .inr ⟨by simpa using hq, _, rfl, by cases hk; rfl⟩

/-! ### Arithmetic, control registers, control transfers -/

/-- A division traps, or writes its value and raises its sticky bit. -/
theorem divide_cases {s t : State} {d : Reg} {sg : Bool} {n : Nat} {a b : Int} {v : Word} (h : divide s d sg n a b v = .next t) :
    (∃ e, divTrap s.hart.iflags (divCase sg n a b) = some e ∧ t = s.trap e)
      ∨ (divTrap s.hart.iflags (divCase sg n a b) = none ∧ t = ((s.raiseI (divFlag (divCase sg n a b))).setX d v).retire) := by
  unfold divide at h
  split at h
  · next e he => exact .inl ⟨e, he, by cases h; rfl⟩
  · next he => exact .inr ⟨he, by cases h; rfl⟩

/-- A rounding operation is illegal for want of a mode, or writes its value rounded once and raises its flags. -/
theorem fpRound_cases {i : Instr} {s t : State} {f : SFmt} {rm : RMode} {d : Reg} {op : Bool → FVal × Nat} (h : fpRound i s f rm d op = .next t) :
    (s.mode rm = none ∧ t = s.trap ⟨2, wordOfInstr i⟩)
      ∨ ∃ m, s.mode rm = some m ∧ t =
          ((s.raiseF ((op (m = .rdn)).2 ||| (f.fmt.round m (op (m = .rdn)).1).2)).setX d (word (f.fmt.round m (op (m = .rdn)).1).1)).retire := by
  unfold fpRound at h
  split at h
  · next hm => exact .inl ⟨hm, by cases h; rfl⟩
  · next m hm => exact .inr ⟨m, hm, by cases h; rfl⟩

/-- A control-register instruction is refused, or writes the register where it writes, and answers the old value. -/
theorem crInstr_cases {i : Instr} {s t : State} {d : Reg} {crn : BitVec 12} {new : Option (Word → Word)} (h : crInstr i s d crn new = .next t) :
    (crAccess s.hart.level crn.toNat new.isSome = none ∧ t = s.trap ⟨2, wordOfInstr i⟩)
      ∨ ∃ r, crAccess s.hart.level crn.toNat new.isSome = some r
          ∧ t = (match new with
              | some f => (((s.afterCrRead r).writeCr r (f (s.readCr r))).setX d (s.readCr r)).retire
              | none => ((s.afterCrRead r).setX d (s.readCr r)).retire) := by
  unfold crInstr at h
  split at h
  · next hr => exact .inl ⟨hr, by cases h; rfl⟩
  · next r hr => refine .inr ⟨r, hr, ?_⟩; cases new <;> (cases h; rfl)

theorem branch_eq (s : State) (c : Bool) (off : BitVec 15) :
    branch s c off = .next { s with hart := s.hart.retireTo (if c then s.hart.pc + off15 off else s.hart.pc + 4) } := rfl

/-! ### What an agent sees -/

theorem PendWrite.heldBy_owner (p : PendWrite) (a : AgentId) (pts : List Point) (h : p.owner = a) : p.heldBy a pts = true := by
  simp [PendWrite.heldBy, h]

/-- A write of whole bytes leaves what it wrote. -/
theorem PendWrite.over_whole (p : PendWrite) (v b : Byte) (h : p.nibble = none) : p.over v b = v := by simp [PendWrite.over, h]

theorem viewFrom_seen (sees : PendWrite → Bool) (pa : Nat) (v : Byte) (p : PendWrite) (ps : List PendWrite) (h : sees p = true)
    (hc : p.covers pa = true) (hn : p.nibble = none) : viewFrom sees pa v (p :: ps) = v := by
  rw [viewFrom, if_pos hc, if_pos h, p.over_whole _ _ hn]

theorem viewFrom_uncovered (sees : PendWrite → Bool) (pa : Nat) (v : Byte) (p : PendWrite) (ps : List PendWrite) (hc : p.covers pa = false) :
    viewFrom sees pa v (p :: ps) = viewFrom sees pa v ps := by
  rw [viewFrom, if_neg (by simp [hc])]

/-- An agent sees its own write at every scope. -/
theorem State.view_write_own (s : State) (a : AgentId) (q : Point) (e : Bool) (w pa k : Nat) (bs : List Byte) (sc : Scope) (h : k < bs.length) :
    (s.write a q e w pa bs).view a sc (pa + k) = bs.getD k 0 := by
  have hp : (s.write a q e w pa bs).pend
      = ⟨pa, s.latestBytes pa bs.length, bs, a, s.firstAt a q pa, [], e, [], w, s.tick, s.splitAt pa, none⟩ :: s.pend := by
    unfold State.write State.touch; dsimp only; split <;> rfl
  have hc : PendWrite.covers ⟨pa, s.latestBytes pa bs.length, bs, a, s.firstAt a q pa, [], e, [], w, s.tick, s.splitAt pa, none⟩ (pa + k) = true := by
    simp [PendWrite.covers]; omega
  unfold State.view
  rw [hp, viewFrom_seen _ _ _ _ _ (PendWrite.heldBy_owner _ _ _ rfl) hc rfl, s.latest_write a q e w pa bs (pa + k),
    if_pos ⟨Nat.le_add_right .., Nat.add_lt_add_left h _⟩, Nat.add_sub_cancel_left]

/-! ### Requests to the HBM channels -/

/-- A request changes no more of a die than its lending pairs. -/
theorem State.dieAt_touch (s : State) (pa d : Nat) : ∃ l, (s.touch pa).dieAt d = { s.dieAt d with lend := l } := by
  unfold State.touch; dsimp only
  split
  · exact ⟨_, rfl⟩
  · rw [State.setPair, State.dieAt_modDie]
    split
    · next h => exact ⟨_, by rw [h]⟩
    · exact ⟨_, rfl⟩

/-- No number of requests changes more of a die than its lending pairs. -/
theorem dieAt_foldl_touch (l : List Nat) (s : State) (d : Nat) : ∃ p, (l.foldl State.touch s).dieAt d = { s.dieAt d with lend := p } := by
  induction l generalizing s with
  | nil => exact ⟨_, rfl⟩
  | cons pa l ih =>
    obtain ⟨_, h⟩ := ih (s.touch pa)
    obtain ⟨_, h'⟩ := s.dieAt_touch pa d
    exact ⟨_, h.trans (by rw [h'])⟩

theorem State.dieAt_walkRequests (s : State) (c : Ctx) (va : Word) (d : Nat) : ∃ p, (s.walkRequests c va).dieAt d = { s.dieAt d with lend := p } := by
  unfold State.walkRequests
  split
  · exact ⟨_, rfl⟩
  · split
    · exact dieAt_foldl_touch ..
    · exact ⟨_, rfl⟩

theorem State.dieAt_requests (s : State) (c : Ctx) (k : Kind) (va : Word) (d : Nat) :
    ∃ p, (s.requests c k va).dieAt d = { s.dieAt d with lend := p } := by
  unfold State.requests
  obtain ⟨_, h⟩ := s.dieAt_walkRequests c va d
  split
  · obtain ⟨_, h'⟩ := (s.walkRequests c va).dieAt_touch (s.forward _) d
    exact ⟨_, h'.trans (by rw [h])⟩
  · exact ⟨_, h⟩

theorem State.dieAt_requestAll (s : State) (c : Ctx) (k : Kind) (l : List (Word × Nat)) (d : Nat) :
    ∃ p, (s.requestAll c k l).dieAt d = { s.dieAt d with lend := p } := by
  induction l generalizing s with
  | nil => exact ⟨_, rfl⟩
  | cons x l ih =>
    unfold State.requestAll
    obtain ⟨_, h⟩ := s.dieAt_requests c k x.1 d
    split
    · obtain ⟨_, h'⟩ := ih (s.requests c k x.1)
      exact ⟨_, h'.trans (by rw [h])⟩
    · exact ⟨_, h⟩

/-- Requests leave the dies in service as they are. -/
@[simp] theorem State.admitted_walkRequests (s : State) (c : Ctx) (va : Word) (d : Nat) : (s.walkRequests c va).admitted d = s.admitted d := by
  obtain ⟨_, h⟩ := s.dieAt_walkRequests c va d
  simp only [State.admitted, h]

@[simp] theorem State.admitted_requests (s : State) (c : Ctx) (k : Kind) (va : Word) (d : Nat) : (s.requests c k va).admitted d = s.admitted d := by
  obtain ⟨_, h⟩ := s.dieAt_requests c k va d
  simp only [State.admitted, h]

@[simp] theorem State.admitted_requestAll (s : State) (c : Ctx) (k : Kind) (l : List (Word × Nat)) (d : Nat) :
    (s.requestAll c k l).admitted d = s.admitted d := by
  obtain ⟨_, h⟩ := s.dieAt_requestAll c k l d
  simp only [State.admitted, h]

/-- A write changes no more of a die than its lending pairs. -/
theorem State.dieAt_write (s : State) (a : AgentId) (q : Point) (e : Bool) (w pa d : Nat) (bs : List Byte) :
    ∃ l, (s.write a q e w pa bs).dieAt d = { s.dieAt d with lend := l } := State.dieAt_touch _ pa d

/-- A write leaves every die in its state (22 R412). -/
@[simp] theorem State.admitted_write (s : State) (a : AgentId) (q : Point) (e : Bool) (w pa d : Nat) (bs : List Byte) :
    (s.write a q e w pa bs).admitted d = s.admitted d := by
  obtain ⟨l, h⟩ := State.dieAt_write s a q e w pa d bs
  simp only [State.admitted, h]

/-! ### The writes under way -/

@[simp] theorem PendWrite.reach_nil (p : PendWrite) : p.reach [] = p := rfl

/-- A write that has appeared moves alone: the others stand as they were. -/
theorem State.moveAt_ne (s : State) (q : Point) (n k : Nat) (p : PendWrite) (hp : s.pend[n]? = some p) (ha : p.appeared = true) (h : k ≠ n) :
    (s.moveAt n q).pend[k]? = s.pend[k]? := by
  simp only [State.moveAt, hp, ha, if_true]
  split
  · exact List.getElem?_set_ne h.symm
  · rfl

/-- A move of a write that has appeared leaves memory as it is. -/
theorem State.moveAt_mem (s : State) (q : Point) (n : Nat) (p : PendWrite) (hp : s.pend[n]? = some p) (ha : p.appeared = true) :
    (s.moveAt n q).mem = s.mem := by
  simp only [State.moveAt, hp, ha, if_true]
  split <;> rfl

theorem State.wf_moveAt (s : State) (q : Point) (n : Nat) (h : Memory.wf s.mem = true) : Memory.wf (s.moveAt n q).mem = true := by
  unfold State.moveAt
  split
  · split
    · split
      · exact h
      · exact s.wf_appearing _ h
    · exact h
  · exact h

end Sys2Proof.Machine
end

