-- ==== Sys2Proof/Tests/Slice0.lean ====
section
/-! SUPPORT. The author's own tests: words the spec writes out, ill-formed terms that the check refuses, single steps with results from the spec's
examples, and, for each statement with hypotheses, machines that meet them (wit_<statement>). -/

namespace Sys2Proof.Machine

/-! ### Words (03, 04, 05, 07, 12, 15 to 19, 21: as the spec assembles them; those marked "by hand" from the fields of 03 R49) -/

theorem test_decode_int : decodeTableWord 32 0x02729803 = some (.add .w64 7 5 6) ∧ decodeTableWord 32 0x0252B403 = some (.add .w64 5 5 13) := by
  decide
/-- By hand: op 0000010, xd 00101, xs1 00110, xs2 00111, fn 0000000011. -/
theorem test_decode_muldiv : decodeTableWord 32 0x04531C03 = some (.mul .w64 5 6 7) := by decide
theorem test_decode_imm : decodeTableWord 32 0x1052D678 = some (.addi 5 5 0x5678) ∧ decodeTableWord 32 0x06502469 = some (.lih 5 0x2469)
    ∧ decodeTableWord 32 0x1C534083 = some (.srai .w32 5 6 3) := by decide
/-- By hand: LD a0, 8(a1) is op 0010110, xd 5, xs1 6, imm15 8; SD has op 0011011. -/
theorem test_decode_memory : decodeTableWord 32 0x2C530008 = some (.ld 5 6 8) ∧ decodeTableWord 32 0x36530008 = some (.sd 5 6 8) := by decide
theorem test_decode_branch : decodeTableWord 32 0x42D07FFC = some (.bne 13 0 0x7FFC) ∧ decodeTableWord 32 0x4CD07FFF = some (.loop 13 0x7FFF) := by
  decide
/-- By hand: JAL lr, +16 has off20 4; JALR x0, 0(lr). -/
theorem test_decode_jump : decodeTableWord 32 0x50100004 = some (.jal 1 4) ∧ decodeTableWord 32 0x52008000 = some (.jalr 0 1 0) := by decide
/-- By hand: FADD.f32 with rm dyn, FCVT.f32.i64 rne, FMA.f64 with np. -/
theorem test_decode_float : decodeTableWord 32 0x60531D07 = some (.fadd .f32 .dyn 5 6 7) ∧ decodeTableWord 32 0x62530150 = some (.fcvt .f32 .i64 .rne 5 6)
    ∧ decodeTableWord 32 0x68531D08 = some (.fmaF64 true false .rne 5 6 7 8) := by decide
/-- By hand: CRRS a0, vtype, x0; SYSC; HALT. -/
theorem test_decode_system : decodeTableWord 32 0x70500181 = some (.crrs 5 0 0x030) ∧ decodeTableWord 32 0x72000000 = some .sysc
    ∧ decodeTableWord 32 0x72000004 = some .halt ∧ decodeTableWord 32 0x74729803 = some (.rngx 7 5 6 3) := by decide
theorem test_decode_vector : decodeTableWord 32 0x8256B800 = some (.vconfig 5 13 14) ∧ decodeTableWord 32 0x82678002 = some (.vsetrows 6 15)
    ∧ decodeTableWord 32 0x82780001 = some (.vsetvl 7 16) ∧ decodeTableWord 32 0x80D60008 = some (.vfetch 13 3 8) := by decide
/-- By hand: MATTACH a0, a1; ADINV.die a0, a1. -/
theorem test_decode_matrix : decodeTableWord 32 0x84530000 = some (.mattach 5 6) ∧ decodeTableWord 32 0x84029907 = some (.adinv 5 6 .die) := by
  decide
theorem test_decode_work : decodeTableWord 32 0x86601C03 = some (.pgrab 6 7) ∧ decodeTableWord 32 0x87230004 = some (.pdone 18 6)
    ∧ decodeTableWord 32 0x86F23800 = some (.spawn 15 4 14) ∧ decodeTableWord 32 0x86F94C05 = some (.pnarrive 15 18 19)
    ∧ decodeTableWord 32 0x86F93C06 = some (.pnwait 15 18 15) ∧ decodeTableWord 32 0x86FE3988 = some (.rtake 15 28 14 .device)
    ∧ decodeTableWord 32 0x8719C587 = some (.rput 17 19 17 .device) := by decide
theorem test_decode_scoped : decodeTableWord 32 0x96FB000D = some (.lds .w64 15 22 0 .device true)
    ∧ decodeTableWord 32 0x9EDB0005 = some (.sts .w64 13 22 0 .cluster true) ∧ decodeTableWord 32 0xA00BB18A = some (.amofmax false 0 23 12 .device .relaxed)
    ∧ decodeTableWord 32 0xA006B9B0 = some (.amoadd false 0 13 14 .device .acqrel) := by decide
/-- By hand: FENCE.device rw, rw; TLBINV.die a0, a1; CTXSAVE a0, a1, a2; EMRET. -/
theorem test_decode_order : decodeTableWord 32 0xA400018F = some (.fence .device false true true true true)
    ∧ decodeTableWord 32 0xA6029903 = some (.tlbinv 5 6 .die) ∧ decodeTableWord 32 0xB2531C00 = some (.ctxsave 5 6 7)
    ∧ decodeTableWord 32 0xB2000002 = some .emret := by decide
theorem test_decode_async : decodeTableWord 32 0xB11A8000 = some (.scfg 17 21 0) ∧ decodeTableWord 32 0xB0100001 = some (.vldq 1 0) := by decide
theorem test_decode_undefined : decodeTableWord 32 0x02729847 = some (.undefinedWord 0x02729847) ∧ decodeTableWord 32 0x0272983B = none := by decide
/-- `VADD v3.r, v1.r, a1, ~m2` ending its convoy, and the words of 12, 16 and 18. -/
theorem test_decode_block : decodeTableWord 64 0x108608032E03A000 = some (.vadd ⟨true, 3, 1, 0, 6, 2, true, 6, 0x03A000⟩)
    ∧ decodeTableWord 64 0x60020004_8000C000 = some (.vld ⟨false, 1, 0, 0, 9, 0, false, 0, 0x00C000⟩)
    ∧ decodeTableWord 64 0x668C20AA80004004 = some (.vamo ⟨true, 6, 4, 5, 21, 0, false, 0, 0x004004⟩)
    ∧ decodeTableWord 64 0x6A8008400000A0FF = some (.mopkAdapter ⟨true, 0, 1, 2, 0, 0, false, 0, 0x00A0FF⟩)
    ∧ decodeTableWord 64 0x5080080280038000 = some (.vredsum ⟨true, 0, 1, 0, 5, 0, false, 0, 0x038000⟩)
    ∧ decodeTableWord 64 0x0100000000000000 = some .stop := by decide

/-! ### Ill-formed terms -/

theorem test_wf_shift : Instr.wf (.slli .w8 5 6 8) = false ∧ Instr.wf (.slli .w8 5 6 7) = true := by decide
theorem test_wf_fcvt : Instr.wf (.fcvt .i32 .i64 .rne 5 6) = false ∧ Instr.wf (.fcvt .f32 .f32 .rne 5 6) = false := by decide
theorem test_wf_fence : Instr.wf (.fence .die true false false false false) = false ∧ Instr.wf (.fence .hart true false false false false) = true := by
  decide
theorem test_wf_undefined : Instr.wf (.undefinedWord 0x02729803) = false ∧ Instr.wf (.undefinedWord 0x02729847) = true := by decide
theorem test_wf_places : Instr.wf (.wloadApply 192) = false ∧ Instr.wf (.spawnChildStart 192) = false ∧ Instr.wf (.streamFetch 400 0) = false
    ∧ Instr.wf (.copyTransfer (.edge 0 8)) = false ∧ Instr.wf (.copyTransfer (.ctl 192)) = false ∧ Instr.wf (.slotReloadComplete 0 512) = false
    ∧ Instr.wf (.laneSpare 0 9) = false ∧ Instr.wf (.doorbellWrite 8192 0) = false ∧ Instr.wf (.hartReset 4096) = false := by decide
theorem test_wf_vsat : Instr.wf (.vsat ⟨false, 1, 2, 0, 0, 0, false, 0, 0x904000⟩) = false
    ∧ Instr.wf (.vsat ⟨false, 1, 2, 0, 0, 0, false, 0, 0x900000⟩) = true := by decide
theorem test_wf_block : Instr.wf (.vadd ⟨false, 0, 0, 0, 63, 0, false, 0, 0xFFFFFF⟩) = false
    ∧ Instr.wf (.vadd ⟨true, 3, 1, 0, 6, 2, true, 6, 0x03A000⟩) = true := by decide


/-! ### Machines for the tests -/

/-- Die 0 in service, hart 0 at M with registers 5 to 7 and iflags, everything else as at reset. -/
def adm (a b c : Word) : State :=
  { State.reset with powered := true, dies := [(0, { Die.reset with st := 5 })], hart := { Hart.reset 0 with x := [(5, a), (6, b), (7, c)] } }

/-- A state with its current hart changed. -/
abbrev atU (s : State) : State := { s with hart := { s.hart with level := .u } }
abbrev atS (s : State) : State := { s with hart := { s.hart with level := .s } }
abbrev withRun (s : State) (r : Run) : State := { s with hart := { s.hart with run := r } }

/-- The memory location an access reaches, if it reaches memory. -/
def memAt : Except Trap Target → Option (Nat × Bool)
  | .ok (.mem pa h) => some (pa, h)
  | _ => none

theorem memAt_eq {r : Except Trap Target} {pa : Nat} {h : Bool} (e : memAt r = some (pa, h)) : r = .ok (.mem pa h) := by
  unfold memAt at e; split at e <;> simp_all

/-- The register an access reaches. -/
def regAt : Except Trap Target → Option (Nat × Nat)
  | .ok (.reg d o) => some (d, o)
  | _ => none

theorem regAt_eq {r : Except Trap Target} {d o : Nat} (e : regAt r = some (d, o)) : r = .ok (.reg d o) := by
  unfold regAt at e; split at e <;> simp_all

/-- The ROM byte an access reaches. -/
def romAt : Except Trap Target → Option Nat
  | .ok (.rom pa) => some pa
  | _ => none

theorem romAt_eq {r : Except Trap Target} {pa : Nat} (e : romAt r = some pa) : r = .ok (.rom pa) := by
  unfold romAt at e; split at e <;> simp_all

/-- The value of an operation that answers one. -/
def okOf {ε α : Type} : Except ε α → Option α
  | .ok a => some a
  | .error _ => none

theorem okOf_eq {ε α : Type} {r : Except ε α} {a : α} (e : okOf r = some a) : r = .ok a := by
  cases r <;> simp_all [okOf]

theorem okOf_some {ε α : Type} {r : Except ε α} (e : (okOf r).isSome = true) : ∃ a, r = .ok a := by
  cases r <;> simp_all [okOf]

/-- The cause an operation refuses with. -/
def errOf {ε α : Type} : Except ε α → Option ε
  | .ok _ => none
  | .error e => some e

theorem errOf_eq {ε α : Type} {r : Except ε α} {e : ε} (h : errOf r = some e) : r = .error e := by
  cases r <;> simp_all [errOf]

/-! ### Single steps, with the spec's own results -/

/-- 04 R73: SRA.w of 0x80000001 by 4 writes 0xFFFFFFFFF8000000. -/
theorem test_sra : (match exec (.sra .w32 7 5 6) (adm 0x80000001 4 0) with | .next t => t.x 7 | _ => 0) = 0xFFFFFFFFF8000000 := by decide
/-- 04 R73: CLZ.h of 1 is 15. -/
theorem test_clz : (match exec (.clz .w16 7 5) (adm 0x80000001 4 0) with | .next t => t.x 7 | _ => 0) = 15 := by decide
/-- 02 R37: −2^63 by −1 gives −2^63 and sets ov. -/
theorem test_div_overflow : (match exec (.div .w64 7 5 6) (adm 0x8000000000000000 0xFFFFFFFFFFFFFFFF 0) with
    | .next t => (t.x 7, t.hart.iflags) | _ => (0, 0)) = (0x8000000000000000, 1) := by decide
/-- 04 R81: LOOP with a count of 0 leaves all ones and branches. -/
theorem test_loop : (match exec (.loop 5 0x7FFF) (adm 0 0 0) with | .next t => (t.x 5, t.hart.pc) | _ => (0, 0))
    = (0xFFFFFFFFFFFFFFFF, 0x0EFFFFFFFFFC) := by decide
/-- 01 R34: a misaligned 4-byte load at U traps to S with code 4. -/
theorem test_misaligned : (match exec (.lw 7 5 0) (atU (adm 0x200000000006 0 0)) with
    | .next t => (t.hart.trapS.cause, t.hart.trapS.tval, t.hart.trapS.epc) | _ => (0, 0, 0)) = (4, 0x200000000006, 0x0F0000000000) := by decide
/-- 05 R112: six lanes of eight, 32 registers of 32 bits: MAXVL 384 and vtype 0xA0. -/
theorem test_vconfig : (match exec (.vconfig 7 5 6) { adm 32 32 0 with cores := [(0, { Core.reset with lanecap := 0x3F })] } with
    | .next t => (t.x 7, t.hart.vtype, t.hart.maxvl) | _ => (0, 0, 0)) = (384, 0xA0, 384) := by decide
/-- 19 R372: the word 0x02729847 at U enters the emulator. -/
theorem test_emulate : (match exec (.undefinedWord 0x02729847) { atU (adm 0 0 0) with hart := { (atU (adm 0 0 0)).hart with ebase := 0x4001 } } with
    | .next t => (t.hart.pc, t.hart.eshadow, t.hart.eword) | _ => (0, 0, 0)) = (0x4000, 0x0F0000000000, 0x02729847) := by decide
/-- 04 R78, 00 R10: a store and a load of four bytes, little-endian. -/
theorem test_store : (match exec (.sw 5 6 0) (adm 0x11223344 0x1000 0) with | .next t => (t.latest 0x1000, t.latest 0x1003, t.latest 0x1004) | _ => (0, 0, 0))
    = (0x44, 0x11, 0) := by decide

/-! ### Machines that meet the hypotheses of the statements -/

theorem wit_RegistersAndRetirement : (adm 0 0 0).hart.ahead = none
    ∧ ({ adm 0 0 0 with hart := { (adm 0 0 0).hart with ahead := some 31 } } : State).hart.ahead = some 31 ∧ (31 : Reg) ≠ 0 := by decide

/-- A state with iflags set. -/
abbrev withI (s : State) (v : Word) : State := { s with hart := { s.hart with iflags := v } }

theorem wit_Divisions : ((withI (adm 8 0 0) 0x200).low .w8 6 = 0 ∧ (withI (adm 8 0 0) 0x200).hart.iflags.getLsbD 9 = true)
    ∧ ((adm 8 0 0).low .w64 6 = 0 ∧ (adm 8 0 0).hart.iflags.getLsbD 9 = false)
    ∧ ((withI (adm 0x80 0xFF 0) 0x100).low .w8 5 = BitVec.intMin Width.w8.bits ∧ (withI (adm 0x80 0xFF 0) 0x100).low .w8 6 = -1
      ∧ (withI (adm 0x80 0xFF 0) 0x100).hart.iflags.getLsbD 8 = true)
    ∧ ((adm 0x80 0xFF 0).low .w8 5 = BitVec.intMin Width.w8.bits ∧ (adm 0x80 0xFF 0).low .w8 6 = -1 ∧ (adm 0x80 0xFF 0).hart.iflags.getLsbD 8 = false)
    ∧ ((adm 0x81 0xFF 0).low .w8 6 ≠ 0 ∧ ¬((adm 0x81 0xFF 0).low .w8 5 = BitVec.intMin Width.w8.bits ∧ (adm 0x81 0xFF 0).low .w8 6 = -1)) := by
  refine ⟨⟨?_, ?_⟩, ⟨?_, ?_⟩, ⟨?_, ?_, ?_⟩, ⟨?_, ?_, ?_⟩, ?_, ?_⟩ <;> decide

theorem wit_ImmediateOperations : (7 : BitVec 6).toNat < Width.w8.bits ∧ (63 : BitVec 6).toNat < Width.w64.bits := by decide

theorem wit_ControlTransfers : ((adm 0x1004 0 0).x 5 + (0 : BitVec 15).signExtend 64).extractLsb' 0 2 = 0
    ∧ ((adm 0x1004 0 0).x 5 + (3 : BitVec 15).signExtend 64).extractLsb' 0 2 ≠ 0 := by decide

theorem wit_IntegerFrame : (∃ t, exec (.add .w64 7 5 6) (adm 1 2 0) = .next t) ∧ (∃ t, exec (.divu .w64 7 5 6) (adm 1 0 0) = .next t)
    ∧ (adm 1 0 0).hart.iflags.extractLsb' 8 2 = 0 ∧ (∃ t, exec (.jalr 7 5 4) (adm 8 0 0) = .next t)
    ∧ ((adm 8 0 0).x 5 + (4 : BitVec 15).signExtend 64).extractLsb' 0 2 = 0 :=
  ⟨⟨_, rfl⟩, ⟨_, rfl⟩, by decide, ⟨_, rfl⟩, by decide⟩

theorem wit_TrapEntry : (adm 0 0 0).hart.ahead = none ∧ (65535 : Nat) < 2 ^ 16 ∧ (adm 0 0 0).hart.level = .m ∧ ¬((atS (adm 0 0 0)).hart.level = .m ∨ 8 = 9)
    := by decide

theorem wit_TrapReturnAndCalls : (adm 0 0 0).hart.level = .m ∧ (atS (adm 0 0 0)).hart.level = .s ∧ (atU (adm 0 0 0)).hart.level = .u
    ∧ (atU (adm 0 0 0)).hart.ahead = none := by decide

/-- Every notice of hart 0 is pending and enabled. -/
def noticed : State := { adm 0 0 0 with dies := [(0, { Die.reset with st := 5, hirq := [(0, 0xFFFFFFFFFFFFFFFF)] })] }

theorem wit_WaitAndHalt : noticed.interruptPending noticed.cur = true ∧ (withRun noticed (.waiting .waiti)).interruptPending 0 = true
    ∧ (withRun noticed (.waiting .waiti)).hart.run = .waiting .waiti
    ∧ (adm 0 0 0).interruptPending 0 = false ∧ (withRun (adm 0 0 0) (.waiting .waiti)).hart.run = .waiting .waiti
    ∧ (atS (adm 0 0 0)).hart.level ≠ .m := by decide

theorem wit_ControlRegisterAccess : crOf 0x060 = some .eshadow ∧ (Cr.eshadow).readOnly = false ∧ crOf 0x100 = some .statusS
    ∧ (atS (adm 0 0 0)).hart.level ≠ .u ∧ crOf 0x400 = some .statusM ∧ crOf 0x010 = some .hartid ∧ (Cr.hartid).readOnly = true ∧ crOf 0xFFF = none
    ∧ crOf 0x800 = none ∧ crOf 0x011 = none := by decide

theorem wit_ControlRegisterFields : Cr.epcS ≠ Cr.epcM := by decide

theorem wit_RoundingOperations : (adm 0 0 0).mode .rup = some .rup ∧ (adm 0 0 0).mode .dyn = some .rne
    ∧ ({ adm 0 0 0 with hart := { (adm 0 0 0).hart with frm := 5 } } : State).mode .dyn = none := by decide

theorem wit_Rounding : (-1 : Int) < 0 ∧ 0xFFFF < 2 ^ SFmt.f16.fmt.width ∧ (SFmt.f16.fmt.value 0xFFFF).isNan = true
    ∧ (SFmt.f16.fmt.value 0x7C00).isNan = false := by decide

/-- Binary16 at both ends of its range: 2^16 and 2^15, 2^−15 and 2^−14 (02 R41, R42). -/
theorem wit_Rounding_range : let top := fun (e : Int) => (((roundAt .rne false 1 e (e - 10)).1.log2 : Int)) + (e - 10)
    (1 : Nat) ≠ 0 ∧ (SFmt.f16.fmt.bias : Int) < top 16 ∧ (top 15 ≤ (SFmt.f16.fmt.bias : Int) ∧ 1 - (SFmt.f16.fmt.bias : Int) ≤ top 15)
      ∧ (1 - (SFmt.f16.fmt.bias : Int) ≤ top (-14) ∧ top (-14) ≤ (SFmt.f16.fmt.bias : Int)) ∧ top (-15) < 1 - (SFmt.f16.fmt.bias : Int) := by decide

/-- Two bytes of memory. -/
abbrev withMem (s : State) (m : List Host.Cell) : State := { s with mem := m }

theorem reads_mem {s : State} {sc : Scope} {va : Word} {n pa : Nat} {h : Bool} (e : memAt (s.target s.ctx .load va n) = some (pa, h))
    (p : s.poisoned pa = false) : ∃ v, s.readsAs sc va n v := ⟨_, .inl ⟨pa, h, memAt_eq e, p, rfl⟩⟩

theorem reads_rom {s : State} {sc : Scope} {va : Word} {n pa : Nat} (e : romAt (s.target s.ctx .load va n) = some pa) :
    ∃ v, s.readsAs sc va n v := ⟨_, .inr (.inl ⟨pa, romAt_eq e, rfl⟩)⟩

theorem reads_reg {s : State} {sc : Scope} {va : Word} {n d o : Nat} {w : Word} (e : regAt (s.target s.ctx .load va n) = some (d, o))
    (r : s.mmioRead d (o / 8 * 8) = some w) : ∃ v, s.readsAs sc va n v := ⟨_, .inr (.inr ⟨d, o, w, regAt_eq e, r, rfl⟩)⟩

theorem wit_Loads : (∃ v, (adm 0x3FFF 0 0).readsAs .hart (0x3FFF : Word) 1 v) ∧ (∃ v, (adm 0x3FFE 0 0).readsAs .hart (0x3FFE : Word) 2 v)
    ∧ (∃ v, (adm 0 0 0).readsAs .hart (0x0F00000FFFF8 : Word) 8 v) ∧ (∃ v, (adm 0 0 0).readsAs .hart (0x0F0005000004 : Word) 4 v)
    ∧ (∃ v, (adm 0 0 0).readsAs .system (0x3FF8 : Word) 8 v) :=
  ⟨reads_mem (pa := 0x3FFF) (h := false) (by decide) (by decide), reads_mem (pa := 0x3FFE) (h := false) (by decide) (by decide),
    reads_rom (pa := 0x0F10000FFFF8) (by decide), reads_reg (d := 0) (o := 0x05000004) (w := 0) (by decide) (by decide),
    reads_mem (pa := 0x3FF8) (h := false) (by decide) (by decide)⟩

theorem wit_Stores : (adm 0 0x3FFF 0).target (adm 0 0x3FFF 0).ctx .store 0x3FFF 1 = .ok (.mem 0x3FFF false)
    ∧ (adm 0 0 0).target (adm 0 0 0).ctx .store 0x3FF8 8 = .ok (.mem 0x3FF8 false)
    ∧ ((adm 0 0 0).release (.hart 0) .system).target (adm 0 0 0).ctx .store 0x3FF8 8 = .ok (.mem 0x3FF8 false)
    ∧ (adm 0 0 0).target (adm 0 0 0).ctx .store 0x0F0007000000 8 = .ok (.reg 0 0x07000000) ∧ (adm 0 0 0).hart.level ≠ .u
    ∧ (adm 0 0 0).target (adm 0 0 0).ctx .store 0x0F0005000000 4 = .ok (.reg 0 0x05000000)
    ∧ (adm 0 0 0).target (adm 0 0 0).ctx .store 0x0F00000FFFF8 8 = .ok (.rom 0x0F10000FFFF8)
    ∧ (adm 0 0 0).target (adm 0 0 0).ctx .store 0x0F0005000007 1 = .ok (.reg 0 0x05000007)
    ∧ ((adm 0 0 0).release (.hart 0) .system).target (adm 0 0 0).ctx .store 0x0F0005000000 8 = .ok (.reg 0 0x05000000)
    ∧ ((adm 0 0 0).release (.hart 0) .system).target (adm 0 0 0).ctx .store 0x0F00000FFFFE 2 = .ok (.rom 0x0F10000FFFFE) :=
  ⟨memAt_eq (by decide), memAt_eq (by decide), memAt_eq (by decide), regAt_eq (by decide), by decide, regAt_eq (by decide), romAt_eq (by decide),
    regAt_eq (by decide), regAt_eq (by decide), romAt_eq (by decide)⟩

/-- The first sector of memory is poisoned. -/
abbrev sick (s : State) : State := { s with poison := [0] }

theorem wit_AddressTraps : (0x3FF9 : Word).toNat % 8 ≠ 0
    ∧ errOf ((adm 0 0 0).target (adm 0 0 0).ctx .load 0x0D0000000000 8) = some ⟨5, 0x0D0000000000⟩
    ∧ errOf ((adm 0 0 0).target (adm 0 0 0).ctx .store 0x7FFF00040000 8) = some ⟨7, 0x7FFF00040000⟩
    ∧ errOf (((adm 0 0 0).release (.hart 0) .device).target (adm 0 0 0).ctx .store 0x7FFF00040000 8) = some ⟨7, 0x7FFF00040000⟩
    ∧ (memAt ((sick (adm 0 0 0)).target (adm 0 0 0).ctx .load 0x18 8) = some (0x18, false) ∧ (sick (adm 0 0 0)).poisoned 0x18 = true)
    ∧ okOf ((adm 0 0 0).target (adm 0 0 0).ctx .store 0x0F0005000000 8) = some (.reg 0 0x05000000)
    ∧ (okOf ((sick (adm 0 0 0)).amoTarget (adm 0 0 0).ctx 0x18 8 false) = some 0x18) := by
  decide

/-- A write of one byte under way, and the machine with it. -/
abbrev pending (a : AgentId) (p : Point) (pa : Nat) : PendWrite := ⟨pa, [0], [1], a, p, [], false, [], 0, 0, false, none⟩
abbrev writing (a : AgentId) (p : Point) (pa : Nat) : State := { adm 0 0 0 with mem := [(pa, 1)], pend := [pending a p pa] }

/-- Decoder 0 maps 1 GiB of host memory by port 0 without mca. -/
abbrev shared (s : State) : State :=
  { s with regs := { s.regs with decoders := [(0, word (2 ^ 63 + 2 ^ 60 + 0x080000000000)), (1, 1)] } }

theorem wit_AtomicOperations_waits : (writing (.hart 9) .device 0x3FF8).pend.all (fun w => w.amoSees (.hart 0)) = false
    ∧ (writing (.hart 0) .device 0x3FF8).pend.all (fun w => w.amoSees (.hart 0)) = true := by decide

theorem wit_AtomicOperations : (adm 0 0 0).amoTarget (adm 0 0 0).ctx 0x3FF8 8 true = .ok 0x3FF8 ∧ (adm 0 0 0).poisoned 0x3FF8 = false
    ∧ (adm 0 0 0).amoTarget (adm 0 0 0).ctx 0x3FFC 4 false = .ok 0x3FFC :=
  ⟨okOf_eq (by decide), by decide, okOf_eq (by decide)⟩

theorem wit_OrderingInstructions : min ((adm 0 0 0).x 6).toNat (2 ^ 20) = 0
    ∧ ((adm 0 0x1000 0).flushPages .system 257 0 0x1000).2 = none
    ∧ (0 < min ((adm 0xFFFFFFFFFFFFFFFF 1 0).x 6).toNat (2 ^ 20)
      ∧ errOf ((adm 0 0 0).translate (adm 0 0 0).ctx .load 0xFFFFFFFFFFFFFFFF) = some ⟨5, 0xFFFFFFFFFFFFFFFF⟩)
    ∧ (adm 0 0 0).hart.level ≠ .u ∧ (atU (adm 0 0 0)).hart.level = .u
    ∧ (withRun (adm 0 0 0) (.waiting (.tlbinv 5 6 .system 0))).hart.run = .waiting (.tlbinv 5 6 .system 0)
    ∧ (adm 0 0 0).performedFrom (tlbDies .system 0) 0 = true ∧ (writing (.hart 4095) .device 0x40).performedFrom (tlbDies .device 0) 0 = false := by
  decide

theorem wit_MemoryOrder : (adm 0 0 0).hart.ahead = none ∧ Point.core 0 ∈ (adm 0 0 0).upTo (.hart 0) .core ∧ Point.core 0 ∈ (adm 0 0 0).upTo (.hart 1) .core
    ∧ Point.core 0 ∉ (adm 0 0 0).upTo (.hart 2) .core ∧ Point.system ∈ (adm 0 0 0).upTo (.hart 0) .system
    ∧ Point.system ∈ (adm 0 0 0).upTo (.host 1) .system ∧ (adm 0 0 0).splitAt 0 = false ∧ (0 : Nat) < [(1 : Byte)].length ∧ AgentId.hart 1 ≠ .hart 0 := by
  decide

/-- Memory of the host at port 0, which does not advertise multi-copy atomicity: its own point alone holds the write. -/
theorem wit_MemoryOrder_host : (shared (adm 0 0 0)).splitAt 0x080000000000 = true ∧ Point.hostPt 0 ∈ (shared (adm 0 0 0)).upTo (.hart 0) .system
    ∧ Point.hostPt 0 ∈ (shared (adm 0 0 0)).upTo (.host 0) .system ∧ Point.hostPt 1 ∉ (shared (adm 0 0 0)).upTo (.host 0) .system := by decide

theorem wit_MemoryOrder_moves :
    (writing (.hart 0) .device 0x40).mayMove [] (pending (.hart 0) .device 0x40) [] .device = true
    ∧ (writing (.hart 0) .device 0x40).mayMove [] (pending (.hart 0) .device 0x40) [] .system = false
    ∧ (writing (.hart 0) .device 0x40).mayMove [] { pending (.hart 0) .device 0x40 with reached := [.device] } [] .system = true
    ∧ (writing (.hart 0) .device 0x40).mayMove [] { pending (.hart 0) .device 0x40 with reached := [.device] } [] (.die 0) = false := by decide

/-- Core 0 has its six lanes. -/
abbrev laned (s : State) : State := { s with cores := [(0, { s.core with lanecap := 0x3F })] }

theorem wit_VectorConfiguration : (let s := laned (adm 8 64 0); 16 ≤ min (laneCount (s.lanesFor s.cur)) s.laneLimit * 65536 / ((s.x 5).toNat * (s.x 6).toNat))
    ∧ (let s : State := { adm 64 64 0 with cores := [(0, { Core.reset with lanecap := 0 })] }; ¬16 ≤ min (laneCount (s.lanesFor s.cur)) s.laneLimit * 65536 / ((s.x 5).toNat * (s.x 6).toNat))
    ∧ (adm 9 64 0).x 5 ≠ 8 := by
  decide

/-- A configured hart: 32 registers of 32 bits, six lanes, four rows of 4 elements. -/
def vec (a b c : Word) : State :=
  match exec (.vconfig 8 9 10) (laned { adm a b c with hart := { (adm a b c).hart with x := [(5, a), (6, b), (7, c), (9, 32), (10, 32)] } }) with
  | .next t => { t with hart := { t.hart with vl := 4, rows := 4 } }
  | _ => adm a b c

/-- The same with no lanes left at the last grant point. -/
abbrev regrant (s : State) : State := { s with hart := { s.hart with vgrant := withBits s.hart.vgrant 0 4 1 } }
abbrev illed (s : State) : State := { s with hart := { s.hart with vtype := withBits s.hart.vtype 63 1 1 } }

theorem wit_VectorRowsAndLength : (adm 0 0 0).hart.ill = true
    ∧ (vec 0 0 0).hart.ill = false ∧ (vec 0 0 0).hart.maxvl = 384 ∧ ((vec 0 0 0).x 5).toNat = 0 ∧ 64 < ((vec 65 0 0).x 5).toNat
    ∧ ¬(((vec 64 0 0).x 5).toNat = 0 ∨ 64 < ((vec 64 0 0).x 5).toNat ∨ (vec 64 0 0).hart.maxvl < ((vec 64 0 0).x 5).toNat)
    ∧ min (laneCount ((vec 0 0 0).lanesFor 0)) (vec 0 0 0).laneLimitSeen = (vec 0 0 0).hart.g
    ∧ min (laneCount ((regrant (vec 0 0 0)).lanesFor 0)) (regrant (vec 0 0 0)).laneLimitSeen ≠ (regrant (vec 0 0 0)).hart.g := by
  decide

/-! ### Block words -/

/-- What the word prepares to. -/
def prepped (s : State) (i : Instr) : Option Prep := okOf (prepWord s.hart s.loneBlock 0 i s.hart.tagOf)

/-- Block decode accepts the word by itself before STOP. -/
def decodes (s : State) (i : Instr) : Bool :=
  match encodeBlock i with
  | some w => okOf (checkBlock s.hart.vcount 0 1 0 [] [w, stopWord]) = some [i]
  | none => false

theorem decodes_iff {s : State} {i : Instr} (h : decodes s i = true) :
    ∃ w, encodeBlock i = some w ∧ checkBlock s.hart.vcount 0 1 0 [] [w, stopWord] = .ok [i] := by
  unfold decodes at h
  split at h
  · exact ⟨_, ‹_›, okOf_eq (by simpa using h)⟩
  · cases h

/-- Nothing is left over and nothing strikes. -/
def quiet (s : State) : Bool :=
  (s.hart.ahead = none && s.hart.rep = 0 && s.hart.wofs = 0 && !s.hart.ill) && (s.hart.block = none && (s.hart.partials = [] && s.hart.stopped = []))
    && (s.hart.stopIn = none && s.hart.hwError = none)

theorem ready_with {s : State} {i : Instr} (c : Prep → Bool) (q : quiet s = true) (d : decodes s i = true) (k : (prepped s i).any c = true) :
    ∃ p, s.ready i p ∧ c p = true := by
  obtain ⟨p, hp, hc⟩ := Option.any_eq_true _ _ |>.mp k
  simp only [quiet, Bool.and_eq_true, decide_eq_true_eq, Bool.not_eq_true'] at q
  obtain ⟨⟨⟨⟨⟨q1, q2⟩, q3⟩, q4⟩, q7, q8, q9⟩, q5, q6⟩ := q
  exact ⟨p, ⟨⟨q1, q2, q3, q4, q7, q8, q9⟩, ⟨q5, q6⟩, decodes_iff d, okOf_eq hp⟩, hc⟩

/-- No active element stops. -/
def stopless (s : State) (p : Prep) : Bool :=
  (List.range p.total).all (fun e => !p.active s e || (match elementOf p s e with | .stop _ => false | _ => true))

theorem stopless_iff {s : State} {p : Prep} (h : stopless s p = true) : ∀ e tr, p.active s e → elementOf p s e ≠ .stop tr := by
  intro e tr ha hs
  have he : e < p.total := by simp only [Prep.active, Bool.and_eq_true, decide_eq_true_eq] at ha; exact ha.1.2
  have := List.all_eq_true.mp h e (List.mem_range.mpr he)
  simp [ha, hs] at this

/-- VADD v1, v2, v3; and VFETCH x0 over it. -/
def vaddF : Fields := ⟨false, 1, 2, 3, 0, 0, false, 0, 0⟩

/-- Registers 2 and 3 hold words of 32 bits. -/
abbrev filled (s : State) (a b : Nat) : State :=
  { s with hart := { s.hart with v := [(2, a), (3, b)], vtag := [(1, 5), (2, 5), (3, 5)] } }

theorem wit_VectorFetch : (vec 4097 0 0).hart.ahead = none ∧ (vec 4097 0 0).hart.run = .running ∧ 4096 < ((vec 4097 0 0).x 5).toNat
    ∧ (((adm 4096 0 0).x 5).toNat ≤ 4096 ∧ (adm 4096 0 0).hart.ill = true) ∧ (((vec 0 0 0).x 5).toNat = 0 ∧ (vec 0 0 0).hart.ill = false) := by
  decide

/-- Memory at 0x100 holds a word and STOP, at 0x110 STOP. -/
def blockMem (w : Nat) : State :=
  let s := filled (vec 1 0 0) 5 6
  { s with
    mem := ((((leBytes 8 w ++ leBytes 8 stopWord.toNat ++ leBytes 8 stopWord.toNat).zipIdx).map (fun p => (0x100 + p.2, p.1))).filter (fun p => p.2 ≠ 0)).map
      (fun p => p)
    hart := { s.hart with pc := 0xFC } }

theorem wit_VectorFetch_blocks : okOf ((blockMem 0).fetchBlock 64 0x110) = some [stopWord]
    ∧ (encodeBlock (.vadd vaddF)).any (fun w => okOf ((blockMem w.toNat).fetchBlock 64 0x100) = some [w, stopWord]) = true
    ∧ (0xFC &&& 0xFFFFFFFFFFFFFFF8 : Word) + 8 * (1 : BitVec 17).signExtend 64 = (blockMem 0).loneBlock
    ∧ errOf ((blockMem 0).fetchBlock 64 0x0D0000000000) = some ⟨1, 0x0D0000000000⟩ := by
  decide

theorem wit_VectorFetch_retire : ({ (adm 0 0 0) with hart := { (adm 0 0 0).hart with ahead := some 3 } } : State).hart.ahead = some 3 := by decide

theorem wit_VectorElements : ∃ p, (filled (vec 1 0 0) 5 6).ready (.vadd vaddF) p
    ∧ (∀ e tr, p.active (filled (vec 1 0 0) 5 6) e → elementOf p (filled (vec 1 0 0) 5 6) e ≠ .stop tr) := by
  obtain ⟨p, h, c⟩ := ready_with (s := filled (vec 1 0 0) 5 6) (i := .vadd vaddF) (stopless (filled (vec 1 0 0) 5 6)) (by decide) (by decide) (by decide)
  exact ⟨p, h, stopless_iff c⟩

/-- Elements 1 and 3 of register 2 are poisoned. -/
abbrev tainted : State := { filled (vec 1 0 0) 5 6 with hart := { (filled (vec 1 0 0) 5 6).hart with vpois := [(2, 10)] } }

/-- VADD and VCMP of it: the poisoned serials in VADD are 1 and 3, of destination 1; VCMP poisons no mask bit. -/
theorem wit_VectorElements_poison :
    (∃ p, tainted.ready (.vadd vaddF) p ∧ (stopless tainted p
      && decide ((p.actives tainted).filter (fun e => match elementOf p tainted e with | .write _ b _ _ => b | _ => false) = [1, 3])) = true)
    ∧ (∃ p, tainted.ready (.vcmp vaddF) p ∧ stopless tainted p = true) :=
  ⟨ready_with _ (by decide) (by decide) (by decide), ready_with _ (by decide) (by decide) (by decide)⟩

theorem test_vpoison : (match exec (.vadd vaddF) tainted with | .next t => t.hart.vpoison | _ => 0) = 0x8001000100000002 := by decide

theorem test_vadd : (match exec (.vadd vaddF) (filled (vec 1 0 0) (5 + 2 ^ 64 * 7) 6) with
    | .next t => (t.hart.elem 1 5 0, t.hart.elem 1 5 2, t.hart.elem 1 5 1, t.hart.ahead) | _ => (0, 0, 0, none)) = (11, 7, 0, some 0) := by decide

theorem wit_VectorElementValues : (prepped (filled (vec 1 0 0) 5 6) (.vadd vaddF)).any (fun p =>
    isIntTag p.rt && p.a (filled (vec 1 0 0) 5 6).hart (filled (vec 1 0 0) 5 6).hart 0 = (.int 5, false)
      && p.b (filled (vec 1 0 0) 5 6).hart (filled (vec 1 0 0) 5 6).hart 0 = (.int 6, false) && p.i = .vadd vaddF) = true := by decide

theorem wit_VectorElementValues_moves :
    (prepped (filled (vec 1 0 0) 5 6) (.vslideup vaddF)).any (fun p => p.slideBy ≤ p.col 0 && !p.f.to) = true
    ∧ (prepped (filled (vec 1 0 0) 5 6) (.vslidedn { vaddF with vs3 := 5 })).any (fun p => p.cols ≤ p.col 15 + p.slideBy || p.col 0 + p.slideBy < p.cols)
      = true
    ∧ (prepped (filled (vec 1 0 0) 5 6) (.vid { vaddF with imm := 0 })).any (fun p => isIntTag p.rt && p.f.fn % 4 = 0) = true := by decide

/-- A floating vl: register 2 has a float under an integer word. -/
theorem wit_VectorStops : (match prepWord (filled (vec 1 0 0) 5 6).hart (filled (vec 1 0 0) 5 6).loneBlock 0 (.vand vaddF)
      (fun n => if n = 2 then 10 else 5) with | .error t => t.code | .ok _ => 0) = 18
    ∧ isMatrixWord (.vand vaddF) = false ∧ decodes (filled (vec 1 0 0) 5 6) (.vand vaddF) = true := by decide

/-- VDIV of 5 by 0 in every element, with the trap of DZ enabled. -/
abbrev dzTrap (s : State) : State := { s with hart := { s.hart with vxtrap := 0xFF } }

theorem wit_VectorStops_division : ∃ p, (dzTrap (filled (vec 1 0 0) 5 0)).ready (.vdiv vaddF) p ∧ p.active (dzTrap (filled (vec 1 0 0) 5 0)) 0
    ∧ ∃ tr, elementOf p (dzTrap (filled (vec 1 0 0) 5 0)) 0 = .stop tr := by
  obtain ⟨p, h, c⟩ := ready_with (s := dzTrap (filled (vec 1 0 0) 5 0)) (i := .vdiv vaddF)
    (fun p => p.active (dzTrap (filled (vec 1 0 0) 5 0)) 0 && (match elementOf p (dzTrap (filled (vec 1 0 0) 5 0)) 0 with | .stop _ => true | _ => false))
    (by decide) (by decide) (by decide)
  simp only [Bool.and_eq_true] at c
  refine ⟨p, h, c.1, ?_⟩
  have := c.2
  split at this
  · exact ⟨_, ‹_›⟩
  · cases this

theorem wit_VectorStops_block : errOf (checkBlock 32 0 1 0 [] [0x0100000000000001, stopWord]) = some 0
    ∧ errOf (checkBlock 32 0 1 0 [] [0x108608032E03A000]) = some 0 := by decide

theorem wit_MaskWords : (∃ p, (filled (vec 1 0 0) 5 6).ready (.vcmp vaddF) p ∧ true = true)
    ∧ (∃ p, (filled (vec 1 0 0) 5 6).ready (.mandn vaddF) p ∧ true = true) ∧ (∃ p, (filled (vec 1 0 0) 5 6).ready (.mfromp { vaddF with vs2 := 0 }) p ∧ true = true) :=
  ⟨ready_with (fun _ => true) (by decide) (by decide) (by decide), ready_with (fun _ => true) (by decide) (by decide) (by decide),
    ready_with (fun _ => true) (by decide) (by decide) (by decide)⟩

/-- A reduction of v2 from X(6); MPOPC of mask 0; VEXT of element 15. -/
abbrev redF : Fields := ⟨false, 0, 2, 0, 6, 0, false, 0, 0⟩

theorem wit_ScalarResults :
    (∃ p, (filled (vec 1 0 0) 5 6).ready (.vredmax redF) p
      ∧ (!(p.actives (filled (vec 1 0 0) 5 6)).isEmpty
        && (p.actives (filled (vec 1 0 0) 5 6)).all (fun e => !(filled (vec 1 0 0) 5 6).hart.poisonBit p.f.vs1.toNat e)) = true)
    ∧ (∃ p, (filled (vec 1 0 0) 5 6).ready (.vredsum redF) p ∧ true = true)
    ∧ (∃ p, (filled (vec 1 0 0) 5 6).ready (.vredand redF) p ∧ true = true)
    ∧ (∃ p, (filled (vec 1 0 0) 5 6).ready (.vext { redF with vs3 := 7, imm := 15 }) p ∧ p.active (filled (vec 1 0 0) 5 6) p.f.fn = true)
    ∧ (∃ p, (filled (vec 1 0 0) 5 6).ready (.vext { redF with vs3 := 7, imm := 16 }) p ∧ decide (p.total ≤ p.f.fn) = true)
    ∧ (∃ p, (filled (vec 1 0 0) 5 6).ready (.mpopc { redF with vs1 := 0 }) p ∧ true = true)
    ∧ (∃ p, (filled (vec 1 0 0) 5 6).ready (.mfirst { redF with vs1 := 0 }) p ∧ true = true) :=
  ⟨ready_with _ (by decide) (by decide) (by decide), ready_with _ (by decide) (by decide) (by decide), ready_with _ (by decide) (by decide) (by decide),
    ready_with _ (by decide) (by decide) (by decide), ready_with _ (by decide) (by decide) (by decide), ready_with _ (by decide) (by decide) (by decide),
    ready_with _ (by decide) (by decide) (by decide)⟩

/-- An element below vstart is not active. -/
theorem wit_ScalarResults_inactive : (let s : State := { filled (vec 1 0 0) 5 6 with hart := { (filled (vec 1 0 0) 5 6).hart with vstart := 3 } }
    ∃ p, s.ready (.vext { redF with vs3 := 7, imm := 1 }) p ∧ (decide (p.f.fn < p.total) && !p.active s p.f.fn) = true) :=
  ready_with _ (by decide) (by decide) (by decide)

/-- VLD and VST of 32-bit words at X(5). -/
abbrev memF : Fields := ⟨false, 2, 0, 0, 5, 0, false, 0, 0x5000⟩
abbrev stF : Fields := ⟨false, 0, 2, 0, 5, 0, false, 0, 0x5000⟩
/-- VAMO add of v2 at X(5) + v3. -/
abbrev amoF : Fields := ⟨false, 1, 2, 3, 5, 0, false, 0, 0x5000⟩

/-- Every active element of the word reaches memory at X(5) + 4 e. -/
def reachesAt (s u : State) (k : Kind) (pa : Nat → Nat) (p : Prep) : Bool :=
  (p.actives s).all (fun e => memAt (u.target u.ctx k (p.addr s.hart s.hart e) p.size) = some (pa e, false))

theorem reachesAt_iff {s u : State} {k : Kind} {pa : Nat → Nat} {p : Prep} (h : reachesAt s u k pa p = true) :
    ∀ e ∈ p.actives s, ∃ h, u.target u.ctx k (p.addr s.hart s.hart e) p.size = .ok (.mem (pa e) h) := by
  intro e he
  exact ⟨false, memAt_eq (by simpa using List.all_eq_true.mp h e he)⟩

/-- The machine the memory tests run in. -/
abbrev vm : State := filled (vec 0x3FC0 0 0) 5 6

theorem wit_VectorMemory :
    (∃ p, vm.ready (.vld memF) p ∧ ∀ e ∈ p.actives vm, ∃ h, (p.released vm).target (p.released vm).ctx .load (p.addr vm.hart vm.hart e) p.size
        = .ok (.mem (0x3FC0 + 4 * e) h))
    ∧ (∃ p, vm.ready (.vst stF) p ∧ (∀ e ∈ p.actives vm, ∃ h, (p.released vm).target (p.released vm).ctx .store (p.addr vm.hart vm.hart e) p.size
        = .ok (.mem (0x3FC0 + 4 * e) h))
      ∧ (p.actives vm).all (fun e => !vm.hart.poisonBit p.f.vs1.toNat e && !p.indexPoison vm.hart vm.hart e) = true
      ∧ (p.attached vm).hpage = false) := by
  constructor
  · obtain ⟨p, h, c⟩ := ready_with (s := vm) (i := .vld memF) (fun p => reachesAt vm (p.released vm) .load (fun e => 0x3FC0 + 4 * e) p)
      (by decide) (by decide) (by decide)
    exact ⟨p, h, reachesAt_iff c⟩
  · obtain ⟨p, h, c⟩ := ready_with (s := vm) (i := .vst stF) (fun p => reachesAt vm (p.released vm) .store (fun e => 0x3FC0 + 4 * e) p
        && (p.actives vm).all (fun e => !vm.hart.poisonBit p.f.vs1.toNat e && !p.indexPoison vm.hart vm.hart e) && !(p.attached vm).hpage) (by decide) (by decide) (by decide)
    obtain ⟨c, k⟩ := (Bool.and_eq_true _ _).mp c
    simp only [Bool.and_eq_true (reachesAt _ _ _ _ _)] at c
    exact ⟨p, h, reachesAt_iff c.1, c.2, by simpa using k⟩

/-- A store of four-bit elements while the hart's own write to the byte is under way. -/
theorem wit_VectorMemory_half :
    let s : State := { vm with mem := [(0x3FC0, 1)], pend := [pending (.hart 0) .device 0x3FC0], hart := { vm.hart with vtag := [(2, 17)] } }
    ∃ p, s.ready (.vst { stF with imm := 0x11000 }) p ∧ decide (tagBits p.f.etag = 4) = true :=
  ready_with _ (by decide) (by decide) (by decide)

/-- The indices of every element are 0: all act on one location. -/
abbrev va : State := filled (vec 0x3FFC 0 0) 5 0

theorem wit_VectorAtomics : va.hart.level = .m ∧ (∀ i ∈ [Instr.vamo amoF, .vamocas amoF], ∃ p, va.ready i p
    ∧ (∀ e ∈ p.actives va, ∃ h, va.target va.ctx .store (p.addr va.hart va.hart e) p.size = .ok (.mem 0x3FFC h))
    ∧ (p.actives va).all (fun e => va.homePerforms 0x3FFC true && !va.poisoned 0x3FFC && !va.hart.poisonBit p.f.vs1.toNat e
      && !va.hart.poisonBit 1 e && !p.indexPoison va.hart va.hart e) = true) := by
  refine ⟨by decide, ?_⟩
  intro i hi
  have : ∃ p, va.ready i p ∧ (reachesAt va va .store (fun _ => 0x3FFC) p && (p.actives va).all (fun e => va.homePerforms 0x3FFC true
      && !va.poisoned 0x3FFC && !va.hart.poisonBit p.f.vs1.toNat e && !va.hart.poisonBit 1 e && !p.indexPoison va.hart va.hart e)) = true := by
    simp only [List.mem_cons, List.not_mem_nil, or_false] at hi
    rcases hi with rfl | rfl <;> exact ready_with _ (by decide) (by decide) (by decide)
  obtain ⟨p, h, c⟩ := this
  simp only [Bool.and_eq_true (reachesAt _ _ _ _ _)] at c
  exact ⟨p, h, reachesAt_iff c.1, c.2⟩

/-- Registers 2 and 3 hold bytes. -/
abbrev bytesAt (s : State) : State := { s with hart := { s.hart with vtag := [(1, 5), (2, 1), (3, 1)], vl := 4, rows := 1 } }

theorem wit_DeprecatedWords : (∃ p, (bytesAt vm).ready (.vdot8 { vaddF with imm := 0 }) p ∧ true = true)
    ∧ (∃ p, (bytesAt vm).ready (.xmuls { vaddF with imm := 0x3F }) p ∧ true = true)
    ∧ bitSet (bytesAt vm).hart.mseq 63 = false ∧ (bytesAt vm).hart.start = 0 :=
  ⟨ready_with _ (by decide) (by decide) (by decide), ready_with _ (by decide) (by decide) (by decide), by decide, by decide⟩

/-! ### Matrix words, tiles, slots -/

/-- A hart with row channels and 8-bit operands; slot 8 holds 8-bit elements. -/
abbrev mat (v : Nat) : State :=
  { vec 1 0 0 with
    hart := { (vec 1 0 0).hart with mgrant := 64, vtag := [(2, 1), (3, 1)], v := [(2, v), (3, v)], rows := 2, vl := 2 }
    clusters := [(0, { Cluster.reset with slots := [(8, { WSlot.empty with state := .ready, tag := 1 })] })] }

theorem matrix_ready {s : State} {i : Instr} {f : Fields} (t : Option SlotTake) (q : quiet s = true) (r : s.hart.run = .running) (m : isMatrixWord i = true)
    (b : (blockParts i).map (·.2) = some f) (d : decodes s i = true) (l : (⟨i, f, s.hart, none, []⟩ : MPrep).issueCheck s s.loneBlock = none)
    (k : match t with
      | some t => (⟨i, f, s.hart, none, []⟩ : MPrep).mopk = true ∧ s.slotView f.w = .ready t ∧ (⟨i, f, s.hart, none, []⟩ : MPrep).pairOk t.tag = true
      | none => (⟨i, f, s.hart, none, []⟩ : MPrep).mopk = false) : s.matrixReadyFor i f t := by
  simp only [quiet, Bool.and_eq_true, decide_eq_true_eq, Bool.not_eq_true'] at q
  obtain ⟨⟨⟨⟨⟨q1, q2⟩, q3⟩, q4⟩, q7, q8, q9⟩, q5, q6⟩ := q
  exact ⟨⟨q1, q2, q3, q4, q7, q8, q9⟩, ⟨q5, q6, r⟩, ⟨m, b, decodes_iff d⟩, l, k⟩

/-- MRANK z0, column 1 of v2 by row 1 of v3, every column block. -/
abbrev rankF : Fields := ⟨false, 0, 2, 3, 0, 0, false, 0, 0x0004FF⟩
/-- MOPK z0 of v2 with slot 8. -/
abbrev mopkF : Fields := ⟨false, 0, 2, 0, 0, 0, false, 0, 0x0020FF⟩

theorem wit_MatrixWords_repairs : (mat 0x01010101).takeRepairs none = false ∧ (mat 0x01010101).takeRepairs (some ⟨8, 1, 0⟩) = false := by decide

theorem wit_MatrixWords : ((mat 0x01010101).matrixReadyFor (.mrank rankF) rankF none ∧ (mat 0x01010101).hart.nrows ≤ 64)
    ∧ (let p : MPrep := ⟨.mrank rankF, rankF, (mat 0x01010101).hart, none, []⟩
       p.idle = false ∧ p.rankPoison = false ∧ ∀ r ∈ p.rows, p.rowState (mat 0x01010101).cluster r = .go)
    ∧ (mat 0x01010101).matrixReadyFor (.mopk mopkF) mopkF (some ⟨8, 1, 0⟩)
    ∧ (mat 0).matrixReadyFor (.mrank { rankF with imm := 0x000400 }) { rankF with imm := 0x000400 } none
    ∧ (⟨.mrank { rankF with imm := 0x000400 }, { rankF with imm := 0x000400 }, (mat 0).hart, none, []⟩ : MPrep).idle = true
    ∧ (⟨.mrank { rankF with imm := 0x0008FF }, { rankF with imm := 0x0008FF }, (mat 0).hart, none, []⟩ : MPrep).issueCheck (mat 0) (mat 0).loneBlock
        = some ⟨24, 0x20002⟩ :=
  ⟨⟨matrix_ready none (by decide) (by decide) (by decide) (by decide) (by decide) (by decide) (by decide), by decide⟩, by decide,
    matrix_ready (some ⟨8, 1, 0⟩) (by decide) (by decide) (by decide) (by decide) (by decide) (by decide) (by decide),
    matrix_ready none (by decide) (by decide) (by decide) (by decide) (by decide) (by decide) (by decide), by decide, by decide⟩

/-- 10 R232 with 06 R141: 1 · 1 into a clear accumulator of bytes. -/
theorem test_mrank : (match exec (.mrank rankF) (mat 0x01010101) with
    | .next t => (t.core.acc (zKey 0 0 0), t.core.acc (zKey 0 1 1), t.core.acc (zKey 0 2 0)) | _ => (0, 0, 0)) = (1, 1, 0) := by decide

/-- The tiles are another ASID's. -/
theorem wit_ChannelsAndTiles : (adm 0x0E0000000000 0 0).hart.run = .running ∧ (adm 0 0 0).tilesOk = true ∧ (adm 0 0 0).coreBusy = false
    ∧ ((adm 0x0E0000000000 0 0).x 5).toNat % 256 = 0 ∧ ((adm 8 0 0).x 5).toNat % 256 ≠ 0 ∧ ({ atU (adm 0 0 0) with hart := { (atU (adm 0 0 0)).hart with asid := 1 } } : State).tilesOk = false := by decide

/-- Die 0's Arcade can be read and written at M. -/
theorem arcade_target (s : State) (c : Ctx) (k : Kind) (o n : Nat) (ha : o % n = 0) (hn : 0 < n) (h : o + n ≤ 2 ^ 20) (hd : 64 % n = 0)
    (lv : c.level = .m) (m : s.moving = []) (a : s.admitted 0 = true) :
    s.target c k (0x0E0000000000 + BitVec.ofNat 64 o) n = .ok (.mem (0x0E0000000000 + o) false) := by
  have e : (0x0E0000000000 + BitVec.ofNat 64 o).toNat = 0x0E0000000000 + o := by
    rw [BitVec.toNat_add, BitVec.toNat_ofNat, Nat.mod_eq_of_lt (by omega : o < 2 ^ 64)]
    show (15393162788864 + o) % 2 ^ 64 = _
    omega
  have d0 : (0x0E0000000000 + o - 0x0E0000000000) / 2 ^ 32 = 0 := by omega
  have om : (0x0E0000000000 + o) % 2 ^ 32 = o := by omega
  have al : (0x0E0000000000 + o) % n = 0 := by
    have : 0x0E0000000000 % n = 0 := Nat.mod_eq_zero_of_dvd (Nat.dvd_trans (Nat.dvd_of_mod_eq_zero hd) (by decide))
    rw [Nat.add_mod, this, ha]; exact Nat.zero_mod n
  have x : s.translate c k (0x0E0000000000 + BitVec.ofNat 64 o) = .ok ⟨0x0E0000000000 + o, false⟩ := by
    have w : inWindowArea (0x0E0000000000 + o) = false := by simp only [inWindowArea, Bool.and_eq_false_iff, decide_eq_false_iff_not]; omega
    have cp : canonPa c (0x0E0000000000 + o) = 0x0E0000000000 + o := by
      unfold canonPa canonAt; rw [if_neg (by omega)]
    simp only [State.translate, e, w, lv, cp]
    simp (disch := omega) only [Bool.false_eq_true, if_false, true_or, if_true, if_pos]
  have r : s.responds (0x0E0000000000 + o) = true := by
    have ok : aliasOk o = true := by simp only [aliasOk, Bool.or_eq_true, decide_eq_true_eq]; omega
    have b1 : ¬0x0E0000000000 + o < Config.hbmBytes := by simp only [Config.hbmBytes]; omega
    have b2 : ¬(0x040000000000 ≤ 0x0E0000000000 + o ∧ 0x0E0000000000 + o < 0x040000000000 + Config.tier2Bytes) := by
      simp only [Config.tier2Bytes]; omega
    have b3 : ¬inCxlRange (0x0E0000000000 + o) = true := by simp only [inCxlRange, Bool.and_eq_true, decide_eq_true_eq]; omega
    have b4 : 0x0E0000000000 ≤ 0x0E0000000000 + o ∧ 0x0E0000000000 + o < 0x0E0800000000 := by omega
    unfold State.responds
    rw [if_neg b1, if_neg b2, if_neg b3, if_pos b4, d0, om, a, ok]; rfl
  have q : s.inStrip (0x0E0000000000 + o) n = false := by
    unfold State.inStrip
    simp only [om]
    rw [if_pos (by omega), if_neg (by omega)]
  have nm : mmioOf (0x0E0000000000 + o) = none := by unfold mmioOf; rw [if_neg (by omega)]
  have f : s.forward (0x0E0000000000 + o) = 0x0E0000000000 + o := by simp [State.forward, m]
  have pf : s.portFails (0x0E0000000000 + o) = false := by
    have b : ¬0x100000000000 ≤ 0x0E0000000000 + o := by omega
    have c : inCxlRange (0x0E0000000000 + o) = false := by simp only [inCxlRange, Bool.and_eq_false_iff, decide_eq_false_iff_not]; omega
    unfold State.portFails
    split <;> simp only [b, c, decide_false, Bool.and_false, Bool.false_and, Bool.or_false]
  unfold State.target
  rw [e, if_neg (by omega), x]
  simp only [State.targetAt, nm, f, State.reaches, r, q, pf]
  rfl

/-- A line of it. -/
theorem arcade_line (s : State) (k : Kind) (i : Nat) (h : i < 4096) (l : s.hart.level = .m) (m : s.moving = []) (a : s.admitted 0 = true) :
    s.target s.ctx k (0x0E0000000000 + BitVec.ofNat 64 (64 * i)) 64 = .ok (.mem (0x0E0000000000 + 64 * i) false) :=
  arcade_target s s.ctx k (64 * i) 64 (by omega) (by decide) (by omega) (by decide) l m a

theorem arcade_next (i : Nat) : (0x0E0000000000 + BitVec.ofNat 64 (64 * i) : Word) + 64 = 0x0E0000000000 + BitVec.ofNat 64 (64 * (i + 1)) := by
  rw [Nat.mul_add, BitVec.ofNat_add, BitVec.add_assoc]; rfl

theorem arcade_load (s : State) (l : s.hart.level = .m) (m : s.moving = []) (a : s.admitted 0 = true) (p : s.poison = []) :
    ∀ n i, i + n ≤ 4096 → s.loadLines s.ctx n (0x0E0000000000 + BitVec.ofNat 64 (64 * i)) = none
  | 0, _, _ => rfl
  | n + 1, i, h => by
    unfold State.loadLines
    rw [arcade_line s .load i (by omega) l m a, arcade_next]
    simp only [State.poisoned, p]
    exact arcade_load s l m a p n (i + 1) (by omega)

theorem arcade_store : ∀ n i (s : State) (bs : List Byte), s.hart.level = .m → s.moving = [] → s.admitted 0 = true → i + n ≤ 4096 →
    ∃ u, s.storeLines n (0x0E0000000000 + BitVec.ofNat 64 (64 * i)) bs = (u, none)
  | 0, _, s, _, _, _, _, _ => ⟨s, rfl⟩
  | n + 1, i, s, bs, l, m, a, h => by
    unfold State.storeLines
    rw [arcade_line s .store i (by omega) l m a, arcade_next]
    exact arcade_store n (i + 1) _ _ (by simpa using l) (by simpa using m) (by simpa using a) (by omega)

theorem wit_ChannelsAndTiles_images : (∃ u, (adm 0x0E0000000000 0 0).storeLines 2884 ((adm 0x0E0000000000 0 0).x 5) (adm 0x0E0000000000 0 0).core.image = (u, none))
    ∧ (adm 0x0E0000000000 0 0).loadLines (adm 0x0E0000000000 0 0).ctx 2884 ((adm 0x0E0000000000 0 0).x 5) = none :=
  ⟨arcade_store 2884 0 _ _ (by decide) (by decide) (by decide) (by decide), arcade_load _ (by decide) (by decide) (by decide) (by decide) 2884 0 (by decide)⟩

/-- Memory that holds dwords at rising addresses. -/
def cells (l : List (Nat × Nat)) : List Host.Cell :=
  l.flatMap (fun p => ((leBytes 8 p.2).zipIdx.map (fun q => (p.1 + q.2, q.1))).filter (fun q => q.2 ≠ 0))

theorem wit_AdapterInvalidation : ¬(bitSet ((adm 0 0 0).x 6) 11 ∧ (adm 0 0 0).hart.level = .u)
    ∧ (bitSet ((atU (adm 0 0x800 0)).x 6) 11 ∧ (atU (adm 0 0x800 0)).hart.level = .u)
    ∧ (withRun (adm 0 0 0) (.waiting (.adinv 5 6 .system))).hart.run = .waiting (.adinv 5 6 .system) := by decide

/-- X(5) points to a descriptor of 8-bit elements; X(6) names slot 511 and a kind. -/
abbrev wl (kind tag : Nat) : State := { adm 0x100 (word (511 + kind * 1024)) 0 with mem := cells [(0x100, 0x1000), (0x108, tag * 2 ^ 32)] }

theorem wit_WeightSlotRequests : (wl 0 1).hart.run = .running ∧ bits ((wl 0 1).x 6) 10 2 = 0 ∧ (wl 0 1).cluster.queued < 8
    ∧ okOf ((wl 0 1).loadDwords (wl 0 1).ctx .hart ((wl 0 1).x 5) 4) = some [0x1000, 2 ^ 32, 0, 0] ∧ (WDesc.of [0x1000, 2 ^ 32, 0, 0]).bad 511 = false
    ∧ (WDesc.of [0x1000, 18 * 2 ^ 32, 0, 0]).bad 511 = true ∧ is16 1 = false ∧ (WDesc.of [0x1000, 8 * 2 ^ 32, 0, 0]).bad 510 = false ∧ is16 8 = true
    ∧ (wl 0 1).slotDenied 511 = false ∧ (wl 0 1).cluster.macroRetired.contains (511 / 8) = false
    ∧ bits ((wl 1 1).x 6) 10 2 = 1 ∧ bits ((wl 2 1).x 6) 10 2 = 2 ∧ (wl 2 1).hart.level ≠ .u ∧ bits ((wl 3 1).x 6) 10 2 = 3 := by
  decide

/-- Slot 511 belongs to ASID 1. -/
theorem wit_WeightSlotRequests_denied :
    ({ atU (wl 0 1) with clusters := [(0, { Cluster.reset with slots := [(511, { WSlot.empty with state := .ready, asid := 1 })] })] } : State).slotDenied 511
      = true := by decide

/-- A request of each kind. -/
abbrev wreq (kind s : Nat) (applied : Bool) : WloadReq := ⟨kind, s, 0, 1, 0, 0x0E0000000000, 64, false, 0, 0, .m, 0, applied, 0, none⟩

/-- Its macro is retired; a second slot of a 16-bit load. -/
theorem wit_WeightSlotRequests_retired :
    ({ wl 0 1 with clusters := [(0, { Cluster.reset with macroRetired := [63] })] } : State).cluster.macroRetired.contains (511 / 8) = true
    ∧ (wl 0 1).slotDenied (510 + 1) = false ∧ (wl 1 1).mayBegin 0 [] (wreq 1 511 false) = true := by
  refine ⟨by decide, by decide, by decide +kernel⟩

abbrev inCluster (k : Cluster) : State := { adm 0 0 0 with clusters := [(0, k)] }
abbrev bfill : BFill := ⟨⟨0, 7, 0, .entry, 0, 0, 0, [], none, false, []⟩, 0, 0x1000, 0, .m, false⟩

theorem wit_ClusterEvents :
    (inCluster { Cluster.reset with wloads := [wreq 1 511 false] }).mayBegin 0 [] (wreq 1 511 false) = true
    ∧ [wreq 0 511 true].find? (fun q => q.applied) = some (wreq 0 511 true)
    ∧ ({ Cluster.reset with fills := [bfill] } : Cluster).fills.find? ({ Cluster.reset with fills := [bfill] } : Cluster).fillReady = some bfill
    ∧ ({ Die.reset with lasting := [macroKey 0 63] } : Die).lasting.contains (macroKey 0 63) = true ∧ Cluster.reset.macroRetired.contains 63 = false
    ∧ Tab.get 0 Cluster.reset.macroFail 63 / 1 % 2 = 0
    ∧ (({ Cluster.reset with slots := [(511, { WSlot.empty with state := .loading })] } : Cluster).slot 511).state = .loading := by
  refine ⟨by decide +kernel, by decide, by decide, by decide, by decide, by decide, by decide⟩

/-- An entry of Bunting at hand and the fill of one of its slices. -/
abbrev bentry : BItem := ⟨0, 7, 0, .entry, 0, 0, 0, [0, 0, 1, 0, 1, 1], none, false, []⟩
abbrev bslice : BFill := ⟨⟨0, 7, 0, .dslice, 0, 1, 0, [], none, false, []⟩, 0, 0x1000, 0, .m, false⟩

theorem wit_ClusterEvents_fills : let k : Cluster := { Cluster.reset with bunting := [bentry], fills := [bslice] }
    k.fills.find? k.fillReady = some bslice ∧ k.entryOf 0 7 0 = some bentry
    ∧ ({ Cluster.reset with fills := [{ bfill with dropped := true }] } : Cluster).fills.find?
        ({ Cluster.reset with fills := [{ bfill with dropped := true }] } : Cluster).fillReady = some { bfill with dropped := true }
    ∧ (inCluster { Cluster.reset with wloads := [wreq 0 511 false] }).mayBegin 0 [] (wreq 0 511 false) = true := by
  refine ⟨by decide, by decide, by decide, by decide +kernel⟩

/-- A load whose elements, or scales, lie where nothing responds. -/
theorem wit_ClusterEvents_faults :
    errOf ((inCluster Cluster.reset).fetchCells (ctxAt 0 (.hart 0) .m 0 0) { wreq 0 511 true with src := 0x0D0000000000 } (List.range 4096)) = some ⟨5, 0x0D0000000000⟩
    ∧ errOf ((inCluster Cluster.reset).fetchScales (ctxAt 0 (.hart 0) .m 0 0) { wreq 0 511 true with scl := true, scaddr := 0x0D0000000000 } (List.range 128))
        = some ⟨5, 0x0D0000000000⟩ := by decide +kernel

/-- A load whose fetch has been performed, with its cells or with its fault. -/
theorem wit_ClusterEvents_got : ∀ g, ([{ wreq 0 511 true with got := some g }] : List WloadReq).find? (fun q => q.applied)
    = some { wreq 0 511 true with got := some g } := fun _ => rfl

/-- Every row of the word that waited can be carried out. -/
theorem wit_ClusterEvents_rows :
    let s : State := { mat 0x01010101 with hart := { ((mat 0x01010101).inBlock (.mopk mopkF)).hart with run := .waiting (.slot mopkF.w) } }
    let q : MPrep := ⟨.mopk mopkF, mopkF, (mat 0x01010101).hart, some ⟨8, 1, 0⟩, []⟩
    s.hart.nrows ≤ 64 ∧ s.takeRepairs (some ⟨8, 1, 0⟩) = false
      ∧ ∀ r ∈ q.rows.filter (fun r => !(s.core.rv && s.core.zrdone.toNat.testBit r)), q.rowState s.cluster r = .go := by decide

theorem wit_ClusterEvents_ready : (mat 0x01010101).matrixReadyFor (.mopk mopkF) mopkF (some ⟨8, 1, 0⟩)
    ∧ (⟨.mopk mopkF, mopkF, (mat 0x01010101).hart, none, []⟩ : MPrep).idle = false
    ∧ (let s : State := { mat 0x01010101 with hart := { ((mat 0x01010101).inBlock (.mopk mopkF)).hart with run := .waiting (.slot mopkF.w) } }
       s.hart.run = .waiting (.slot mopkF.w) ∧ s.hart.block = ((mat 0x01010101).inBlock (.mopk mopkF)).hart.block ∧ s.matrixReady = true
       ∧ { s with hart := { s.hart with run := .running, block := none } } = mat 0x01010101)
    ∧ (adm 0 0 0).matrixReady = false :=
  ⟨wit_MatrixWords.2.2.1, by decide, by decide, by decide⟩

theorem wit_ClusterEvents_again : Tab.get 0 ({ Cluster.reset with macroFail := [(63, 1)] } : Cluster).macroFail 63 / 1 % 2 = 1
    ∧ ({ Cluster.reset with slots := [(511, { WSlot.empty with state := .loading })] } : Cluster).wloads.any
        (fun r => r.covers Cluster.reset 511) = false := by decide

/-- A crew of launch 1 whose member 0 runs in slot 0. -/
abbrev crew0 : Crew := ⟨1, 0x200, 0x200, 0, 0, 1, 1, 0, 0x300, 0x280, none, none, false, 0⟩
abbrev inCrew (s : State) (c : Crew) : State := { s with crews := [c], hart := { s.hart with tag := some (1, 0) } }

theorem wit_ChildrenAndMessages : (adm 0 0 0).ownCrew = none
    ∧ (inCrew (adm 0 0x100 0) crew0).ownCrew = some (crew0, 0)
    ∧ okOf ((inCrew (adm 0 0x100 0) crew0).loadDwords (inCrew (adm 0 0x100 0) crew0).ctx .hart 0x100 4) = some [0, 0, 0, 0]
    ∧ (adm 0 0 0).logicalCore (adm 0 0 0).ownMap 1536 = none ∧ (adm 0 0 0).logicalCore (adm 0 0 0).ownMap 191 = some 191
    ∧ (adm 0 0 0).childSlot 191 = none
    ∧ ({ adm 0 0 0 with others := [(383, { Hart.reset 1 with run := .empty })] } : State).childSlot 191 = some 383
    ∧ ((adm 0 0 0).coreAt 191).inbound.length < 16 ∧ (adm 0 0 0).coreNumber (adm 0 0 0).ownMap 0 = some 0
    ∧ 16 ≤ ({ Core.reset with inbound := List.replicate 16 ⟨0, []⟩ } : Core).inbound.length
    ∧ ((adm 0 0 0).hartAt (otherSlot 0)).run.recvSince = none ∧ (adm 0 0 0).checkDwords (adm 0 0 0).ctx [.store] 0x100 4 = none
    ∧ (withRun (adm 0x100 0 0) (.waiting (.recv 7 5 0))).recvFirst 0 = true := by
  decide

theorem wit_ChildrenAndMessages_timeout : ({ adm 0 0 0 with clk := 1024, hart := { (adm 0 0 0).hart with recvto := 1 } } : State).hart.recvto ≠ 0
    ∧ 0 + (1 : Word).toNat * 1024 ≤ 1024 := by decide

/-- A message has come for a hart that waits. -/
theorem wit_ChildrenAndMessages_wake :
    let s : State := { withRun (adm 0x100 0 0) (.waiting (.recv 7 5 0)) with cores := [(0, { Core.reset with inbound := [⟨1, []⟩] })] }
    s.core.inbound = [⟨1, []⟩] ∧ s.hart.run = .waiting (.recv 7 5 0) ∧ s.recvFirst 0 = true
    ∧ s.checkDwords s.ctx [.store] (s.x 5) 4 = none := by decide

/-- A child of core 0 waits for its slot; the ASID table lies at 0x1000. -/
abbrev spawned : State :=
  { inCrew (adm 0 0 0) crew0 with
    regs := { DeviceRegs.reset with asidtab := 0x1001 }, cores := [(0, { Core.reset with children := [⟨1, 0x400, [1, 2, 3, 0x200], 1, 3072⟩] })] }

theorem wit_ChildrenAndMessages_start : (spawned.coreAt 0).children.find? (spawned.childReady 0) = some ⟨1, 0x400, [1, 2, 3, 0x200], 1, 3072⟩
    ∧ spawned.crewOf 1 = some crew0 ∧ (spawned.asidEntry 0).isSome = true := by decide

/-- A panel of 64 by 64, its last column block left; a piece outstanding. -/
abbrev panel0 : Panel := ⟨0, 64, 0, 64, 0, 0, 0, 0⟩
abbrev holding (s : State) : State := { s with pieces := [⟨1, 0, 0x500000003, 16⟩] }

theorem wit_PanelsAndEnd : (inCrew (adm 0 0 0) crew0).ownCrew = some (crew0, 0)
    ∧ (inCrew (adm 0 0 0) crew0).hart.colWant = 0 ∧ (inCrew (vec 1 0 0) { crew0 with panel := some panel0 }).hart.colWant ≠ 0 ∧ crew0.panelAddr ≠ 0
    ∧ ((inCrew (vec 1 0 0) crew0).piecesOf 1 0).length < 8
    ∧ (okOf ((inCrew (vec 1 0 0) { crew0 with panel := some panel0 }).panelOf { crew0 with panel := some panel0 })).map (·.2) = some panel0
    ∧ (okOf ((inCrew (vec 1 0 0) crew0).panelOf crew0)).map (·.2) = some ⟨0, 0, 0, 0, 0, 0, 0, 0⟩
    ∧ (inCrew (adm 0 0 0) { crew0 with panel := some panel0 }).liveCrew 1 = some { crew0 with panel := some panel0 }
    ∧ ((holding (inCrew (adm 0 0 0) crew0)).piecesOf 1 0).find? (fun p => p.origin = 0x500000003) = some ⟨1, 0, 0x500000003, 16⟩
    ∧ (inCrew (adm 0 0 0) crew0).piecesOf 1 0 = [] ∧ (adm 0 0 0).drained 0 = true ∧ crew0.left ≤ 1 := by
  decide

theorem wit_PanelsAndEnd_stops : ({ crew0 with panelAddr := 0 } : Crew).panelAddr = 0 ∧ (inCrew (vec 1 0 0) { crew0 with panelAddr := 0 }).hart.colWant ≠ 0
    ∧ 8 ≤ (({ inCrew (adm 0 0 0) crew0 with pieces := List.replicate 8 ⟨1, 0, 3, 16⟩ } : State).piecesOf 1 0).length
    ∧ panel0.r < panel0.nrows ∧ ({ panel0 with r := 64 } : Panel).nrows ≤ ({ panel0 with r := 64 } : Panel).r
    ∧ (inCrew (adm 0 0 0) { crew0 with number := 2 }).liveCrew 1 = none
    ∧ ((inCrew (adm 0 0 0) crew0).piecesOf 1 0).find? (fun p => p.origin = 0) = none
    ∧ (holding (inCrew (adm 0 0 0) crew0)).piecesOf 1 0 = [⟨1, 0, 0x500000003, 16⟩] ∧ 1 < ({ crew0 with left := 2 } : Crew).left := by
  decide

/-- The completion word of the crew is reached before and after the hart's report. -/
theorem wit_PanelsAndEnd_word : let s := inCrew (adm 0 0 0) crew0
    let u := (s.withHart Hart.resume).release (.hart 0) .device
    let v := u.reportEnd (u.endCtx crew0) crew0 0 u.hart.reportFlags
    memAt (u.target (u.endCtx crew0) .store crew0.cword 8) = some (0x300, false)
    ∧ memAt ((v.acquire (.hart 0) .device).target (u.endCtx crew0) .store crew0.cword 8) = some (0x300, false)
    ∧ s.poisoned 0x300 = false ∧ s.homePerforms 0x300 false = true ∧ s.pend = [] := by decide

theorem wit_Pennants : pennantName 64 = none ∧ pennantName 63 = some (.cluster, 63) ∧ pennantName 511 = some (.die, 255) ∧ pennantName 512 = none
    ∧ ((adm 511 3072 0).pennant (.die, 255)).count = 0 ∧ ((adm 511 0 0).pennant (.die, 255)).gen.setWidth 64 = (adm 511 0 0).x 6
    ∧ ((adm 511 1 0).pennant (.die, 255)).gen.setWidth 64 ≠ (adm 511 1 0).x 6
    ∧ ((inCluster { Cluster.reset with pennants := [(63, ⟨1, 2, 0, 1⟩)] }).pennant (.cluster, 63)).count ≠ 0
    ∧ ((inCluster { Cluster.reset with pennants := [(63, ⟨1, 2, 0, 1⟩)] }).pennant (.cluster, 63)).asid ≠ (adm 0 0 0).hart.asid
    ∧ (withRun (adm 511 1 0) (.waiting (.pnwait 7 5 6))).hart.run = .waiting (.pnwait 7 5 6) := by decide

/-- A ring of 16 slots of 16 bytes at 0x400, its descriptor at 0x100; its payload at 0x300. -/
abbrev ringAt (head tail : Nat) (hdr : List (Nat × Nat)) : State :=
  { adm 0x100 0x300 0 with mem := cells ([(0x100, 0x400), (0x108, 4 + 16 * 2 ^ 32), (0x110, head + tail * 2 ^ 32)] ++ hdr) }
abbrev ring0 : Ring := ⟨0x400, 4, 16, 0x110⟩

theorem wit_Rings : okOf ((ringAt 0 0 []).ring (adm 0 0 0).ctx .device 0x100) = some ring0 ∧ (ringAt 0 1 []).ringIndices ring0 = (0, 1)
    ∧ (ringAt 0 1 []).hart.run = .running ∧ (ringAt 0 1 []).ringChecks (adm 0 0 0).ctx .load ring0 0x300 = none
    ∧ (ringAt 0 1 []).ringChecks (adm 0 0 0).ctx .store ring0 0x300 = none
    ∧ (2 ^ ring0.lg ≤ (16 - 0 : BitVec 32).toNat) ∧ ((15 - 0 : BitVec 32).toNat < 2 ^ ring0.lg) := by decide

theorem wit_Rings_headers :
    (((ringAt 0 0 [(0x400, 3)]).claim ring0 0 1).header (adm 0 0 0).ctx .device ((ringAt 0 0 [(0x400, 3)]).putSlot (adm 0 0 0).ctx ring0 0x300 0).hdr) = some 3 ∧ 3 % 4 = 3 - phase 4 0
    ∧ (((ringAt 0 1 []).claim ring0 1 1).header (adm 0 0 0).ctx .device ((ringAt 0 1 []).takenSlot (adm 0 0 0).ctx ring0 0x300 0).hdr) = some 0 ∧ 0 % 4 = phase 4 0 := by decide

theorem wit_Rings_waits :
    (withRun (ringAt 0 0 [(0x400, 3)]) (.waiting (.rput 7 .device ⟨4, 0, 0x400, [(0x300, 0x408)]⟩))).header (adm 0 0 0).ctx .device 0x400 = some 3
    ∧ (withRun (ringAt 0 1 []) (.waiting (.rtake 7 .device ⟨4, 0, 0x400, [(0x408, 0x300)]⟩))).header (adm 0 0 0).ctx .device 0x400 = some 0
    ∧ ((ringAt 0 1 [(0x400, 1)]).claim ring0 0 2).header (adm 0 0 0).ctx .device ((ringAt 0 1 []).putSlot (adm 0 0 0).ctx ring0 0x300 1).hdr = some 0
    ∧ 0 % 4 ≠ 3 - phase 4 1 := by decide

/-! ### Streams, transfers, contexts -/

/-- A descriptor at 0x100: 16 elements of 32 bits at 0x800, in the last 256 bytes of the Square's first 64 KiB. -/
abbrev desc (s : State) : State := { s with mem := cells [(0x100, 0x800), (0x108, 16 + 4 * 2 ^ 32), (0x110, 5 + 0xFF00 * 2 ^ 32), (0x118, 256)] }
abbrev descWords : List Nat := [0x800, 16 + 4 * 2 ^ 32, 5 + 0xFF00 * 2 ^ 32, 256]

theorem wit_StreamBinding : 15 < ((adm 0 16 0).x 6).toNat ∧ ((adm 0x100 15 0).x 6).toNat ≤ 15 ∧ (adm 0 0 0).undrained 0 15 = false ∧ (adm 0 0 0).x 5 = 0
    ∧ (adm 0x100 0 0).x 5 ≠ 0
    ∧ okOf ((desc (adm 0x100 0 0)).loadDwords (adm 0 0 0).ctx .hart 0x100 4) = some descWords
    ∧ descriptorReserved descWords = false ∧ ((adm 0 0 0).ofDescriptor descWords).refused [] = false
    ∧ descriptorReserved [0, 0, 512, 0] = true ∧ ((adm 0 0 0).ofDescriptor [0, 0, 0, 0]).refused [] = true
    ∧ ((adm 32 0 0).x 5).toNat % 64 ≠ 0 ∧ ((adm 64 0 0).x 5).toNat % 64 = 0 ∧ (adm 64 0 0).drained 0 = true := by decide

theorem wit_StreamBinding_save : ∃ u, (adm 64 0 0).storeImage (adm 64 0 0).ctx 64 ((adm 64 0 0).streamImage 0) = (u, none) := by
  refine ⟨((adm 64 0 0).storeImage (adm 64 0 0).ctx 64 ((adm 64 0 0).streamImage 0)).1, ?_⟩
  have : ((adm 64 0 0).storeImage (adm 64 0 0).ctx 64 ((adm 64 0 0).streamImage 0)).2 = none := by decide +kernel
  rw [← this]

theorem wit_StreamBinding_load : (okOf ((adm 64 0 0).loadDwords (adm 64 0 0).ctx .hart 64 64)) = some (List.replicate 64 0)
    ∧ (okOf ((adm 64 0 0).bindRecords (List.replicate 64 0) (List.range 16))).isSome = true := by
  decide +kernel

/-- Streams of hart 0: an input of 32-bit elements with values fetched, and an output with one element produced. -/
abbrev inS (fs : List Fetched) (issued : Nat) : Stream := ⟨true, false, false, 5, 0x800, 16, 4, 0, 0, 256, 0, 0, .m, fs, issued, true, []⟩
abbrev outS : Stream := ⟨true, true, false, 5, 0x800, 16, 0, 0, 0, 256, 0, 0, .m, [], 0, false, [⟨3, 9, false⟩]⟩
abbrev streaming (t : Stream) : State := { filled (vec 1 0 0) 5 6 with hart := { (filled (vec 1 0 0) 5 6).hart with streams := [(15, t)] } }
abbrev someFetched : List Fetched := (List.range 16).map (fun k => Fetched.value k false)

theorem wit_Streams : (streaming (inS someFetched 0)).streamChecks (.vldq 1 15) 1 15 false = none
    ∧ someFetched = ((List.range 16).map (fun k => (k, false))).map (fun x => Fetched.value x.1 x.2) ++ []
    ∧ ((List.range 16).map (fun k => (k, false))).length = min ((streaming (inS someFetched 0)).hart.total - 0) (16 - 0)
    ∧ (streaming (inS [] 0)).streamChecks (.vldq 1 15) 1 15 false = none ∧ 0 < min ((streaming (inS [] 0)).hart.total - 0) (16 - 0)
    ∧ (streaming outS).streamChecks (.vstq 2 15) 2 15 true = none ∧ outS.produced.length + min ((streaming outS).hart.total - 0) (16 - 0) ≤ outS.cap
    ∧ memAt ((streaming outS).target (outS.ctx 0) .store (outS.at 15) outS.size) = some (0x800, false)
    ∧ (streaming outS).streamChecks (.vldq 1 15) 1 15 false = some ⟨31, 15⟩
    ∧ (streaming (inS [] 0)).streamChecks (.vstq 1 15) 1 15 true = some ⟨31, 15⟩ := by decide

theorem wit_Streams_controller : ((streaming (inS [] 3)).stream 0 15 = inS [] 3) ∧ (inS [] 3).resume = true ∧ (inS [] 3).issued ≠ 0
    ∧ outS.produced[(streaming outS).nextWrite 0 outS]? = some ⟨3, 9, false⟩
    ∧ memAt ((streaming outS).target (outS.ctx 0) .store (outS.at 3) outS.size) = some (0x800, false)
    ∧ (adm 0 0 0).undrained 0 15 = false ∧ (withRun (adm 0 0 0) (.waiting (.drained .endHart))).hart.run = .waiting (.drained .endHart) := by decide

/-- The next element faulted, and faults when it is fetched again; nothing maps the next element of an output; two elements of one location. -/
abbrev lostS : Stream := { outS with base := 0xFFFFFFFFFFFFFFFF }
abbrev twiceS : Stream := { outS with produced := [⟨3, 9, false⟩, ⟨4, 8, false⟩] }

theorem wit_Streams_faults : (streaming (inS [.faulted 13 0x800] 0)).streamChecks (.vldq 1 15) 1 15 false = none
    ∧ (streaming (inS [.again false] 0)).streamChecks (.vldq 1 15) 1 15 false = none
    ∧ (streaming lostS).streamChecks (.vstq 2 15) 2 15 true = none
    ∧ errOf ((streaming lostS).translate (lostS.ctx 0) .store (lostS.at 0)) = some ⟨7, 0xFFFFFFFFFFFFFFFF⟩
    ∧ (∀ j, j < 16 → ((streaming outS).translate (outS.ctx 0) .store (outS.at j)).isOk = true)
    ∧ (streaming twiceS).sharesByte 0 twiceS ⟨3, 9, false⟩ ⟨4, 8, false⟩ = true ∧ (streaming twiceS).nextWrite 0 twiceS = 0
    ∧ (streaming outS).blocksPoison 0x800 = false := by decide

/-- Hart 0 has an output stream that is not drained (PanelsAndEnd, EmulationAndContexts). -/
theorem wit_Streams_undrained : (streaming outS).drained 0 = false ∧ ((streaming outS).stream 0 15).bound = true := by decide

/-- A block at 0x100 for engine `e`: `n` bytes from 0x800 to 0x1000, mailbox at 0x2000. -/
abbrev block (e n : Nat) : List (Nat × Nat) := [(0x100, 0x800), (0x108, 0x1000), (0x110, n + 2 ^ 32), (0x120, 7 + e * 2 ^ 32), (0x130, 0x2000)]
abbrev blockWords (e n : Nat) : List Nat := [0x800, 0x1000, n + 2 ^ 32, 0, 7 + e * 2 ^ 32, 0, 0x2000, 0]
abbrev kick (e n : Nat) : State := { adm 0x100 0 0 with mem := cells (block e n) }
abbrev big : List Nat := [0x40000000, 0x80000000, 2 ^ 30 + 2 ^ 32, 0, 7 + 2 * 2 ^ 32, 0, 0x2000, 0]
abbrev small : List Nat := [0x40000000, 0x80000000, 4096 + 2 ^ 32, 0, 7 + 2 * 2 ^ 32, 0, 0x2000, 0]

theorem wit_Transfers : ((kick 0 64).x 5).toNat % 64 = 0 ∧ ((adm 32 0 0).x 5).toNat % 64 ≠ 0
    ∧ okOf ((kick 0 64).loadDwords (kick 0 64).ctx .hart 0x100 8) = some (blockWords 0 64)
    ∧ ((adm 0 0 0).ofBlock (blockWords 0 64)).refused (blockWords 0 64) = false ∧ ((adm 0 0 0).ofBlock (blockWords 3 64)).refused (blockWords 3 64) = true
    ∧ ((adm 0 0 0).ofBlock big).refused big = false ∧ ((adm 0 0 0).ofBlock big).eng = 2 ∧ ((adm 0 0 0).ofBlock big).len = 2 ^ 30
    ∧ (adm 0 0 0).cluster.queued < 8 ∧ ((adm 0 0 0).ofBlock (blockWords 1 64)).refused (blockWords 1 64) = false ∧ (adm 0 0 0).edgeChoice 0 = some 0
    ∧ ((adm 0 0 0).ofBlock small).refused small = false ∧ ((adm 0 0 0).ofBlock small).len ≠ 2 ^ 30 := by
  decide

/-- A copy of hart 0 in cluster 191's queue. -/
abbrev copy0 (e len written : Nat) (ended : Option Nat) : Transfer :=
  { src := 0x800, dst := 0x1000, len := len, nrows := 1, sstride := 0, dstride := 0, xid := 7, eng := e, int := true, handler := 0, mbox := 0x2000,
    asid := 0, ptbase := 0, level := .m, hart := 0, written := written, poisoned := false, ended := ended, faddr := 0, tag := none, stay := 1, page := none }
abbrev copying (t : Transfer) : State := { adm 0 0 0 with clusters := [(191, { Cluster.reset with copies := [t] })] }

theorem wit_Transfers_engines : (copying (copy0 0 100 64 none)).engineQueue (.ctl 191) = [copy0 0 100 64 none]
    ∧ (∀ i, i < min 64 (100 - 64 % 100) →
        ((copying (copy0 0 100 64 none)).copyByte ((copy0 0 100 64 none).ctx (engineAgent (.ctl 191))) (0x840 + word i)).isSome = true
          ∧ memAt ((copying (copy0 0 100 64 none)).target ((copy0 0 100 64 none).ctx (engineAgent (.ctl 191))) .store (0x1040 + word i) 1)
              = some (0x1040 + i, false))
    ∧ (copying (copy0 0 100 64 none)).blockedByte ((copy0 0 100 64 none).ctx (engineAgent (.ctl 191))) 0x1040
        ((List.range 36).map (fun i => ((copying (copy0 0 100 64 none)).copyByte ((copy0 0 100 64 none).ctx (engineAgent (.ctl 191)))
          (0x840 + word i)).getD (0, false))) = none
    ∧ ((copying (copy0 0 100 64 none)).copyByte ((copy0 0 100 64 none).ctx (engineAgent (.ctl 191))) 0x0D0000000000).isSome = false
    ∧ (copying (copy0 0 100 64 none)).copyOk ((copy0 0 100 64 none).ctx (engineAgent (.ctl 191))) 0x0D0000000000 = false := by decide +kernel

theorem wit_Transfers_completion :
    memAt ((copying (copy0 0 100 100 (some 0))).target ((copy0 0 100 100 (some 0)).ctx (engineAgent (.ctl 191))) .store 0x2000 8) = some (0x2000, false)
    ∧ (0x2000 : Word).toNat % 32 = 0 ∧ (copying (copy0 0 100 100 (some 0))).isIssuer (copy0 0 100 100 (some 0)) 0 = true
    ∧ ((copying (copy0 0 100 100 (some 0))).coreAt 0).uqueue.length < 16
    ∧ 16 ≤ ({ Core.reset with uqueue := List.replicate 16 ⟨0, 7, 0, 0x2000, 0⟩ } : Core).uqueue.length := by decide +kernel

/-- The eight queues of die 0's edge engines are full, and so is cluster 0's. -/
abbrev crowded : State :=
  { adm 0 0 0 with
    dies := [(0, { Die.reset with st := 5, edge := (List.range 8).map (fun e => (e, List.replicate 16 (copy0 1 100 0 none))) })]
    clusters := [(0, { Cluster.reset with copies := List.replicate 8 (copy0 0 100 0 none) })] }

theorem wit_Transfers_full : crowded.edgeChoice 0 = none ∧ 8 ≤ crowded.cluster.queued
    ∧ (withRun crowded (.waiting (.skick 7 (copy0 1 100 0 none) 512 1))).hart.run = .waiting (.skick 7 (copy0 1 100 0 none) 512 1)
    ∧ crowded.clk < 1 := by decide +kernel

/-- A migration of the page at 0x3000, whose tables lie from 0x4000 on, from 0x1000 to 0x2000. -/
abbrev mig (written : Nat) (page : Option Migration) : Transfer :=
  { copy0 2 4096 written none with src := 0x3000, dst := 0x2000, ptbase := 0x4000, page := page }
abbrev migrating (t : Transfer) (pend : List PendWrite) : State :=
  { adm 0 0 0 with
    dies := [(0, { Die.reset with st := 5, edge := [(7, [t])] })]
    mem := cells [(0x4000, 0x5001), (0x5000, 0x6001), (0x6000, 0x7001), (0x7018, 0x104D)], pend := pend }

theorem wit_Transfers_migration : (migrating (mig 0 none) []).engineQueue (.edge 0 7) = [mig 0 none]
    ∧ (migrating (mig 0 none) []).migrationPage (.edge 0 7) (mig 0 none) = some ⟨0x1000, 0x7018, 1, 0, false⟩
    ∧ (adm 0 0 0).migrationPage (.edge 0 7) (mig 0 none) = none
    ∧ (migrating (mig 4032 none) []).performedFrom (List.range 8) 0 = true
    ∧ (migrating (mig 0 none) [pending (.hart 0) .device 0x40]).performedFrom (List.range 8) 0 = false
    ∧ (mig 4032 none).written < (mig 4032 none).len ∧ (mig 4096 none).len ≤ (mig 4096 none).written
    ∧ (migrating (mig 0 none) []).reaches (0x1000 + 4032) 64 = true ∧ (migrating (mig 0 none) []).reaches (0x2000 + 4032) 64 = true
    ∧ (migrating (mig 4096 none) []).reaches ((migrating (mig 4096 none) []).forward 0x7018) 8 = true
    ∧ (adm 0 0 0).reaches ((adm 0 0 0).forward 0x040000003000) 8 = false
    ∧ (sick (migrating (mig 0 none) [])).poisoned 0x18 = true ∧ (migrating (mig 0 none) []).blocksPoison 0x2000 = false
    ∧ (migrating (mig 0 none) []).reaches 0x8000 64 = false ∧ (migrating (mig 0 none) []).poisoned (0x1000 + 4032 + 32) = false := by decide +kernel

theorem wit_TransferWaits : bitSet ((adm 0x2000 0 0).x 6) 1 = false ∧ ((adm 0x2000 0 0).x 5).toNat % 32 = 0
    ∧ okOf ((adm 0x2000 0 0).load (adm 0 0 0).ctx .device 0x2000 8) = some 0 ∧ bitSet ((adm 0x2000 1 0).x 6) 0 = true
    ∧ okOf (({ adm 0x2000 0 0 with mem := cells [(0x2000, 2 ^ 63)] } : State).load (adm 0 0 0).ctx .device 0x2000 8) = some (2 ^ 63)
    ∧ bitSet ((adm 15 2 0).x 6) 1 = true ∧ ((adm 15 2 0).stream 0 15).bound = false
    ∧ ((streaming outS).stream 0 15).bound = true ∧ (streaming outS).undrained 0 15 = true ∧ (streaming (inS [] 0)).undrained 0 15 = false
    ∧ ((adm 16 0 0).x 5).toNat % 32 ≠ 0
    ∧ (withRun (adm 0x2000 1 0) (.waiting (.swait 7 5 6))).hart.run = .waiting (.swait 7 5 6) := by decide

/-- A hart at U with a handler and an entry queued. -/
abbrev entered : State :=
  { atU (adm 0 0 0) with
    hart := { (atU (adm 0 0 0)).hart with uhandler := 0x4001 }, cores := [(0, { Core.reset with uqueue := [⟨0, 7, 0, 0x2000, 0⟩] })] }

theorem wit_Interrupts : entered.userDue = some ⟨0, 7, 0, 0x2000, 0⟩ ∧ entered.hart.ahead = none
    ∧ (bitSet ({ entered.hart with uhandler := 0x4003 } : Hart).uhandler 1 = true ∧ entered.hart.ushadow0.extractLsb' 0 2 = 0)
    ∧ bitSet entered.hart.uhandler 1 = false
    ∧ (atU noticed).asyncDue = some 3 ∧ (atU noticed).hart.run.stopPoint = true ∧ (atU noticed).hart.ahead = none
    ∧ (atU { noticed with dies := [(0, { Die.reset with st := 5, hirq := [(0, 0x100000001)] })] }).asyncDue = some 1 := by decide

theorem wit_EmulationAndContexts : (atU (adm 0 0 0)).hart.ahead = none
    ∧ ({ (atU (adm 0 0 0)).hart with ebase := 0x4001 } : Hart).ebase.getLsbD 0 = true ∧ (atU (adm 0 0 0)).hart.emu = false
    ∧ ({ (atU (adm 0 0 0)).hart with trapS := { (atU (adm 0 0 0)).hart.trapS with status := 16 } } : Hart).emu = true
    ∧ (adm 0 0 0).hart.run = .running ∧ (adm 0 0 0).hart.level ≠ .u ∧ ((adm 128 0 0).x 5).toNat % 256 ≠ 0 ∧ ((adm 256 0 0).x 5).toNat % 256 = 0
    ∧ (adm 256 0 0).drained 0 = true := by decide

/-! ### The device -/

/-- A work queue at 0x1000: a ring of 16 slots of 128 bytes at 0x2000 whose descriptor at 0x1800 has head 0. -/
abbrev queued0 (hdr : Nat) : State :=
  { adm 0 0 0 with
    regs := { DeviceRegs.reset with wqtab := 0x1001, asidtab := 0x3001 }
    mem := cells [(0x1000, 0x1800), (0x1008, 0x1000000), (0x1800, 0x2000), (0x1808, 4 + 128 * 2 ^ 32), (0x2000, hdr)]
    queues := [(0, ⟨0, 1, some 0, []⟩)] }

theorem wit_DeviceRegisters : isHart 4095 = false ∧ isHart 0 = true ∧ (adm 0 0 0).admitted 0 = true ∧ (0 : Nat) < 8
    ∧ (adm 0 0 0).queueOn 0 = false ∧ (queued0 0).queueOn 0 = true ∧ (queued0 0).ringField 0 8 1 = some 4 ∧ (4 : Nat) < 32
    ∧ ((BitVec.ofNat 32 16 : BitVec 32) - 0).toNat ≤ 2 ^ 4 ∧ ((1 : BitVec 32) - 0).toNat < ((BitVec.ofNat 32 16 : BitVec 32) - 0).toNat
    ∧ ((1 : BitVec 32) - 0).toNat ≤ ((1 : BitVec 32) - 0).toNat
    ∧ (2 ^ 4 < ((BitVec.ofNat 32 (2 ^ 32 - 16) : BitVec 32) - 0).toNat ∧ ((0 : BitVec 32) - BitVec.ofNat 32 (2 ^ 32 - 16)).toNat ≤ 2 ^ 4)
    ∧ (2 ^ 4 < ((BitVec.ofNat 32 17 : BitVec 32) - 0).toNat ∧ 2 ^ 4 < ((0 : BitVec 32) - BitVec.ofNat 32 17).toNat)
    ∧ ((adm 0 0 0).mmioRead 0 0x05000000).isSome = true ∧ (adm 0 0 0).mmioRead 0 0x0F000000 = none := by decide

/-- A lending pair of die 0's stack 1 in each state; X(5) and X(6) lie in its two channels. -/
abbrev lending (st : LendState) (q : Bool) (since clk : Nat) : State :=
  { adm 0x7E00 0x7C00 0 with clk := clk, dies := [(0, { Die.reset with st := 5, hbmctl := 3, lend := [(31, ⟨st, true, since, q⟩)] })] }

theorem wit_ChannelLending : (lending .watch true 0 4096).lendOn 0 31 = true ∧ (lending .watch true 0 4096).pair 0 31 = ⟨.watch, true, 0, true⟩
    ∧ (lending .watch true 0 4096).saveOn 1 = false ∧ (lending .watch true 0 4096).drainAllowed 1 0 = true ∧ (lending .watch true 1 4096).clk < 1 + 4096
    ∧ ((lending .lent false 0 4096).pair 0 31).st = .lent
    ∧ ({ lending .lent false 0 0 with dies := [(0, { Die.reset with st := 5, lend := [(31, ⟨.lent, true, 0, false⟩)] })] } : State).lendOn 0 31 = false
    ∧ ((lending .own false 0 0).pair 0 31).st = .own ∧ ((lending .drain false 0 0).pair 0 31).st = .drain
    ∧ ((lending .retrain false 0 0).pair 0 31).st = .retrain ∧ ((lending .reclaim false 0 0).pair 0 31).st = .reclaim
    ∧ ({ Die.reset with noPair := 0x80000000 } : Die).noPair.toNat.testBit 31 = true := by decide

theorem wit_ChannelLending_request : ∀ st, memAt ((lending st false 0 0).target (lending st false 0 0).ctx .load ((lending st false 0 0).ea 5 0) 1)
      = some (0x7E00, false) ∧ (lending st false 0 0).poisoned 0x7E00 = false ∧ 0x7E00 < Config.hbmBytes ∧ 0 = hbmStack 0x7E00 / 2 ∧ 31 = hbmPair 0x7E00
      ∧ decide (hbmChannel 0x7E00 % 2 = 1) = ((lending st false 0 0).pair 0 31).idle
    ∧ memAt ((lending st false 0 0).target (lending st false 0 0).ctx .load ((lending st false 0 0).ea 6 0) 1) = some (0x7C00, false)
    ∧ 31 = hbmPair 0x7C00 ∧ decide (hbmChannel 0x7C00 % 2 = 1) ≠ ((lending st false 0 0).pair 0 31).idle := by
  intro st; cases st <;> decide

theorem wit_ChannelLending_busy : (withRun (adm 0x100 9 0) (.waiting (.ctxsave 7 5 6 0))).saveOn 0 = true
    ∧ (0 ∈ (withRun (adm 0x100 9 0) (.waiting (.ctxsave 7 5 6 0))).savesOn 0 ∧ 0 < 1) := by decide +kernel

/-- Core 0's lane 7 is declared lasting. -/
abbrev lame (held : BitVec 8) : State :=
  { adm 0 0 0 with hart := { (adm 0 0 0).hart with held := held }, dies := [(0, { Die.reset with st := 5, lasting := [laneKey 0 7, laneKey 0 8] })] }

theorem wit_DeviceHealth : (0 < (adm 0 0 0).power.lastSample + 1024) ∧ (adm 0 0 0).power.lastSample + 1024 ≤ 1024 ∧ (adm 0 0 0).power.lastStep = none
    ∧ isHart 1 = true ∧ (adm 0 0 0).admitted 0 = true
    ∧ ((lame 0xFF).dieAt (dieOfCore 0)).lasting.contains (laneKey 0 7) = true ∧ ((lame 0xFF).coreAt 0).sparing = none
    ∧ ((lame 0xFF).coreAt 0).spareUsed = false ∧ (lame 0xFF).laneHolder 0 7 = some 0 ∧ ((lame 0xFF).hartAt 0).run = .running
    ∧ (lame 0).laneHolder 0 7 = none ∧ ((lame 0xFF).dieAt 0).lasting.contains (laneKey 0 8) = true
    ∧ ({ Core.reset with sparing := some 7 } : Core).sparing = some 7 ∧ portSite 9 23 = true ∧ portSite 8 1 = true
    ∧ ((withRun (lame 0xFF) (.waiting .waiti)).laneHolder 0 7 = some 0 ∧ ((withRun (lame 0xFF) (.waiting .waiti)).hartAt 0).run ≠ .running) := by decide

/-- Core 0 waits for a message of core 1, and core 1 for one of core 0. -/
abbrev waitCircle : State :=
  { adm 0 0 0 with
    clk := 4096, hart := { (adm 0 0 0).hart with run := .waiting (.recv 7 5 0), lastSend := some 1 }
    others := [(1, { Hart.reset 1 with run := .empty }), (2, { Hart.reset 0 with run := .waiting (.recv 7 5 0), lastSend := some 0 }),
      (3, { Hart.reset 1 with run := .empty })] }

theorem wit_DeviceHealth_cycle : (waitCircle.dieAt 0).detectAt + 4096 ≤ waitCircle.clk ∧ bits (Tab.get 0 (waitCircle.dieAt 0).cycleRecord 0) 0 8 = 0
    ∧ (waitCircle.waitCycle 0).isSome = true := by decide +kernel

/-- Die 11 in a state, and the state of its link 2 to die 8. -/
abbrev bringing (st : Nat) (l : Link) : State :=
  { State.reset with powered := true, dies := [(8, { Die.reset with st := 5 }), (11, { Die.reset with st := st })], links := [(67, l)] }
/-- A keyed link that carries data, with what die 11 receives in one state of the old key and what it transmits due to roll. -/
abbrev linkUp (flits : Nat) (old : OldKey) : Link :=
  { Link.down with keyed := true, up := true, lo := { LinkWay.none with flits := flits, old := old }, hi := { LinkWay.none with due := true } }

theorem wit_DiesAndLinks : State.reset.powered = false ∧ State.reset.held = false ∧ ({ State.reset with held := true } : State).held = true
    ∧ ((bringing 1 Link.down).dieAt 11).st = 1 ∧ ((bringing 6 Link.down).dieAt 11).st = 6 ∧ ((bringing 2 Link.down).dieAt 11).st = 2
    ∧ linkPeer 11 2 = 8 ∧ linkId 11 2 = 67 ∧ (bringing 3 Link.down).keysReady 11 = true ∧ (bringing 5 Link.down).keysReady 11 = true
    ∧ (bringing 3 Link.down).keysReady 8 = true ∧ ((bringing 3 Link.down).link 11 2).keyed = false
    ∧ ((bringing 4 { Link.down with keyed := true }).dieAt 11).st = 4 ∧ ((bringing 4 { Link.down with keyed := true }).link 11 2).keyed = true
    ∧ ((bringing 4 { Link.down with keyed := true }).link 11 2).up = false ∧ (bringing 4 Link.down).admitted 8 = true
    ∧ (hartsOfDie 7).any (fun h => decide ((State.reset.hartAt h).run ≠ .empty)) = true
    ∧ (dieHolding 0x040000003000 = some 11 ∧ dieHolding 0x0E0B00000000 = none) ∧ ((bringing 0 Link.down).dieAt 11).st = 0 := by decide

theorem wit_DiesAndLinks_flits : (bringing 5 (linkUp 0 .none)).admitted 11 = true ∧ ((bringing 5 (linkUp 0 .none)).link 11 2).up = true
    ∧ (((bringing 5 (linkUp 0 .none)).link 11 2).way 8 11).old = .none ∧ (((bringing 5 (linkUp 0 .kept)).link 11 2).way 8 11).old = .kept
    ∧ (((bringing 5 (linkUp 0 (.left 256))).link 11 2).way 8 11).old = .left 256 ∧ (((bringing 5 (linkUp 0 (.left 0))).link 11 2).way 8 11).old = .left 0
    ∧ (((bringing 5 (linkUp (2 ^ 32 + 254) .none)).link 11 2).way 8 11).open_ = true
    ∧ (((bringing 5 (linkUp (2 ^ 32 + 255) .none)).link 11 2).way 8 11).open_ = false
    ∧ (((bringing 5 (linkUp 0 .none)).link 11 2).way 11 8).due = true ∧ (((bringing 5 (linkUp 0 .none)).link 11 2).way 11 8).old = .none
    ∧ (bringing 5 (linkUp 0 .none)).becomesLasting 8 (siteKey .link 3) = false
    ∧ ({ bringing 5 (linkUp 0 .none) with dies := [(8, { Die.reset with st := 5, sites := [(siteKey .link 3, [0, 0, 0])] }), (11, { Die.reset with st := 5 })] } :
        State).becomesLasting 8 (siteKey .link 3) = true := by decide

/-- I-dies 0 and 1 in service, port 1 trained with a session, UALink port 5 to package 2. -/
abbrev opened : State :=
  { State.reset with
    powered := true, dies := [(0, { Die.reset with st := 5 }), (8, { Die.reset with st := 5 }), (9, { Die.reset with st := 5 })]
    keys := ⟨[], [(1, 1)], [], [(1, 1)], [(5, 3)], [(12, 1)]⟩, regs := { DeviceRegs.reset with podctl := 0x8000000000000000 } }

theorem wit_OutsideAccesses : opened.portUp 1 = true ∧ opened.forward 0x3FF8 < Config.hbmBytes ∧ opened.responds (opened.forward 0x3FF8) = true
    ∧ opened.forward 0x3FF8 % (Width.w64.bits / 8) = 0 ∧ opened.poisoned (opened.forward 0x3FF8) = false ∧ (sick opened).poisoned (opened.forward 0x18) = true
    ∧ opened.hostArrives 1 0 = true ∧ opened.hostArrives 1 4 = false ∧ opened.forward 0x3FFC % (Width.w64.bits / 8) ≠ 0
    ∧ bitSet opened.regs.poisonctl 1 = false ∧ bitSet ({ DeviceRegs.reset with poisonctl := 2 } : DeviceRegs).poisonctl 1 = true ∧ Tab.get 0 opened.keys.session 1 ≠ 0 ∧ opened.admitted 9 = true
    ∧ bitSet opened.regs.podctl 63 = true ∧ Tab.get 0 opened.keys.podOf 5 = 2 + 1 ∧ opened.podReaches 0x3FF8 (Width.w64.bits / 8) = true
    ∧ (sick opened).podReaches 0x18 (amoBytes true) = true ∧ (12 : BitVec 4).toNat < 13 := by decide

theorem wit_Launching_take : (queued0 0).syncQueue 0 = queued0 0 ∧ (queued0 0).admitted 0 = true ∧ (0 : BitVec 32) ≠ 1
    ∧ (queued0 0).queueRing 0 = some (0x2000, 4) ∧ (queued0 0).launcherRead 0x2000 = some 0 ∧ (queued0 0).launcherRead 0x2040 = some 0
    ∧ ({ queued0 0 with poison := [0x102] } : State).launcherRead 0x2040 = none ∧ 0 % 4 = phase 4 0 ∧ (queued0 0).recordsWait = true
    ∧ ({ queued0 0 with queues := [(0, ⟨0, 1, some 0, [(1, 7)]⟩)] } : State).syncQueue 0 = { queued0 0 with queues := [(0, ⟨0, 1, some 0, [(1, 7)]⟩)] } := by decide

/-- A launch of one hart: its record's dwords, its ASID entry at 0x3000, its loop table at 0x3100; slot 1 is empty. -/
abbrev launchWords : List Nat := [0x5000, 9, 0x3100, 0, 0x3200, 1, 0, 0]
abbrev launched (dep : Nat) : Posted := ⟨[0x5000, 9, 0x3100, 0, 0x3200, 1, dep, 0], 0x2040, 0, 0, 0, 0, 0, []⟩
abbrev toLaunch (dep : Nat) : State :=
  { queued0 0 with
    mem := cells [(0x3100, 1 + 2 * 2 ^ 32), (0x3108, 3 * 2 ^ 32)], others := [(1, { Hart.reset 1 with run := .empty })], queues := []
    posted := [launched dep] }

theorem wit_Launching_place : ((toLaunch 0).checkLaunch ((launched 0).ageNow 0)).any (fun k =>
      decide ((toLaunch 0).deps k = .met) && decide ((toLaunch 0).launchSlots k = some [1])) = true
    ∧ (toLaunch 0).checkLaunch { launched 0 with dwords := [] } = none ∧ [1].Nodup ∧ (toLaunch 0).recordsWait = false
    ∧ ((toLaunch 0x0D0000000000).checkLaunch ((launched 0x0D0000000000).ageNow 0)).any (fun k =>
      decide ((toLaunch 0x0D0000000000).deps k = .failed)) = true ∧ ({ launched 0 with unread := [7] } : Posted).unread ≠ [] := by decide +kernel

theorem wit_ResetsAndFreeze : isHart 4479 = false ∧ isHart 3967 = true ∧ ({ State.reset with frozen := true } : State).frozen = true
    ∧ State.reset.survivesAt 0x040000000000 = some [.durable] ∧ State.reset.survivesAt 0 = none ∧ inRom 0x0F1000000000 = true
    ∧ (∀ e rest, State.reset.agenda ≠ .event .packageReset e :: rest) ∧ (adm 0 0 0).admitted (dieOf 0) = true ∧ State.reset.admitted (dieOf 3967) = false :=
  ⟨by decide, by decide, by decide, by decide, by decide, by decide, fun _ _ => nofun, by decide, by decide⟩

theorem wit_ResetState : isHart 0 = true ∧ isHart 3967 = true ∧ isHart 384 = false := by decide

theorem wit_EncodeDecode : Instr.wf (.add .w8 31 31 31) = true ∧ encode (.add .w8 31 31 31) = some 0x03FFFC00
    ∧ encode (.wloadEmptySlot 5 6) = encode (.wload 5 6) ∧ encodeBlock (.vadd vaddF) = some 0x1002106000000000 := by decide

theorem wit_DecodeEncode : decode 0x02729803 = .ok (.add .w64 7 5 6) ∧ decodeBlock 0x0100000000000000 = .ok .stop := ⟨rfl, rfl⟩

/-- Hart 0 runs from memory. -/
abbrev turned (w : Nat) : State :=
  { adm 1 2 0 with hart := { (adm 1 2 0).hart with pc := 0x1000 }, mem := cells [(0x1000, w)], agenda := [.hart 0 true none none] }

theorem wit_StepRunsDecoded : (turned 0x02729803).frozen = false ∧ isHart 0 = true
    ∧ ((turned 0x02729803).arm 0 true none none).admitted 0 = true ∧ ((turned 0x02729803).arm 0 true none none).hart.run = .running
    ∧ ((turned 0x02729803).arm 0 true none none).mustRetire = false ∧ ((turned 0x02729803).arm 0 true none none).asyncDue = none
    ∧ ((turned 0x02729803).arm 0 true none none).userDue = none
    ∧ okOf (((turned 0x02729803).arm 0 true none none).fetch 0x1000 4) = some 0x02729803
    ∧ okOf (((turned 0x0272983B).arm 0 true none none).fetch 0x1000 4) = some 0x0272983B ∧ errOf (decode 0x0272983B) = some .reserved
    ∧ isEvent .recvWake = true ∧ actsOnHart .recvWake = true ∧ actsOnHart .packageReset = false ∧ (turned 0).beginTurn.copiesLane 0 = false
    ∧ errOf (((turned 0).arm 0 true none none).fetch 0x0D0000000000 4) = some ⟨1, 0x0D0000000000⟩ ∧ isEvent .packageReset = true := by decide

/-- The machine goes on to a next state. -/
theorem next_of {r : Result} (h : (match r with | .next _ => true | _ => false) = true) : ∃ t, r = .next t := by
  split at h <;> simp_all

theorem wit_StepKeepsMemoryCanonical : Memory.wf (turned 0x02729803).mem = true ∧ ∃ t, step (turned 0x02729803) = .next t :=
  ⟨by decide, next_of (by decide)⟩

/-- A step runs the instruction that withFetchWord places. -/
theorem test_step : (match step (State.reset.withFetchWord 32 0x10D60005) with | .next t => (t.x 13, t.hart.retired) | _ => (0, 0)) = (5, 1) := by decide

/-! ### Long images in die 0's Arcade -/

theorem arcade_step (o n : Nat) : (0x0E0000000000 + BitVec.ofNat 64 o : Word) + BitVec.ofNat 64 n = 0x0E0000000000 + BitVec.ofNat 64 (o + n) := by
  rw [BitVec.ofNat_add, BitVec.add_assoc]

/-- Dwords of the Arcade as a hart at M reads them. -/
theorem arcade_dwords (s : State) (c : Ctx) (sc : Scope) (lv : c.level = .m) (m : s.moving = []) (a : s.admitted 0 = true) (p : s.poison = []) :
    ∀ n o, o % 8 = 0 → o + 8 * n ≤ 2 ^ 20 → s.loadDwords c sc (0x0E0000000000 + BitVec.ofNat 64 o) n =
      .ok ((List.range' o n 8).map (fun o => leNat (s.viewBytes c.agent sc (0x0E0000000000 + o) 8)))
  | 0, _, _, _ => rfl
  | n + 1, o, h, b => by
    have l : s.load c sc (0x0E0000000000 + BitVec.ofNat 64 o) 8 = .ok (leNat (s.viewBytes c.agent sc (0x0E0000000000 + o) 8)) := by
      unfold State.load
      rw [arcade_target s c .load o 8 h (by decide) (by omega) (by decide) lv m a]
      simp only [State.poisoned, p]
      rfl
    unfold State.loadDwords
    rw [l, show (8 : Word) = BitVec.ofNat 64 8 from rfl, arcade_step]
    simp only [arcade_dwords s c sc lv m a p n (o + 8) (by omega) (by omega)]
    rfl

theorem arcade_image (c : Ctx) (lv : c.level = .m) : ∀ ws o (s : State), s.moving = [] → s.admitted 0 = true → o % 8 = 0 →
    o + 8 * ws.length ≤ 2 ^ 20 → ∃ u, s.storeImage c (0x0E0000000000 + BitVec.ofNat 64 o) ws = (u, none) ∧ u.moving = [] ∧ u.admitted 0 = true
  | [], _, s, m, a, _, _ => ⟨s, rfl, m, a⟩
  | w :: ws, o, s, m, a, h, b => by
    have l : s.store c .hart (0x0E0000000000 + BitVec.ofNat 64 o) 8 w = .ok ((s.walkRequests c (0x0E0000000000 + BitVec.ofNat 64 o)).put c .hart (0x0E0000000000 + o) 8 w) := by
      unfold State.store
      rw [arcade_target s c .store o 8 h (by decide) (by simp only [List.length_cons] at b; omega) (by decide) lv m a]
    unfold State.storeImage
    rw [l, show (8 : Word) = BitVec.ofNat 64 8 from rfl, arcade_step]
    exact arcade_image c lv ws (o + 8) _ (by simpa [State.put] using m) (by simpa [State.put] using a) (by omega) (by simp only [List.length_cons] at b; omega)

theorem dwordsOf_length : ∀ n v, (dwordsOf n v).length = n
  | 0, _ => rfl
  | n + 1, v => by simp [dwordsOf, dwordsOf_length n]

theorem contextImage_short (s : State) (b : s.hart.streams = []) (i : s.hart.ill = true) : s.contextImage.length ≤ 2 ^ 16 := by
  have st : ∀ q, s.stream s.cur q = Stream.unbound := by intro q; simp only [State.stream, State.hartAt, if_true, b]; rfl
  have hd : (s.hart.imageHead (s.hart.ov || s.hasEntry s.cur)).length = 128 := by simp [Hart.imageHead]
  have vs : s.hart.imageVectors.length = 10176 := by simp [Hart.imageVectors, i, -List.reduceReplicate]
  have sm : (s.streamImage s.cur).length ≤ 1000 := by
    simp only [State.streamImage, st]
    decide
  simp only [State.contextImage, List.length_append, hd, vs]
  omega

theorem wit_EmulationAndContexts_save : let s := adm 0x0E0000000000 0 0
    (∃ u, s.storeImage s.ctx (s.x 5) s.contextImage = (u, none))
    ∧ (∀ i, i < 10368 → ∃ h, (s.storeImage s.ctx (s.x 5) (s.contextImage.take i)).1.target s.ctx .store (s.x 5 + word (8 * i)) 8
        = .ok (.mem (0x0E0000000000 + 8 * i) h))
    ∧ ∀ q, (s.stream 0 q).bound = false := by
  have n := contextImage_short (adm 0x0E0000000000 0 0) rfl rfl
  refine ⟨?_, fun i hi => ?_, fun _ => rfl⟩
  · obtain ⟨u, h, _⟩ := arcade_image (adm 0x0E0000000000 0 0).ctx rfl (adm 0x0E0000000000 0 0).contextImage 0 (adm 0x0E0000000000 0 0) rfl (by decide)
      (by decide) (by omega)
    exact ⟨u, h⟩
  · obtain ⟨u, h, m, a⟩ := arcade_image (adm 0x0E0000000000 0 0).ctx rfl ((adm 0x0E0000000000 0 0).contextImage.take i) 0 (adm 0x0E0000000000 0 0) rfl
      (by decide) (by decide) (by simp only [List.length_take]; omega)
    refine ⟨false, ?_⟩
    have e : (adm 0x0E0000000000 0 0).x 5 = 0x0E0000000000 + BitVec.ofNat 64 0 := by decide
    rw [e, h]
    exact arcade_target u _ .store (8 * i) 8 (by omega) (by decide) (by omega) (by decide) rfl m a

/-- An image of another version is refused. -/
theorem wit_EmulationAndContexts_refused : imageClean [] = false := by decide

/-- An image of version 1 with ill set lies in the Arcade. -/
abbrev imaged : State := { adm 0x0E0000000000 0 0 with mem := [(0x0E0000000000, 1), (0x0E0000000127, 0x80)] }
/-- Its dword at byte `o`. -/
abbrev imageAt0 (o : Nat) : Nat := leNat (imaged.viewBytes imaged.ctx.agent .hart (0x0E0000000000 + o) 8)
abbrev imageWords : List Nat := (List.range' 0 10368 8).map imageAt0

theorem imaged_zero (o : Nat) (h : 8 ≤ o) (g : o ≠ 288) (m : o % 8 = 0) : imageAt0 o = 0 := by
  have z : ∀ j ∈ List.range 8, imaged.view imaged.ctx.agent .hart (0x0E0000000000 + o + j) = 0 := by
    intro j hj
    have hj := List.mem_range.mp hj
    show (if 0x0E0000000000 + o + j = 0x0E0000000000 then (1 : Byte) else if 0x0E0000000000 + o + j = 0x0E0000000127 then 0x80 else 0) = 0
    rw [if_neg (by omega), if_neg (by omega)]
  simp only [imageAt0, State.viewBytes, List.map_congr_left z]
  rfl

theorem imageWords_get (i : Nat) : imageWords.getD i 0 = if i < 10368 then imageAt0 (8 * i) else 0 := by
  rw [List.getD_eq_getElem?_getD, List.getElem?_map]
  split
  · rw [List.getElem?_range' (by assumption)]; simp
  · rw [List.getElem?_eq_none (by simp only [List.length_range']; omega)]; rfl

theorem imageWords_zero (i : Nat) (h : i ≠ 0) (g : i ≠ 36) : imageWords.getD i 0 = 0 := by
  rw [imageWords_get]
  split
  · exact imaged_zero (8 * i) (by omega) (by omega) (by omega)
  · rfl

theorem natOf_zero : ∀ l : List Nat, (∀ x ∈ l, x = 0) → natOf l = 0
  | [], _ => rfl
  | w :: ws, h => by
    simp only [natOf, h w (List.mem_cons_self ..), natOf_zero ws (fun x hx => h x (List.mem_cons_of_mem _ hx)), Nat.mul_zero, Nat.add_zero]

theorem span_zero (ws : List Nat) (o n : Nat) (h : ∀ i, o / 8 ≤ i → ws.getD i 0 = 0) : imageSpan ws o n = 0 := by
  apply natOf_zero
  intro x hx
  obtain ⟨k, hk⟩ := List.mem_iff_getElem?.mp (List.mem_of_mem_take hx)
  rw [List.getElem?_drop] at hk
  have := h (o / 8 + k) (by omega)
  rw [List.getD_eq_getElem?_getD, hk] at this
  exact this

theorem records_unbound (ws : List Nat) : ∀ (qs : List Nat) (s : State), (∀ i, ws.getD i 0 = 0) → s.bindRecords ws qs = .ok s
  | [], _, _ => rfl
  | q :: qs, s, h => by
    have : recordBound (recordOf ws q) = false := by
      have g := h (4 * q + 3)
      rw [List.getD_eq_getElem?_getD] at g
      unfold recordBound recordOf
      rw [List.getD_eq_getElem?_getD, List.getElem?_take, if_pos (by decide), List.getElem?_drop, g]
      decide
    unfold State.bindRecords
    simp only [this]
    exact records_unbound ws qs s h

theorem wit_EmulationAndContexts_load :
    imaged.loadDwords imaged.ctx .hart (imaged.x 5) 10368 = .ok imageWords ∧ imageClean imageWords = true
    ∧ grantFits imageWords (min (laneCount (imaged.lanesFor 0)) imaged.laneLimit) = true ∧ imaged.tagCrew (imageDword imageWords 464) = some none
    ∧ ∀ u : State, u.bindRecords (imageWords.drop 128) (List.range 16) = .ok u := by
  have w36 : imageWords.getD 36 0 = 2 ^ 63 := by rw [imageWords_get]; decide
  have far : ∀ o n, 37 ≤ o / 8 → imageSpan imageWords o n = 0 := fun o n h => span_zero _ _ _ (fun i hi => imageWords_zero i (by omega) (by omega))
  refine ⟨arcade_dwords imaged imaged.ctx .hart (by decide) (by decide) (by decide) (by decide) 10368 0 (by decide) (by decide), ?_, ?_, ?_, ?_⟩
  · have w0 : imageWords.getD 0 0 = 1 := by rw [imageWords_get]; decide
    have t : imageDword imageWords 288 = 2 ^ 63 := w36
    simp only [imageClean, vectorsClean, t, far 472 69 (by decide), far 1600 56 (by decide), far 1536 8 (by decide), far 9216 1024 (by decide),
      far 17408 8192 (by decide)]
    have a : imageDword imageWords 0 = 1 := w0
    have b : imageDword imageWords 352 = 0 := imageWords_zero 44 (by decide) (by decide)
    have c : imageDword imageWords 456 = 0 := imageWords_zero 57 (by decide) (by decide)
    have ms : (List.range 7).all (fun j => decide (imageSpan imageWords (2048 + 1024 * j) 128 = 0)) = true := by
      rw [List.all_eq_true]
      intro j _
      simp [far (2048 + 1024 * j) 128 (by omega)]
    rw [a, b, c, ms]
    decide
  · have t : imageDword imageWords 288 = 2 ^ 63 := w36
    simp only [grantFits, t]
    decide
  · rw [show imageDword imageWords 464 = 0 from imageWords_zero 58 (by decide) (by decide)]
    rfl
  · intro u
    apply records_unbound
    intro i
    have := imageWords_zero (128 + i) (by omega) (by omega)
    rw [List.getD_eq_getElem?_getD] at this ⊢
    rw [List.getElem?_drop]
    exact this

theorem wit_StreamBinding_records : ∀ u : State, u.bindRecords (List.replicate 64 0) (List.range 16) = .ok u := by
  intro u
  apply records_unbound
  intro i
  rw [List.getD_eq_getElem?_getD, List.getElem?_replicate]
  split <;> rfl

/-! ### Cells of a weight load -/

theorem arcade_cells (s : State) (c : Ctx) (r : WloadReq) (lv : c.level = .m) (m : s.moving = []) (a : s.admitted 0 = true) (p : s.poison = [])
    (sz : r.size = 1) (at_ : ∀ k, k < 4096 → r.at (k / 64) (k % 64) = 0x0E0000000000 + BitVec.ofNat 64 k) :
    ∀ ks, (∀ k ∈ ks, k < 4096) → ∃ l, s.fetchCells c r ks = .ok l
  | [], _ => ⟨[], rfl⟩
  | k :: ks, h => by
    have hk := h k (List.mem_cons_self ..)
    obtain ⟨l, hl⟩ := arcade_cells s c r lv m a p sz at_ ks (fun x hx => h x (List.mem_cons_of_mem _ hx))
    unfold State.fetchCells State.loadPast
    rw [at_ k hk, sz, arcade_target s c .load k 1 (Nat.mod_one k) (by decide) (by omega) (by decide) lv m a, hl]
    simp only [State.poisoned, p]
    exact ⟨_, rfl⟩

theorem wreq_at (k : Nat) (_h : k < 4096) : (wreq 0 511 true).at (k / 64) (k % 64) = 0x0E0000000000 + BitVec.ofNat 64 k := by
  apply BitVec.eq_of_toNat_eq
  have e : (64 : BitVec 32).signExtend 64 = BitVec.ofNat 64 64 := by decide
  simp only [WloadReq.at, word, e, show is16 1 = false from rfl, show tagBits 1 = 8 from rfl]
  simp
  omega

theorem wit_ClusterEvents_cells : ∃ l, (inCluster Cluster.reset).fetchCells (ctxAt 0 (.hart 0) .m 0 0) (wreq 0 511 true) (List.range 4096) = .ok l :=
  arcade_cells _ _ _ rfl (by decide) (by decide) (by decide) (by decide) wreq_at _ (fun _ h => List.mem_range.mp h)

/-- A hart whose lanes are gone at its next grant point. -/
theorem wit_VectorRowsAndLength_none : (let s : State := { vec 4 0 0 with cores := [(0, { Core.reset with lanecap := 0 })], hart := { (vec 4 0 0).hart with held := 0 } }
    min (laneCount (s.lanesFor s.cur)) s.laneLimitSeen ≠ s.hart.g
      ∧ min (laneCount (s.lanesFor s.cur)) s.laneLimitSeen * 65536 / (s.hart.vcount * s.hart.vwidth) < 16)
    ∧ 16 ≤ min (laneCount ((regrant (vec 0 0 0)).lanesFor 0)) (regrant (vec 0 0 0)).laneLimitSeen * 65536
        / ((vec 0 0 0).hart.vcount * (vec 0 0 0).hart.vwidth) := by
  decide

/-! ### The values of 02 and 06, the elements of 08 and the rows of 10 -/

/-- Operands of every kind that the clauses about exact arithmetic tell apart (02 R44, R45). -/
theorem wit_RoundingOperations_exact :
    let one := FVal.fin false 1 0
    (FVal.nan true).isSig = true ∧ ((FVal.nan false).isNan = true ∧ (FVal.nan false).isSig = false ∧ one.isSig = false)
    ∧ ((0 = 0 ∧ FVal.fin false 0 0 = .fin false 0 0 ∧ FVal.inf true = .inf true)) ∧ fMul (.inf false) one = (.inf false, 0)
    ∧ (one.isNan = false ∧ one ≠ .inf !false) ∧ (1 : Nat) ≠ 0 ∧ (FVal.fin true 3 2 ≠ .fin false 3 2) := by decide

/-- The values of FCVT: beyond the range, within it and exact; a NaN and both infinities (02 R46, R47). -/
theorem wit_RoundingOperations_conversions :
    (CvtType.f16.operand 0x7E00).isNan = true ∧ CvtType.f16.operand 0x7C00 = .inf false ∧ CvtType.f16.operand 0xFC00 = .inf true
    ∧ (∃ n k e, CvtType.f32.operand 0x4F000000 = .fin n k e ∧ (2 ^ 31 - 1 : Int) < (roundAt .rne n k e 0).1)
    ∧ (∃ n k e, CvtType.f32.operand 0xBF800000 = .fin n k e ∧ -((roundAt .rne n k e 0).1 : Int) < 0)
    ∧ (∃ n k e, CvtType.f32.operand 0x40200000 = .fin n k e ∧ 0 ≤ ((roundAt .rne n k e 0).1 : Int) ∧ ((roundAt .rne n k e 0).1 : Int) ≤ 2 ^ 31 - 1) :=
  ⟨by decide, by decide, by decide, ⟨_, _, _, rfl, by decide⟩, ⟨_, _, _, rfl, by decide⟩, ⟨_, _, _, rfl, by decide⟩⟩

/-- The float reading of ACC80 and bf16 at both ends of their ranges (06 R133, R140). -/
theorem wit_Rounding_wide : (0x7FF80000000000000001 < 2 ^ fmtAcc80.width ∧ (fmtAcc80.value 0x7FF80000000000000001).isNan = true)
    ∧ (fmtBf16.value 0xFF80).isNan = false ∧ (fmtBf16.value 0x7F81).isNan = true ∧ 0xFFFF < 2 ^ fmtBf16.width := by decide

/-- Elements of every tag that a clause about element formats names; values beyond, at and within the range of e4m3 (06 R127 to R135). -/
theorem wit_VectorElementValues_formats : (2 * 7 < 2 ^ 4 ∧ ¬2 * 8 < 2 ^ 4) ∧ (255 : Nat) < 256
    ∧ (let beyond := fun (k : Nat) (e : Int) =>
        let q := max ((k.log2 : Int) + e - 3) (1 - 7 - 3)
        decide (5 < q ∨ (q = 5 ∧ 14 < (roundAt .rne false k e q).1))
       beyond 1 9 = true ∧ beyond 1 8 = false ∧ beyond 15 5 = true ∧ beyond 14 5 = false ∧ beyond 1 (-30) = false)
    ∧ (let z := fun (k : Nat) (e : Int) => (k.log2 : Int) + e + 127
       z 1 (-128) < 0 ∧ 254 < z 1 128 ∧ 0 ≤ z 1 127 ∧ z 1 127 ≤ 254)
    ∧ (FVal.nan false).isNan = true ∧ isIntTag 6 = true ∧ isIntTag 9 = false := by decide

/-- Two operands of 32 bits, and what VDIV and VREM tell apart (08 R168; 01 R36). -/
theorem wit_VectorElementValues_integers :
    (∀ i ∈ [Instr.vmulh vaddF, .vrem vaddF, .vdiv vaddF, .vsadd vaddF, .vssub vaddF, .vfma vaddF], (prepped (filled (vec 1 0 0) 5 0) i).any (fun p =>
        isIntTag p.rt && p.i = i && p.a (filled (vec 1 0 0) 5 0).hart (filled (vec 1 0 0) 5 0).hart 0 = (.int 5, false)
          && p.b (filled (vec 1 0 0) 5 0).hart (filled (vec 1 0 0) 5 0).hart 0 = (.int 0, false)) = true)
    ∧ (∀ i ∈ [Instr.vabs { vaddF with vs2 := 0 }, .vneg { vaddF with vs2 := 0 }, .vclz { vaddF with vs2 := 0 }, .vpopc { vaddF with vs2 := 0 }],
        (prepped (filled (vec 1 0 0) 5 0) i).any (fun p => isIntTag p.rt && p.i = i) = true)
    ∧ bitSet (dzTrap (vec 1 0 0)).hart.vxtrap 1 = true ∧ bitSet (dzTrap (vec 1 0 0)).hart.vxtrap 0 = true ∧ bitSet (vec 1 0 0).hart.vxtrap 1 = false
    ∧ isSignedTag 4 = true ∧ ((0x80000000 : Int).bmod (2 ^ 32) = -2 ^ 31 ∧ (0xFFFFFFFF : Int).bmod (2 ^ 32) = -1) := by decide

/-- Registers 2 and 3 hold f32 words. -/
abbrev floats (s : State) (a b : Nat) : State :=
  { filled s a b with hart := { (filled s a b).hart with vtag := [(1, 10), (2, 10), (3, 10)] } }

theorem wit_VectorElementValues_floats :
    let s := floats (vec 1 0 0) 0x3F800000 0x40000000
    (∀ i ∈ [Instr.vadd vaddF, .vsub vaddF, .vmul vaddF, .vdiv vaddF, .vmin vaddF, .vmax vaddF, .vfma vaddF], (prepped s i).any (fun p =>
        !isIntTag p.rt && p.i = i && p.a s.hart s.hart 0 = (.flt (.fin false (2 ^ 23) (-23)), false)
          && p.b s.hart s.hart 0 = (.flt (.fin false (2 ^ 23) (-22)), false)) = true)
    ∧ (∀ i ∈ [Instr.vsqrt { vaddF with vs2 := 0 }, .vrcp { vaddF with vs2 := 0 }, .vrsq { vaddF with vs2 := 0 }, .vexp2 { vaddF with vs2 := 0 },
          .vlog2 { vaddF with vs2 := 0 }], (prepped s i).any (fun p => p.i = i && (p.a s.hart s.hart 0).1 = .flt (.fin false (2 ^ 23) (-23))) = true) := by
  decide

/-- An index, a mask bit set and one clear, a scale of 255 and one of 127, an override (08 R167, R170, R171, R173). -/
theorem wit_VectorElementValues_elements :
    let s := floats (vec 1 0 0) 0x3F800000 0x40000000
    let m : State := { s with hart := { s.hart with m := [(1, 1)], vtag := [(1, 10), (2, 12), (3, 18)], v := [(2, 0x38), (3, 255 + 127 * 256)] } }
    (prepped (filled (vec 1 0 0) 5 6) (.vgatherr vaddF)).any (fun p => p.b (filled (vec 1 0 0) 5 6).hart (filled (vec 1 0 0) 5 6).hart 0 = (.int 6, false))
      = true
    ∧ (m.hart.maskBit 1 0 = true ∧ m.hart.maskBit 1 1 = false)
    ∧ (prepped m (.vcvt { vaddF with imm := 0xA80001 })).any (fun p => p.f.fn % 4 = 1) = true
    ∧ (m.hart.elem 3 18 0 = 255 ∧ m.hart.elem 3 18 1 = 127 ∧ m.hart.poisonBit 3 0 = false)
    ∧ (isFloatTag 10 = true) ∧ (∃ v, s.hart.elem 2 10 0 = v ∧ (valueOf 10 v).f.isNan = false) := by
  refine ⟨by decide, by decide, by decide, by decide, by decide, ⟨_, rfl, by decide⟩⟩

/-- A float comparison whose operands signal, and a reduction of floats. -/
theorem wit_MaskWords_flags : (let s := floats (vec 1 0 0) 0x7F800001 0x40000000
    ∃ p, s.ready (.vcmp vaddF) p ∧ decide ((p.a s.hart s.hart 0).1.f.isSig = true ∧ (p.a s.hart s.hart 0).2 = false ∧ 0 ∈ p.actives s) = true)
    ∧ (let s := floats (vec 1 0 0) 0x7F800001 0x40000000; ∃ p, s.ready (.vredmax redF) p ∧ (p.a s.hart s.hart 0).1.f.isSig = true) :=
  ⟨ready_with _ (by decide) (by decide) (by decide), ready_with _ (by decide) (by decide) (by decide)⟩

/-! ### Memory order, tiles, slots, engines and harts -/

/-- A write of agent `a` that has not appeared, between writes that have. -/
abbrev queuedUp : State :=
  { adm 0 0 0 with pend := [{ pending (.hart 1) .device 0x40 with reached := [.device] }, pending (.hart 0) .device 0x3FF8] }

theorem wit_MemoryOrder_appear :
    (∀ p ∈ queuedUp.pend, p.touches 0x3FF8 1 = true → p.owner = .hart 1 → p.appeared = true) ∧ queuedUp.othersAppeared (.hart 0)
    ∧ queuedUp.pend[2]? = none ∧ ((pending (.hart 0) .device 0x3FF8).appeared = false ∧ (pending (.hart 0) .device 0x3FF8).covers 0x40 = false)
    ∧ queuedUp.mayMove (queuedUp.pend.take 1) (pending (.hart 0) .device 0x3FF8) (queuedUp.pend.drop 2) .device = true
    ∧ queuedUp.mayMove (queuedUp.pend.take 1) (pending (.hart 0) .device 0x3FF8) (queuedUp.pend.drop 2) .system = false
    ∧ (∀ k o, k ≠ 1 → queuedUp.pend[k]? = some o → o.appeared = false → o.touches 0x3FF8 1 = false) := by
  refine ⟨by decide, by unfold State.othersAppeared; decide, by decide, by decide, by decide, by decide, ?_⟩
  intro k o hk ho ha
  match k with
  | 0 => cases ho; exact absurd ha (by decide)
  | 1 => exact absurd rfl hk
  | k + 2 => cases ho

/-- Nothing of another agent waits to appear, and no four-bit store (AtomicOperations, VectorMemory, VectorAtomics, PanelsAndEnd, Transfers,
EmulationAndContexts). -/
theorem wit_MemoryOrder_alone : (va.othersAppeared (.hart va.cur) ∧ ∀ w ∈ va.pend, w.nibble = none ∨ w.appeared = true)
    ∧ (copying (copy0 0 100 100 (some 0))).othersAppeared (.ctl 191) ∧ (adm 256 0 0).othersAppeared (.hart 0)
    ∧ (adm 256 0 0).hart.ahead = none ∧ (adm 256 0 0).drained 0 = true := by
  refine ⟨?_, ?_, ?_, by decide, by decide⟩ <;> (try unfold State.othersAppeared) <;> decide

/-- A store to a host-shared page of one element: the write count of its elements. -/
theorem wit_VectorMemory_shared : (let s : State := { vm with hart := { vm.hart with vl := 1, rows := 1 } }
    ∃ p, s.ready (.vst stF) p ∧ decide ((p.actives s).length ≤ 1) = true) := ready_with _ (by decide) (by decide) (by decide)

/-- ZRD of z0 into v1 as f32 words, and ZWR of v2 into z0, both rows (10 R234, R235). -/
abbrev zrdF : Fields := ⟨false, 1, 0, 0, 0, 0, false, 0, 0xA810FF⟩
abbrev zwrF : Fields := ⟨false, 0, 2, 0, 0, 0, false, 0, 0x0010FF⟩

theorem wit_MatrixWords_rows : ((mat 1).matrixReadyFor (.zwr zwrF) zwrF none ∧ (mat 1).matrixReadyFor (.zrd zrdF) zrdF none)
    ∧ (∀ i ∈ [(Instr.zwr zwrF, zwrF), (.zrd zrdF, zrdF)],
        let p : MPrep := ⟨i.1, i.2, (mat 1).hart, none, []⟩
        p.idle = false ∧ p.rankPoison = false ∧ (∀ r ∈ p.rows, p.rowState (mat 1).cluster r = .go) ∧ p.rows ≠ []) :=
  ⟨⟨matrix_ready none (by decide) (by decide) (by decide) (by decide) (by decide) (by decide) (by decide),
    matrix_ready none (by decide) (by decide) (by decide) (by decide) (by decide) (by decide) (by decide)⟩, by decide⟩

/-- Row 0 of ZWR: the bytes of v2 into z0; the tile's dirty bit. -/
theorem test_zwr : (match exec (.zwr zwrF) (mat 0x0201) with
    | .next t => (t.core.acc (zKey 0 0 0), t.core.acc (zKey 0 0 1), t.core.zstate.getLsbD 48) | _ => (0, 0, false)) = (1, 2, true) := by decide

theorem wit_WeightSlotRequests_waits : ((atU (wl 2 1)).hart.level = .u ∧ bits ((wl 2 1).x 6) 10 2 = 2)
    ∧ (8 ≤ ({ wl 0 1 with clusters := [(0, { Cluster.reset with wloads := List.replicate 8 (wreq 0 511 false) })] } : State).cluster.queued) := by decide

/-- A slot whose content of old a matrix word between passes holds beneath an accepted WLOAD. -/
theorem wit_ClusterEvents_beneath :
    let v : WSlot := { WSlot.empty with state := .loading, under := some { WSlot.empty with state := .loading } }
    v.under ≠ none ∧ (match v.under with | some u => u.state | none => v.state) = SlotState.loading
    ∧ (match ({ v with under := some { WSlot.empty with state := .ready } } : WSlot).under with | some u => u.state | none => v.state) = SlotState.ready := by
  decide

/-- A migration that moves, and a hart that waits at a slot of its page. -/
theorem wit_Transfers_moving :
    let m : Migration := ⟨0x1000, 0x7018, 1, 0, true⟩
    let s : State := { migrating (mig 4096 (some m)) [] with
      moving := [⟨0x1000, 0x2000, 4096, []⟩], hart := { (adm 0 0 0).hart with run := .waiting (.rput 7 .device ⟨4, 0, 0x1400, [(0x300, 0x1408)]⟩) } }
    s.engineQueue (.edge 0 7) = [mig 4096 (some m)] ∧ s.performedFrom (List.range 8) m.inv = true ∧ m.closing = true
    ∧ (s.hartAt 0).run = .waiting (.rput 7 .device ⟨4, 0, 0x1400, [(0x300, 0x1408)]⟩) ∧ s.forward 0x1400 = 0x2400
    ∧ (s.moving.find? (fun p => p.old = m.old)).isSome = true
    ∧ (withRun s (.waiting (.rtake 7 .device ⟨4, 0, 0x1400, [(0x1408, 0x300)]⟩))).hart.run
        = .waiting (.rtake 7 .device ⟨4, 0, 0x1400, [(0x1408, 0x300)]⟩) := by decide +kernel

/-- SWAIT of an undrained stream that is told to wait. -/
theorem wit_TransferWaits_stream : ((streaming outS).stream 0 15).bound = true ∧ (streaming outS).undrained 0 15 = true
    ∧ (bitSet (3 : Word) 1 = true ∧ bitSet (3 : Word) 0 = true) := by decide

/-- The holder of the lasting lane is at a stop point, or is not; another lane is being copied. -/
theorem wit_DeviceHealth_holder : ((lame 0xFF).hartAt 0).run.stopPoint = true
    ∧ ((withRun (lame 0xFF) (.waiting (.rput 7 .device ⟨4, 0, 0x1400, []⟩))).hartAt 0).run.stopPoint = false
    ∧ (({ lame 0xFF with cores := [(0, { Core.reset with sparing := some 6 })] } : State).coreAt 0).sparing = some 6 := by decide

/-- The hart whose turn it is holds no lane that is being copied. -/
theorem wit_StepRunsDecoded_lane : ((turned 0x02729803).arm 0 true none none).copiesLane 0 = false := by decide

end Sys2Proof.Machine
end

section
/-! Resets and freeze (01 R30; 20 R401; 24 R438): what HART_RESET makes of a slot, what outlasts PACKAGE_RESET in memory, which keys and secrets
FREEZE clears, and the turn of a frozen package. -/

namespace Sys2Proof

variable {α : Type}

/-- What the default and every listed value satisfy, every reading satisfies. -/
theorem Tab.get_of_forall (P : α → Prop) (d : α) (t : Tab α) (k : Nat) (hd : P d) (ht : ∀ p ∈ t, P p.2) : P (Tab.get d t k) := by
  induction t with
  | nil => exact hd
  | cons p t ih =>
    rw [Tab.get]
    split
    · exact ht p List.mem_cons_self
    · exact ih fun q hq => ht q (List.mem_cons_of_mem p hq)

/-- What the default and every result of `f` satisfy, every reading of a mapped table satisfies. -/
theorem Tab.get_mapVals_of_forall [DecidableEq α] (P : α → Prop) (d : α) (t : Tab α) (f : α → α) (k : Nat) (hd : P d) (hf : ∀ v, P (f v)) :
    P (Tab.get d (Tab.mapVals d t f) k) := by
  refine Tab.get_of_forall P d _ k hd fun p hp => ?_
  obtain ⟨q, -, rfl⟩ := List.mem_map.mp (List.mem_filter.mp hp).1
  exact hf q.2

end Sys2Proof

namespace Sys2Proof.Machine

/-! ### Hart reset (01 R30) -/

theorem State.exec_hartReset_admitted (s : State) (n : Nat) (hn : isHart n) (hd : s.admitted (dieOf n)) :
    exec (.hartReset n) s = .next ((((s.releaseChannels n).unbindAll n).dropEntries n).setHart n
      ((((s.releaseChannels n).unbindAll n).dropEntries n).freshHart n)) := if_pos (by rw [hn, hd]; rfl)

theorem State.exec_hartReset_unadmitted (s : State) (n : Nat) (hd : s.admitted (dieOf n) = false) : exec (.hartReset n) s = .next s :=
  if_neg (by simp [hd])

/-- The vector configuration of a fresh hart is illegal until a VCONFIG (05 R101). -/
theorem State.freshHart_ill (s : State) (n : Nat) : (s.freshHart n).ill = true := by
  have hv : (s.freshHart n).vtype = vtypeIll := rfl
  rw [Hart.ill, hv]
  decide

/-! ### What outlasts a package reset (14 R294; 24 R438) -/

/-- Memory after `n` bytes from `pa` on are written as `v` gives them. -/
theorem get_putWrite (v : Nat → Byte) (pa n : Nat) (m : List Host.Cell) (q : Nat) :
    Tab.get Config.unwritten ((List.range n).foldl (fun m i => Tab.put Config.unwritten m (pa + i) (v (pa + i))) m) q
      = if pa ≤ q ∧ q < pa + n then v q else Tab.get Config.unwritten m q := by
  induction n with
  | zero => rw [if_neg (by omega)]; rfl
  | succ n ih =>
    rw [List.range_succ, List.foldl_append, List.foldl_cons, List.foldl_nil, Tab.get_put, ih]
    by_cases hq : q = pa + n
    · subst hq; rw [if_pos rfl, if_pos (by omega)]
    · have hr : (pa ≤ q ∧ q < pa + (n + 1)) ↔ (pa ≤ q ∧ q < pa + n) := by omega
      simp only [if_neg hq, hr]

/-- What a memory reads once every byte of the writes `ps` is as `v` gives it. -/
theorem get_putWritten (v : Nat → Byte) (ps : List PendWrite) (m : List Host.Cell) (q : Nat) :
    Tab.get Config.unwritten (putWritten v ps m) q = if ps.any (·.covers q) then v q else Tab.get Config.unwritten m q := by
  induction ps generalizing m with
  | nil => rfl
  | cons p ps ih =>
    have hp : putWritten v (p :: ps) m
        = putWritten v ps ((List.range p.new.length).foldl (fun m i => Tab.put Config.unwritten m (p.pa + i) (v (p.pa + i))) m) := rfl
    rw [hp, ih, get_putWrite, List.any_cons]
    by_cases hc : p.covers q = true
    · have hq : p.pa ≤ q ∧ q < p.pa + p.new.length := by simpa [PendWrite.covers] using hc
      rw [if_pos hq, ite_self, hc, Bool.true_or, if_pos rfl]
    · have hq : ¬(p.pa ≤ q ∧ q < p.pa + p.new.length) := by simpa [PendWrite.covers] using hc
      rw [if_neg hq, Bool.eq_false_iff.mpr hc, Bool.false_or]

/-- A byte that no write under way covers reads as its latest value to everyone. -/
theorem viewFrom_of_none_covers (sees : PendWrite → Bool) (pa : Nat) (v : Byte) (ps : List PendWrite) (h : ps.any (·.covers pa) = false) :
    viewFrom sees pa v ps = v := by
  induction ps with
  | nil => rfl
  | cons p ps ih =>
    obtain ⟨hp, hps⟩ := Bool.or_eq_false_iff.mp h
    rw [viewFrom_uncovered _ _ _ _ _ hp, ih hps]

/-- Memory after a package reset holds what `State.surviving` says of every byte: also of those that no write under way covers, which are not
written again. -/
theorem State.get_survivingMem (s : State) (pa : Nat) : Tab.get Config.unwritten s.survivingMem pa = s.surviving pa := by
  rw [State.survivingMem, get_putWritten]
  split
  · rfl
  · next hc =>
    rw [get_filter s.mem (fun a => inRom a || (s.survivesAt a).isSome) pa, State.surviving]
    cases s.survivesAt pa with
    | none => simp only [Option.isSome_none, Bool.or_false]; rfl
    | some pts =>
      rw [Option.isSome_some, Bool.or_true, if_pos rfl]
      exact (viewFrom_of_none_covers _ _ _ _ (Bool.eq_false_iff.mpr hc)).symm

/-! ### Freeze (20 R401) -/

/-- The keys of a link are zero, and so is its secret. -/
def Link.Keyless (l : Link) : Prop := l.lo.key = 0 ∧ l.hi.key = 0 ∧ l.secret = 0

theorem Link.keyless_cleared (l : Link) : l.cleared.Keyless := ⟨rfl, rfl, rfl⟩

/-- No link holds a key after FREEZE: neither one that is listed nor one that is down. -/
theorem exec_freeze_keyless (s : State) : ∃ t, exec .freeze s = .next t ∧ ∀ d k, (t.link d k).Keyless :=
  ⟨_, rfl, fun d k => Tab.get_mapVals_of_forall Link.Keyless Link.down s.links Link.cleared (linkId d k) ⟨rfl, rfl, rfl⟩ Link.keyless_cleared⟩

/-- In a frozen package clk stands; the count of steps goes on. -/
theorem State.passTurn_of_frozen (s : State) (h : s.frozen = true) : s.passTurn = { s with tick := s.tick + 1 } := by
  unfold State.passTurn
  split
  · rfl
  · simp [State.pass, h]

theorem frozenTurn_of_ne_packageReset (t : Option Turn) (s : State) (h : ∀ e, t ≠ some (.event .packageReset e)) : frozenTurn t s = .next s := by
  unfold frozenTurn
  split
  · next e => exact absurd rfl (h e)
  · rfl

/-- A frozen package takes its turn away and does nothing else, unless it is reset. -/
theorem step_of_frozen (s : State) (h : s.frozen = true) (ha : ∀ e rest, s.agenda ≠ .event .packageReset e :: rest) :
    step s = .next { s with tick := s.tick + 1, agenda := s.agenda.tail } := by
  unfold step turn
  rw [s.passTurn_of_frozen h]
  dsimp only
  split
  · next t rest he =>
    rw [if_pos h, frozenTurn_of_ne_packageReset _ _ fun e ht => ha e rest (by rw [he, Option.some.inj ht]), he]
    rfl
  · next he =>
    rw [if_pos h, frozenTurn_of_ne_packageReset none _ (fun _ h => nomatch h), he]
    rfl

/-- Settles O53: HART_RESET places the fresh hart; memory after PACKAGE_RESET is read off byte by byte; FREEZE leaves keyless links, and a frozen
package only passes its turns. -/
theorem resetsAndFreeze : Obligations.ResetsAndFreeze := by
  intro s n
  refine ⟨fun hn hd => ?hartReset, s.exec_hartReset_unadmitted n, ?packageReset, ?freeze, step_of_frozen s⟩
  case hartReset =>
    refine ⟨_, s.exec_hartReset_admitted n hn hd, ?_⟩
    rw [State.hartAt_setHart, if_pos rfl]
    exact ⟨rfl, rfl, rfl, rfl, rfl, rfl, rfl, rfl, rfl, rfl, rfl, State.freshHart_ill _ n, rfl, rfl, rfl, rfl, rfl, rfl⟩
  case packageReset =>
    exact ⟨_, rfl, rfl, rfl, rfl, rfl, rfl, rfl, rfl, rfl, rfl, rfl, rfl, rfl, rfl, s.get_survivingMem⟩
  case freeze =>
    obtain ⟨t, ht, hk⟩ := exec_freeze_keyless s
    cases ht
    exact ⟨_, rfl, rfl, rfl, rfl, rfl, rfl, rfl, hk, rfl, rfl, rfl⟩

end Sys2Proof.Machine
end

section
/-! Registers, retirement, trap entry and trap return of a hart (01 R13, R23, R31, R32; 04 R72, R92). -/

namespace Sys2Proof.Machine

/-! ### Bit fields of a word (00 R4) -/

theorem bits_eq_toNat_extractLsb' (w : Word) (lo len : Nat) : bits w lo len = (w.extractLsb' lo len).toNat := by
  rw [BitVec.extractLsb'_toNat, Nat.shiftRight_eq_div_pow]; rfl

theorem bits_one (w : Word) (i : Nat) : bits w i 1 = (w.getLsbD i).toNat := by
  rw [bits, Nat.pow_one, BitVec.getLsbD, Nat.toNat_testBit]

/-- A field that is written lies between the bits below it and those above it, which stay. -/
theorem getLsbD_withBits (w : Word) (lo len v i : Nat) (h : lo + len ≤ 64) :
    (withBits w lo len v).getLsbD i = if lo ≤ i ∧ i < lo + len then v.testBit (i - lo) else w.getLsbD i := by
  have hsum : w.toNat % 2 ^ lo + v % 2 ^ len * 2 ^ lo + w.toNat / 2 ^ (lo + len) * 2 ^ (lo + len)
      = 2 ^ lo * (2 ^ len * (w.toNat / 2 ^ (lo + len)) + v % 2 ^ len) + w.toNat % 2 ^ lo := by
    rw [Nat.pow_add, Nat.mul_add, ← Nat.mul_assoc (2 ^ lo) (2 ^ len), Nat.mul_comm (2 ^ lo * 2 ^ len), Nat.mul_comm (2 ^ lo) (v % 2 ^ len)]
    omega
  rw [withBits, BitVec.getLsbD_ofNat, hsum, Nat.testBit_two_pow_mul_add _ (Nat.mod_lt _ (Nat.two_pow_pos _)),
    Nat.testBit_two_pow_mul_add _ (Nat.mod_lt _ (Nat.two_pow_pos _)), Nat.testBit_mod_two_pow, Nat.testBit_mod_two_pow, Nat.testBit_div_two_pow]
  by_cases hlo : i < lo
  · have hi : i < 64 := by omega
    simp [hlo, hi, Nat.not_le.mpr hlo, BitVec.getLsbD]
  · by_cases hin : i < lo + len
    · have hi : i < 64 := by omega
      have hl : i - lo < len := by omega
      simp [hlo, hin, hl, hi, Nat.not_lt.mp hlo]
    · have hl : ¬ i - lo < len := by omega
      have he : i - lo - len + (lo + len) = i := by omega
      simp only [hlo, hin, hl, he, and_false, if_false]
      by_cases hi : i < 64
      · simp [hi, BitVec.getLsbD]
      · simp [hi, BitVec.getLsbD_of_ge _ _ (Nat.not_lt.mp hi)]

theorem extractLsb'_withBits_same (w : Word) (lo len v : Nat) (h : lo + len ≤ 64) : (withBits w lo len v).extractLsb' lo len = BitVec.ofNat len v := by
  ext i hi
  rw [BitVec.getElem_extractLsb', getLsbD_withBits _ _ _ _ _ h, if_pos (by omega), Nat.add_sub_cancel_left, ← BitVec.getLsbD_eq_getElem,
    BitVec.getLsbD_ofNat, decide_eq_true hi, Bool.true_and]

theorem extractLsb'_withBits_other (w : Word) (lo len v lo' len' : Nat) (h : lo + len ≤ 64) (hd : lo' + len' ≤ lo ∨ lo + len ≤ lo') :
    (withBits w lo len v).extractLsb' lo' len' = w.extractLsb' lo' len' := by
  ext i hi
  have hn : ¬(lo ≤ lo' + i ∧ lo' + i < lo + len) := by omega
  simp [getLsbD_withBits _ _ _ _ _ h, hn]

/-- A word whose two lowest bits are cleared: a word-aligned address, the base of a trap vector. -/
theorem withBits_low_zero (w : Word) : withBits w 0 2 0 = w &&& 0xFFFFFFFFFFFFFFFC := by
  have hmask : ∀ i < 64, (0xFFFFFFFFFFFFFFFC : Word).getLsbD i = decide (2 ≤ i) := by decide
  refine BitVec.eq_of_getLsbD_eq fun i hi => ?_
  rw [getLsbD_withBits _ _ _ _ _ (by decide), BitVec.getLsbD_and, hmask i hi]
  by_cases h : i < 2
  · simp [h, Nat.not_le.mpr h]
  · simp [h, Nat.not_lt.mp h]

/-! ### Registers and retirement (01 R13, R23; 04 R72) -/

theorem Hart.setReg_zero (h : Hart) (v : Word) : h.setReg 0 v = h := if_pos rfl

theorem State.setX_zero (s : State) (v : Word) : s.setX 0 v = s := by
  rw [State.setX, Hart.setReg_zero]

/-- A write of a register changes nothing else of the machine. -/
theorem State.setX_frame (s : State) (d : Reg) (v : Word) : { s.setX d v with hart := { (s.setX d v).hart with x := s.hart.x } } = s := by
  unfold State.setX Hart.setReg
  split <;> rfl

theorem Hart.retireTo_of_settled (h : Hart) (pc : Word) (ha : h.ahead = none) : h.retireTo pc = { h with pc := pc, retired := h.retired + 1 } := by
  unfold Hart.retireTo
  rw [ha]

theorem Hart.retireTo_of_ahead (h : Hart) (pc : Word) (k : Nat) (ha : h.ahead = some k) : h.retireTo pc = { h with pc := pc, ahead := some (k + 1) } := by
  unfold Hart.retireTo
  rw [ha]

/-- Settles O1: the laws of the register file, and the two forms of retirement. -/
theorem registersAndRetirement : Obligations.RegistersAndRetirement := by
  refine ⟨fun s d r v => ⟨s.x_zero, s.setX_zero v, fun hd => ?written, fun hr => ?other, s.setX_frame d v⟩,
    fun s => ⟨fun ha => ?settled, fun k ha => ?ahead⟩⟩
  case written => rw [s.x_setX, if_pos ⟨rfl, hd⟩]
  case other => rw [s.x_setX, if_neg fun h => hr h.1]
  case settled => rw [State.retire, s.hart.retireTo_of_settled _ ha]
  case ahead => rw [State.retire, s.hart.retireTo_of_ahead _ k ha]

/-! ### Trap entry (01 R31) -/

/-- What entry leaves in the trap registers of the target level: pie holds ie, ie is clear, ppriv names the level left, and the rest of status stays. -/
theorem TrapRegs.enter_status (o : TrapRegs) (pc cause val : Word) (l : Level) :
    let n := o.enter pc cause val l
    n.status.getLsbD 1 = o.status.getLsbD 0 ∧ n.status.getLsbD 0 = false
      ∧ n.status.extractLsb' 2 2 = (match l with | .u => 0 | .s => 1 | .m => 3) ∧ n.status.extractLsb' 4 60 = o.status.extractLsb' 4 60 := by
  refine ⟨?pie, ?ie, ?ppriv, ?rest⟩
  case pie =>
    rw [TrapRegs.enter, getLsbD_withBits _ _ _ _ _ (by decide), if_neg (by decide), getLsbD_withBits _ _ _ _ _ (by decide), if_pos (by decide), bits_one]
    cases o.status.getLsbD 0 <;> rfl
  case ie =>
    rw [TrapRegs.enter, getLsbD_withBits _ _ _ _ _ (by decide), if_neg (by decide), getLsbD_withBits _ _ _ _ _ (by decide), if_pos (by decide), bits_one]
    cases o.status.getLsbD 0 <;> rfl
  case ppriv =>
    rw [TrapRegs.enter, extractLsb'_withBits_same _ _ _ _ (by decide)]
    cases l <;> rfl
  case rest =>
    rw [TrapRegs.enter, extractLsb'_withBits_other _ _ _ _ _ _ (by decide) (by decide), extractLsb'_withBits_other _ _ _ _ _ _ (by decide) (by decide)]

theorem trapTarget_eq_m (l : Level) (code : Nat) : trapTarget l code = .m ↔ l = .m ∨ code = 9 := by
  unfold trapTarget
  split <;> simp_all

/-- Entry at level M of a hart with no VFETCH pending. -/
theorem Hart.trap_to_m (h : Hart) (t : Trap) (ha : h.ahead = none) (hm : h.level = .m ∨ t.code = 9) :
    h.trap t = { h with
      trapM := h.trapM.enter h.pc (word t.code) t.tval h.level, level := .m, pc := h.trapM.tvec &&& 0xFFFFFFFFFFFFFFFC } := by
  rw [Hart.trap, h.settle_none ha, ← withBits_low_zero]
  exact if_pos ((trapTarget_eq_m _ _).mpr hm)

/-- Entry at level S of a hart with no VFETCH pending. -/
theorem Hart.trap_to_s (h : Hart) (t : Trap) (ha : h.ahead = none) (hm : ¬(h.level = .m ∨ t.code = 9)) :
    h.trap t = { h with
      trapS := h.trapS.enter h.pc (word t.code) t.tval h.level, level := .s, pc := h.trapS.tvec &&& 0xFFFFFFFFFFFFFFFC } := by
  rw [Hart.trap, h.settle_none ha, ← withBits_low_zero]
  exact if_neg (mt (trapTarget_eq_m _ _).mp hm)

theorem toNat_word_of_lt (n : Nat) (h : n < 2 ^ 16) : (word n).toNat = n := by
  rw [word, BitVec.toNat_ofNat, Nat.mod_eq_of_lt (Nat.lt_trans h (by decide))]

/-- Settles O7: the two targets of a trap, each with what entry writes into its registers. -/
theorem trapEntry : Obligations.TrapEntry := by
  intro s code val ha hc
  refine ⟨fun hm => ?_, fun hs => ?_, ?_⟩
  · rw [State.trap, s.hart.trap_to_m ⟨code, val⟩ ha hm]
    exact ⟨rfl, ⟨rfl, toNat_word_of_lt code hc, rfl, rfl, rfl, TrapRegs.enter_status ..⟩, rfl, rfl⟩
  · rw [State.trap, s.hart.trap_to_s ⟨code, val⟩ ha hs]
    exact ⟨rfl, ⟨rfl, toNat_word_of_lt code hc, rfl, rfl, rfl, TrapRegs.enter_status ..⟩, rfl, rfl⟩
  · by_cases hm : s.hart.level = .m ∨ code = 9
    · rw [State.trap, s.hart.trap_to_m ⟨code, val⟩ ha hm]
    · rw [State.trap, s.hart.trap_to_s ⟨code, val⟩ ha hm]

/-! ### Trap return, calls and breakpoints (01 R32; 04 R92) -/

/-- What TRET leaves in the trap registers of the level it leaves: ie holds pie, pie is set, ppriv is 0, and the rest stays. -/
theorem TrapRegs.leave_status (o : TrapRegs) :
    o.leave.status.getLsbD 0 = o.status.getLsbD 1 ∧ o.leave.status.getLsbD 1 = true ∧ o.leave.status.extractLsb' 2 2 = 0
      ∧ o.leave.status.extractLsb' 4 60 = o.status.extractLsb' 4 60 ∧ { o.leave with status := o.status } = o := by
  have hlow : ∀ i, i < 4 → o.leave.status.getLsbD i = (2 + (o.status.getLsbD 1).toNat).testBit i := fun i hi => by
    rw [TrapRegs.leave, getLsbD_withBits _ _ _ _ _ (by decide), if_pos ⟨Nat.zero_le i, by omega⟩, bits_one, Nat.sub_zero]
  refine ⟨?ie, ?pie, ?ppriv, ?rest, rfl⟩
  case ie =>
    rw [hlow 0 (by decide)]
    cases o.status.getLsbD 1 <;> rfl
  case pie =>
    rw [hlow 1 (by decide)]
    cases o.status.getLsbD 1 <;> rfl
  case ppriv =>
    have hhigh : ∀ b : Bool, ∀ i < 2, (2 + b.toNat).testBit (2 + i) = false := by decide
    refine BitVec.eq_of_getLsbD_eq fun i hi => ?_
    rw [BitVec.getLsbD_extractLsb', hlow _ (by omega), hhigh _ i hi, Bool.and_false]
    exact BitVec.getLsbD_zero.symm
  case rest => exact extractLsb'_withBits_other _ _ _ _ _ _ (by decide) (by decide)

/-- The level that a ppriv field stands for. -/
theorem Level.ofCode_ppriv (w : Word) :
    (w.extractLsb' 2 2 = 0 → Level.ofCode (bits w 2 2) = .u) ∧ (w.extractLsb' 2 2 = 1 → Level.ofCode (bits w 2 2) = .s)
      ∧ (w.extractLsb' 2 2 = 3 → Level.ofCode (bits w 2 2) = .m) := by
  rw [bits_eq_toNat_extractLsb']
  exact ⟨fun h => by rw [h]; rfl, fun h => by rw [h]; rfl, fun h => by rw [h]; rfl⟩

/-- TRET at M, of a hart with no VFETCH pending. -/
theorem exec_tret_of_m (s : State) (ha : s.hart.ahead = none) (hm : s.hart.level = .m) :
    exec .tret s = .next { s with hart := { s.hart with
      retired := s.hart.retired + 1, pc := s.hart.trapM.epc, level := Level.ofCode (bits s.hart.trapM.status 2 2), trapM := s.hart.trapM.leave } } := by
  have hu : s.hart.level ≠ .u := by rw [hm]; decide
  refine (if_neg hu).trans ?_
  rw [s.hart.retireTo_of_settled _ ha, Hart.tret, if_pos hm]

/-- TRET at S, of a hart with no VFETCH pending. -/
theorem exec_tret_of_s (s : State) (ha : s.hart.ahead = none) (hs : s.hart.level = .s) :
    exec .tret s = .next { s with hart := { s.hart with
      retired := s.hart.retired + 1, pc := s.hart.trapS.epc, level := Level.ofCode (bits s.hart.trapS.status 2 2), trapS := s.hart.trapS.leave } } := by
  have hu : s.hart.level ≠ .u := by rw [hs]; decide
  have hm : s.hart.level ≠ .m := by rw [hs]; decide
  refine (if_neg hu).trans ?_
  rw [s.hart.retireTo_of_settled _ ha, Hart.tret, if_neg hm]

/-- TRET at U is illegal. -/
theorem exec_tret_of_u (s : State) (hu : s.hart.level = .u) : exec .tret s = .next (s.trap ⟨2, 0x72000002⟩) :=
  (if_pos hu).trans (illegal_of_encode s .tret 0x72000002 rfl)

/-- SYSC raises the code of its level. -/
theorem exec_sysc (s : State) : exec .sysc s = .next (s.trap ⟨match s.hart.level with | .u => 8 | .s => 9 | .m => 11, 0⟩) := rfl

/-- Settles O8: TRET level by level, then the codes of SYSC and BRK. -/
theorem trapReturnAndCalls : Obligations.TrapReturnAndCalls := by
  refine ⟨fun s ha => ⟨fun hm => ?atM, fun hs => ?atS, exec_tret_of_u s⟩, fun s => ⟨fun h => ?_, fun h => ?_, fun h => ?_, rfl⟩⟩
  case atM =>
    exact ⟨_, exec_tret_of_m s ha hm, rfl, Level.ofCode_ppriv _, TrapRegs.leave_status _, rfl, rfl, rfl⟩
  case atS =>
    exact ⟨_, exec_tret_of_s s ha hs, rfl, Level.ofCode_ppriv _, TrapRegs.leave_status _, rfl, rfl, rfl⟩
  all_goals rw [exec_sysc, h]

end Sys2Proof.Machine
end

section
/-! Control registers (01 R16 to R26; 04 R89): which accesses complete and which are refused, what a write leaves to be read, and its frame. -/

namespace Sys2Proof.Machine

/-! ### Accesses (01 R16, R17; 04 R89) -/

theorem crLevelOk_iff (l : Level) (n : Nat) : crLevelOk l n = true ↔ n < 0x100 ∨ (n < 0x400 ∧ l ≠ .u) ∨ (n < 0x800 ∧ l = .m) := by
  unfold crLevelOk
  split
  · next h => exact ⟨fun _ => .inl h, fun _ => rfl⟩
  · next hu =>
    split
    · next hs =>
      rw [decide_eq_true_iff]
      refine ⟨fun hl => .inr (.inl ⟨hs, hl⟩), fun h => ?_⟩
      obtain h | ⟨-, hl⟩ | ⟨-, hl⟩ := h
      · exact absurd h hu
      · exact hl
      · rw [hl]
        decide
    · next hs =>
      split
      · next hm =>
        rw [decide_eq_true_iff]
        refine ⟨fun hl => .inr (.inr ⟨hm, hl⟩), fun h => ?_⟩
        obtain h | ⟨h, -⟩ | ⟨-, hl⟩ := h
        · exact absurd h hu
        · exact absurd h hs
        · exact hl
      · next hm =>
        refine ⟨fun h => (nomatch h), fun h => ?_⟩
        obtain h | ⟨h, -⟩ | ⟨h, -⟩ := h
        · exact absurd h hu
        · exact absurd h hs
        · exact absurd h hm

theorem crAccess_of_ok {l : Level} {n : Nat} {writes : Bool} {r : Cr} (hl : crLevelOk l n = true) (hr : crOf n = some r)
    (hw : writes = true → r.readOnly = false) : crAccess l n writes = some r := by
  rw [crAccess, if_pos hl, hr]
  cases writes
  · rfl
  · simp [hw rfl]

/-- The number is refused whatever the access does: it is unassigned or above the level (01 R17). -/
def crRefused (l : Level) (n : Nat) : Prop := crOf n = none ∨ (0x100 ≤ n ∧ l = .u) ∨ (0x400 ≤ n ∧ l ≠ .m)

/-- The number names a read-only register. -/
def crReadOnly (n : Nat) : Prop := ∃ r, crOf n = some r ∧ r.readOnly = true

theorem crAccess_of_refused {l : Level} {n : Nat} (writes : Bool) (h : crRefused l n) : crAccess l n writes = none := by
  unfold crAccess
  split
  · next hl =>
    rw [crLevelOk_iff] at hl
    have hn : crOf n = none := h.resolve_right (by cases l <;> simp at hl ⊢ <;> omega)
    rw [hn]
  · rfl

theorem crAccess_write_of_readOnly (l : Level) {n : Nat} (h : crReadOnly n) : crAccess l n true = none := by
  obtain ⟨r, hr, ho⟩ := h
  rw [crAccess, hr]
  simp [ho]

theorem crInstr_write {i : Instr} {s : State} {d : Reg} {crn : BitVec 12} {f : Word → Word} {r : Cr}
    (h : crAccess s.hart.level crn.toNat true = some r) :
    crInstr i s d crn (some f) = .next (((s.afterCrRead r).writeCr r (f (s.readCr r))).setX d (s.readCr r)).retire := by
  rw [crInstr, Option.isSome_some, h]
  rfl

theorem crInstr_read {i : Instr} {s : State} {d : Reg} {crn : BitVec 12} {r : Cr} (h : crAccess s.hart.level crn.toNat false = some r) :
    crInstr i s d crn none = .next ((s.afterCrRead r).setX d (s.readCr r)).retire := by
  rw [crInstr, Option.isSome_none, h]
  rfl

theorem crInstr_refused {i : Instr} {s : State} {d : Reg} {crn : BitVec 12} {new : Option (Word → Word)} {w : Word32}
    (h : crAccess s.hart.level crn.toNat new.isSome = none) (hw : encode i = some w) : crInstr i s d crn new = .next (s.trap ⟨2, w.setWidth 64⟩) := by
  rw [crInstr, h]
  exact illegal_of_encode s i w hw

/-- Settles O10: an access that level and register allow completes, by the two forms of `crInstr`; one that they do not is refused with its word. -/
theorem controlRegisterAccess : Obligations.ControlRegisterAccess := by
  refine ⟨fun s d a crn r hr hl => ?completes, fun s d a crn => ?refused⟩
  case completes =>
    have hok := (crLevelOk_iff _ _).mpr hl
    have hread := crAccess_of_ok (writes := false) hok hr (fun h => nomatch h)
    have hwrite (ho : r.readOnly = false) := crAccess_of_ok (writes := true) hok hr fun _ => ho
    refine ⟨fun ho => crInstr_write (hwrite ho), fun ha => ⟨?_, ?_⟩, fun ha ho => ⟨?_, ?_⟩⟩
    · exact (congrArg (crInstr (.crrs d a crn) s d crn) (if_pos ha)).trans (crInstr_read hread)
    · exact (congrArg (crInstr (.crrc d a crn) s d crn) (if_pos ha)).trans (crInstr_read hread)
    · exact (congrArg (crInstr (.crrs d a crn) s d crn) (if_neg ha)).trans (crInstr_write (hwrite ho))
    · exact (congrArg (crInstr (.crrc d a crn) s d crn) (if_neg ha)).trans (crInstr_write (hwrite ho))
  case refused =>
    have hwrite (h : crRefused s.hart.level crn.toNat ∨ crReadOnly crn.toNat) : crAccess s.hart.level crn.toNat true = none :=
      h.elim (crAccess_of_refused true) (crAccess_write_of_readOnly _)
    have hset (f : Word → Word) (h : crRefused s.hart.level crn.toNat ∨ (crReadOnly crn.toNat ∧ a ≠ 0)) :
        crAccess s.hart.level crn.toNat (if a = 0 then none else some f).isSome = none := by
      obtain h | ⟨h, ha⟩ := h
      · exact crAccess_of_refused _ h
      · rw [if_neg ha]
        exact crAccess_write_of_readOnly _ h
    exact ⟨fun h => crInstr_refused (hwrite h) rfl, fun h => ⟨crInstr_refused (hset _ h) rfl, crInstr_refused (hset _ h) rfl⟩⟩

/-! ### What a write leaves to be read (01 R19 to R21, R24 to R26) -/

theorem extractLsb'_and_mask (v m : Word) (lo len : Nat) (hm : m.extractLsb' lo len = BitVec.allOnes len) :
    (v &&& m).extractLsb' lo len = v.extractLsb' lo len := by
  rw [BitVec.extractLsb'_and, hm, BitVec.and_allOnes]

/-- status keeps ie, pie and emu of what is written, and none of its reserved bits. -/
theorem statusStore_fields (supervisor : Bool) (v : Word) :
    (statusStore supervisor v).extractLsb' 0 2 = v.extractLsb' 0 2 ∧ (statusStore supervisor v).getLsbD 4 = v.getLsbD 4
      ∧ (statusStore supervisor v).extractLsb' 5 59 = 0 := by
  unfold statusStore
  refine ⟨?_, ?_, ?_⟩
  · rw [extractLsb'_withBits_other _ _ _ _ _ _ (by decide) (by decide), extractLsb'_and_mask _ _ _ _ (by decide)]
  · rw [getLsbD_withBits _ _ _ _ _ (by decide), if_neg (by decide), BitVec.getLsbD_and]
    exact Bool.and_true _
  · rw [extractLsb'_withBits_other _ _ _ _ _ _ (by decide) (by decide), BitVec.extractLsb'_and]
    exact BitVec.and_zero

/-- ppriv keeps the codes that a status register holds. -/
theorem statusStore_ppriv (supervisor : Bool) (v : Word) :
    (statusStore supervisor v).extractLsb' 2 2
      = if v.extractLsb' 2 2 = 2 then 0 else if supervisor ∧ v.extractLsb' 2 2 = 3 then 1 else v.extractLsb' 2 2 := by
  unfold statusStore
  rw [extractLsb'_withBits_same _ _ _ _ (by decide), bits_eq_toNat_extractLsb']
  generalize v.extractLsb' 2 2 = p
  revert supervisor p
  decide

/-- tvec keeps its base. -/
theorem tvecStore_base (v : Word) : (tvecStore v).extractLsb' 2 62 = v.extractLsb' 2 62 := by
  unfold tvecStore
  split
  · exact extractLsb'_withBits_other _ _ _ _ _ _ (by decide) (by decide)
  · rfl

/-- tvec keeps the modes 0b00 and 0b01. -/
theorem tvecStore_mode (v : Word) : (tvecStore v).extractLsb' 0 2 = if v.getLsbD 1 then 0 else v.extractLsb' 0 2 := by
  unfold tvecStore
  rw [bits_one]
  cases v.getLsbD 1
  · rfl
  · exact extractLsb'_withBits_same _ _ _ _ (by decide)

/-! ### The frame of a write (04 R89) -/

@[simp] theorem State.core_withCore (s : State) (f : Core → Core) : (s.withCore f).core = f s.core := by
  rw [State.core, State.withCore, State.coreAt_modCore]
  exact if_pos rfl

/-- What is read after a change of the current core: the registers that the core holds as it leaves them, every other one as before. -/
theorem State.readCr_withCore (s : State) (f : Core → Core) (q : Cr) :
    (s.withCore f).readCr q = match q with
      | .zrdone => (f s.core).zrdone
      | .lanecap => (f s.core).lanecap
      | .pwrcap => (f s.core).pwrcap
      | .zstate => (f s.core).zstate
      | q => s.readCr q := by
  cases q with
  | zrdone => exact congrArg Core.zrdone (s.core_withCore f)
  | lanecap => exact congrArg Core.lanecap (s.core_withCore f)
  | pwrcap => exact congrArg Core.pwrcap (s.core_withCore f)
  | zstate => exact congrArg Core.zstate (s.core_withCore f)
  | _ => rfl

/-- A write changes what is read of its own register and of no other. -/
theorem State.readCr_writeCr (s : State) (r q : Cr) (v : Word) :
    (s.writeCr r v).readCr q = if q = r then (s.writeCr r v).readCr r else s.readCr q := by
  cases r with
  | lanecap | pwrcap | zstate =>
    rw [State.writeCr, State.readCr_withCore, State.readCr_withCore]
    cases q <;> rfl
  | _ => cases q <;> rfl

theorem State.tile_withCore (s : State) (f : Core → Core) (hf : ∀ k, (f k).tile = k.tile) (c : Nat) :
    ((s.withCore f).coreAt c).tile = (s.coreAt c).tile := by
  rw [State.withCore, State.coreAt_modCore]
  split
  · next h => rw [hf, h]
  · rfl

/-- A write leaves memory, the general registers, pc and level, the vector state, the tiles and the other harts. -/
theorem State.writeCr_frame (s : State) (r : Cr) (v : Word) :
    let t := s.writeCr r v
    t.mem = s.mem ∧ t.pend = s.pend ∧ t.poison = s.poison ∧ t.hart.x = s.hart.x ∧ t.hart.pc = s.hart.pc ∧ t.hart.level = s.hart.level
      ∧ t.hart.v = s.hart.v ∧ t.hart.vtag = s.hart.vtag ∧ t.hart.m = s.hart.m ∧ (∀ c, (t.coreAt c).tile = (s.coreAt c).tile)
      ∧ t.others = s.others := by
  cases r with
  | lanecap | pwrcap | zstate => exact ⟨rfl, rfl, rfl, rfl, rfl, rfl, rfl, rfl, rfl, s.tile_withCore _ fun _ => rfl, rfl⟩
  | _ => exact ⟨rfl, rfl, rfl, rfl, rfl, rfl, rfl, rfl, rfl, fun _ => rfl, rfl⟩

/-- Settles O11: each register reads what its field rules store, and a write reads through no other register. -/
theorem controlRegisterFields : Obligations.ControlRegisterFields := by
  refine ⟨fun s v => ⟨rfl, rfl, rfl, ?status, ?pprivM, ?pprivS, ?tvec, ?epc, ?cause, ?plain⟩,
    fun s r q v h => ⟨(s.readCr_writeCr r q v).trans (if_neg h), s.writeCr_frame r v⟩⟩
  case status => simpa using ⟨statusStore_fields true v, statusStore_fields false v⟩
  case pprivM => exact (statusStore_ppriv false v).trans (by simp)
  case pprivS => exact (statusStore_ppriv true v).trans (by simp)
  case tvec => simpa using ⟨⟨tvecStore_base v, tvecStore_mode v⟩, tvecStore_base v, tvecStore_mode v⟩
  case epc => simpa using ⟨withBits_low_zero v, withBits_low_zero v⟩
  case cause => simpa using ⟨rfl, rfl⟩
  case plain => simpa using ⟨rfl, rfl, rfl, rfl⟩

end Sys2Proof.Machine
end

section
/-! Loads, stores and AMOs that trap (01 R28, R34; 04 R78; 14 R297, R300, R301). -/

namespace Sys2Proof.Machine

/-! ### What an access that its checks refuse does (01 R28, R34) -/

theorem State.target_of_misaligned (s : State) (c : Ctx) (k : Kind) (va : Word) (n : Nat) (h : va.toNat % n ≠ 0) :
    s.target c k va n = .error ⟨k.misaligned, va⟩ := if_pos h

theorem State.load_of_target_error {s : State} {c : Ctx} {va : Word} {n : Nat} {t : Trap} (sc : Scope) (h : s.target c .load va n = .error t) :
    s.load c sc va n = .error t := by
  rw [State.load, h]

theorem State.store_of_target_error {s : State} {c : Ctx} {va : Word} {n : Nat} {t : Trap} (sc : Scope) (v : Nat) (h : s.target c .store va n = .error t) :
    s.store c sc va n v = .error t := by
  rw [State.store, h]

/-! ### Loads and stores (04 R78; 14 R297) -/

theorem orTrap_of_error {α : Type} {s : State} {r : Except Trap α} {t : Trap} (k : α → Result) (h : r = .error t) : orTrap s r k = .next (s.trap t) := by
  rw [h, orTrap_error]

theorem loadInstr_of_load_error {s : State} {va : Word} {n : Nat} {t : Trap} (d : Reg) (sg : Bool) (h : s.load s.ctx .hart va n = .error t) :
    loadInstr s d va n sg = .next (s.trap t) := orTrap_of_error _ h

theorem storeInstr_of_target_error {s : State} {va : Word} {n : Nat} {t : Trap} (b : Reg) (h : s.target s.ctx .store va n = .error t) :
    storeInstr s b va n = .next (s.trap t) :=
  orTrap_of_error _ (State.store_of_target_error _ _ h)

/-- The scalar loads, each with its number of bytes. -/
def scalarLoads (d a : Reg) (imm : BitVec 15) : List (Instr × Nat) :=
  [(.lb d a imm, 1), (.lbu d a imm, 1), (.lh d a imm, 2), (.lhu d a imm, 2), (.lw d a imm, 4), (.lwu d a imm, 4), (.ld d a imm, 8)]

/-- The scalar stores, each with its number of bytes. -/
def scalarStores (d a : Reg) (imm : BitVec 15) : List (Instr × Nat) := [(.sb d a imm, 1), (.sh d a imm, 2), (.sw d a imm, 4), (.sd d a imm, 8)]

theorem exec_of_mem_scalarLoads (s : State) {d a : Reg} {imm : BitVec 15} {p : Instr × Nat} (h : p ∈ scalarLoads d a imm) :
    ∃ sg, exec p.1 s = loadInstr s d (s.x a + imm.signExtend 64) p.2 sg := by
  simp only [scalarLoads, List.mem_cons, List.not_mem_nil, or_false] at h
  rcases h with rfl | rfl | rfl | rfl | rfl | rfl | rfl <;> exact ⟨_, rfl⟩

theorem exec_of_mem_scalarStores (s : State) {d a : Reg} {imm : BitVec 15} {p : Instr × Nat} (h : p ∈ scalarStores d a imm) :
    exec p.1 s = storeInstr s d (s.x a + imm.signExtend 64) p.2 := by
  simp only [scalarStores, List.mem_cons, List.not_mem_nil, or_false] at h
  rcases h with rfl | rfl | rfl | rfl <;> rfl

/-- A scalar load whose read fails raises its cause and does nothing else. -/
theorem exec_load_error {s : State} {d a : Reg} {imm : BitVec 15} {p : Instr × Nat} {t : Trap} (hp : p ∈ scalarLoads d a imm)
    (h : s.load s.ctx .hart (s.x a + imm.signExtend 64) p.2 = .error t) : exec p.1 s = .next (s.trap t) := by
  obtain ⟨sg, he⟩ := exec_of_mem_scalarLoads s hp
  rw [he, loadInstr_of_load_error d sg h]

/-- A scalar store that its checks refuse raises their cause and does nothing else. -/
theorem exec_store_error {s : State} {d a : Reg} {imm : BitVec 15} {p : Instr × Nat} {t : Trap} (hp : p ∈ scalarStores d a imm)
    (h : s.target s.ctx .store (s.x a + imm.signExtend 64) p.2 = .error t) : exec p.1 s = .next (s.trap t) := by
  rw [exec_of_mem_scalarStores s hp, storeInstr_of_target_error d h]

theorem exec_lds_error {s : State} {d a : Reg} {imm : BitVec 10} {sc : Scope} {t : Trap} (w : Width) (acq : Bool)
    (h : s.load s.ctx sc (s.x a + imm.signExtend 64) (w.bits / 8) = .error t) : exec (.lds w d a imm sc acq) s = .next (s.trap t) :=
  orTrap_of_error _ h

/-- An STS that its checks refuse, after its release, does nothing: not even the release. -/
theorem exec_sts_error {s : State} {d a : Reg} {imm : BitVec 10} {sc : Scope} {rel : Bool} {t : Trap} (w : Width)
    (h : (if rel then s.release (.hart s.cur) sc else s).target s.ctx .store (s.x a + imm.signExtend 64) (w.bits / 8) = .error t) :
    exec (.sts w d a imm sc rel) s = .next (s.trap t) :=
  orTrap_of_error _ (State.store_of_target_error sc _ h)

/-! ### AMOs (14 R300, R301) -/

/-- The scalar AMOs of one form. -/
def scalarAmos (dbl : Bool) (d a b : Reg) (sc : Scope) (ord : Ord) : List Instr :=
  [.amoadd dbl d a b sc ord, .amoand dbl d a b sc ord, .amoor dbl d a b sc ord, .amoxor dbl d a b sc ord, .amomin dbl d a b sc ord,
    .amomax dbl d a b sc ord, .amominu dbl d a b sc ord, .amomaxu dbl d a b sc ord, .amoswap dbl d a b sc ord, .amocas dbl d a b sc ord,
    .amofmax dbl d a b sc ord, .amofmin dbl d a b sc ord, .amofadd dbl d a b sc ord]

theorem exec_of_mem_scalarAmos (s : State) {dbl : Bool} {d a b : Reg} {sc : Scope} {ord : Ord} {i : Instr} (h : i ∈ scalarAmos dbl d a b sc ord) :
    ∃ host sg f, exec i s = amo s dbl d a sc ord host sg f := by
  simp only [scalarAmos, List.mem_cons, List.not_mem_nil, or_false] at h
  rcases h with rfl | rfl | rfl | rfl | rfl | rfl | rfl | rfl | rfl | rfl | rfl | rfl | rfl <;> exact ⟨_, _, _, by unfold exec; rfl⟩

theorem State.amoTarget_of_target_error {s : State} {c : Ctx} {va : Word} {n : Nat} {t : Trap} (host : Bool)
    (h : s.target c .store va n = .error t) : s.amoTarget c va n host = .error t := by
  rw [State.amoTarget, h]

/-- No AMO reaches a register or the boot ROM. -/
theorem State.amoTarget_of_not_mem {s : State} {c : Ctx} {va : Word} {n : Nat} {x : Target} (host : Bool)
    (h : s.target c .store va n = .ok x) (hx : ∀ pa b, x ≠ .mem pa b) : s.amoTarget c va n host = .error ⟨7, va⟩ := by
  rw [State.amoTarget, h]
  cases x with
  | mem pa b => exact absurd rfl (hx pa b)
  | rom pa => rfl
  | reg die off => rfl

/-- What is performed without a host's completer is performed with one. -/
theorem State.amoTarget_mono {s : State} {c : Ctx} {va : Word} {n pa : Nat} (host : Bool) (h : s.amoTarget c va n false = .ok pa) :
    s.amoTarget c va n host = .ok pa := by
  unfold State.amoTarget at h ⊢
  split at h
  · cases h
  · next p b ht =>
    split at h
    · next hp =>
      have hhost : s.homePerforms p host = true := by
        rw [State.homePerforms, Bool.or_false] at hp
        rw [State.homePerforms, hp, Bool.true_or]
      rw [if_pos hhost]
      exact h
    · cases h
  · cases h

theorem amo_of_target_error {s : State} {dbl : Bool} {a : Reg} {t : Trap} {host : Bool} (d : Reg) (sc : Scope) (ord : Ord) (sg : Bool)
    (f : Nat → Option Nat) (h : s.amoTarget s.ctx (s.x a) (amoBytes dbl) host = .error t) : amo s dbl d a sc ord host sg f = .next (s.trap t) :=
  orTrap_of_error _ h

theorem amo_of_poisoned {s : State} {dbl : Bool} {a : Reg} {pa : Nat} {host : Bool} (d : Reg) (sc : Scope) (ord : Ord) (sg : Bool)
    (f : Nat → Option Nat) (h : s.amoTarget s.ctx (s.x a) (amoBytes dbl) host = .ok pa) (hp : s.poisoned pa = true) :
    amo s dbl d a sc ord host sg f = .next (s.trap ⟨33, s.x a⟩) := by
  rw [amo, h, orTrap_ok, if_pos hp, raise_eq]

/-- Settles O17: every cause comes out of the checks of the access, which the instruction hands on as its trap. -/
theorem addressTraps : Obligations.AddressTraps := by
  refine ⟨fun s d a imm imm10 w sc ord => ⟨?_, ?_, ?_, ?_, ?_, ?_, ?_, ?_, ?_⟩, ?amos⟩
  · exact fun p hp hm => exec_load_error hp (State.load_of_target_error _ (s.target_of_misaligned _ _ _ _ hm))
  · exact fun p hp hm => exec_store_error hp (s.target_of_misaligned _ _ _ _ hm)
  · exact fun hm => ⟨exec_lds_error w ord (State.load_of_target_error _ (s.target_of_misaligned _ _ _ _ hm)),
      exec_sts_error w (State.target_of_misaligned _ _ _ _ _ hm)⟩
  · exact fun p hp t ht => exec_load_error hp (State.load_of_target_error _ ht)
  · exact fun p hp t ht => exec_store_error hp ht
  · exact fun t ht => exec_lds_error w ord (State.load_of_target_error _ ht)
  · exact fun t ht => exec_sts_error w ht
  · exact fun p hp pa h ht hpo => exec_load_error hp (State.load_poison ht hpo)
  · exact fun pa h ht hpo => exec_lds_error w ord (State.load_poison ht hpo)
  case amos =>
    intro s dbl d a b sc ord i n hi
    obtain ⟨host, sg, f, he⟩ := exec_of_mem_scalarAmos s hi
    rw [he]
    refine ⟨fun hm => ?misaligned, fun t ht => ?refused, fun x hx hn => ?elsewhere, fun pa hpa hp => ?poisoned⟩
    case misaligned => exact amo_of_target_error _ _ _ _ _ (State.amoTarget_of_target_error _ (s.target_of_misaligned _ _ _ _ hm))
    case refused => exact amo_of_target_error _ _ _ _ _ (State.amoTarget_of_target_error _ ht)
    case elsewhere => exact amo_of_target_error _ _ _ _ _ (State.amoTarget_of_not_mem _ hx hn)
    case poisoned => exact amo_of_poisoned _ _ _ _ _ (State.amoTarget_mono _ hpa) hp

end Sys2Proof.Machine
end

section
/-! The state at package reset (01 R30; 24 R438). -/

namespace Sys2Proof.Machine

/-! ### Package reset (01 R30; 24 R438) -/

/-- The vector configuration after reset: illegal, no columns, one row, from the first element (05 R101). -/
theorem Hart.reset_vectorConfig (k : Nat) :
    (Hart.reset k).ill = true ∧ (Hart.reset k).ncols = 0 ∧ (Hart.reset k).nrows = 1 ∧ (Hart.reset k).start = 0 :=
  ⟨show bitSet 0x8000000000000000 63 = true by decide, show bits 0 0 14 = 0 by decide, show bits 1 0 7 = 1 by decide, show bits 0 0 14 = 0 by decide⟩

/-- Every slot stands at reset as its place within its core has it. -/
theorem State.hartAt_reset (h : Nat) : State.reset.hartAt h = Hart.reset (slotOf h) := by
  unfold State.hartAt
  split
  · next hc => rw [hc]; rfl
  · rfl

theorem State.stream_reset (h q : Nat) : State.reset.stream h q = Stream.unbound := by
  rw [State.stream, State.hartAt_reset]
  rfl

/-- No die has changed its state at reset, and every one is at state 0 (22 R412). -/
theorem State.diestate_reset : State.reset.diestate = 0 := by decide

/-- Settles O54: reset read off slot by slot, core by core and die by die. -/
theorem resetState : Obligations.ResetState := by
  refine ⟨fun h _ => ?slots, fun _ => ⟨rfl, rfl, rfl, rfl, rfl⟩, fun _ _ => rfl, fun _ => ⟨rfl, rfl, rfl, rfl, rfl⟩, State.diestate_reset, rfl, rfl⟩
  case slots =>
    simp only [State.hartAt_reset, State.stream_reset]
    obtain ⟨hill, hcols, hrows, hstart⟩ := Hart.reset_vectorConfig (slotOf h)
    exact ⟨rfl, rfl, fun _ => rfl, rfl, rfl, rfl, rfl, rfl, rfl, rfl, rfl, rfl, hill, hcols, hrows, hstart, fun _ => ⟨rfl, rfl, rfl⟩, fun _ => rfl, rfl,
      rfl, rfl, rfl, rfl, rfl, rfl, rfl, rfl, rfl, rfl, rfl, rfl, rfl, rfl, rfl, rfl, rfl, rfl, rfl, rfl, rfl, rfl, rfl, fun _ => rfl⟩

end Sys2Proof.Machine
end

section
/-! A step as the turn at the head of the agenda (01 R29, R33; 19 R372; 20 R393). -/

namespace Sys2Proof.Machine

/-! ### The current hart stays while its turn begins (20 R393) -/

@[simp] theorem State.raiseVector_cur (s : State) (vec : Nat) : (s.raiseVector vec).cur = s.cur := by
  unfold State.raiseVector
  dsimp only
  split <;> rfl

@[simp] theorem State.record_cur (s : State) (d kind : Nat) (lasting : Bool) (site : Nat) (addr asid : Word) (hartid info : Nat) :
    (s.record d kind lasting site addr asid hartid info).cur = s.cur := by
  unfold State.record State.logRecord
  dsimp only
  split
  · rfl
  · split
    · exact State.raiseVector_cur ..
    · rfl

@[simp] theorem State.putSpare_cur (s : State) (c lane : Nat) : (s.putSpare c lane).cur = s.cur := rfl

@[simp] theorem State.spareLane_cur (s : State) (c lane : Nat) : (s.spareLane c lane).cur = s.cur := by
  unfold State.spareLane
  dsimp only
  split
  · rfl
  · split
    · split <;> simp
    · split
      · simp
      · split <;> simp

@[simp] theorem State.tendLane_cur (s : State) (c lane : Nat) : (s.tendLane c lane).cur = s.cur := by
  unfold State.tendLane
  split
  · simp
  · split
    · simp
    · split <;> simp

theorem foldl_cur {α : Type} (f : State → α → State) (h : ∀ s a, (f s a).cur = s.cur) (l : List α) (s : State) : (l.foldl f s).cur = s.cur := by
  induction l generalizing s with
  | nil => rfl
  | cons a l ih => exact (ih _).trans (h s a)

@[simp] theorem State.tendLanes_cur (s : State) (c : Nat) : (s.tendLanes c).cur = s.cur := by
  unfold State.tendLanes
  split
  · rfl
  · exact foldl_cur _ (fun s lane => s.tendLane_cur c lane) _ s

@[simp] theorem State.performFetches_cur (s : State) : s.performFetches.cur = s.cur := by
  unfold State.performFetches
  split
  · rfl
  · exact foldl_cur _ (fun u r => u.requestAll_cur _ _ _) _ s

@[simp] theorem State.noteContext_cur (s : State) : s.noteContext.cur = s.cur := by
  unfold State.noteContext
  dsimp only
  split <;> rfl

@[simp] theorem State.beginTurn_cur (s : State) : s.beginTurn.cur = s.cur := by
  unfold State.beginTurn
  dsimp only
  split <;> simp

/-! ### A turn that the agenda gives (01 R33; 19 R372) -/

/-- Time passes as it does between turns at different clk, where no turn of the same clk is under way. -/
theorem State.passTurn_of_head {s : State} {t : Turn} {rest : List Turn} (ha : s.agenda = t :: rest) (ht : ∀ hs, t ≠ .same true hs) :
    s.passTurn = s.pass := by
  unfold State.passTurn
  rw [ha]
  split
  · next h => exact absurd (List.cons.inj h).1 (ht _)
  · rfl

@[simp] theorem State.passTurn_agenda (s : State) : s.passTurn.agenda = s.agenda := by
  unfold State.passTurn
  split <;> rfl

@[simp] theorem State.passTurn_frozen (s : State) : s.passTurn.frozen = s.frozen := by
  unfold State.passTurn
  split <;> rfl

/-- A package that is not frozen gives the turn at the head of its agenda. -/
theorem step_of_head {s : State} {t : Turn} {rest : List Turn} (hf : s.frozen = false) (ha : s.agenda = t :: rest) :
    step s = agendaTurn t { s.passTurn with agenda := rest } := by
  unfold step turn
  dsimp only
  rw [s.passTurn_agenda, s.passTurn_frozen, ha, hf]
  rfl

/-- A turn in which no error strikes. -/
theorem struckTurn_none (own : Bool) (s : State) (go : Option HwError → Result) : struckTurn own s none go = mapNext State.disarm (go none) := by
  unfold struckTurn
  split
  · next h _ => cases h
  · rfl

/-- The turn of slot `h` in which no error strikes. -/
theorem agendaTurn_hart {h : Nat} (alone : Bool) (s : State) (hh : isHart h = true) :
    agendaTurn (.hart h alone none none) s = mapNext State.disarm (hartTurn (s.arm h alone none none)) := by
  rw [agendaTurn, if_pos hh, armedTurn, struckTurn_none]

/-- A hart that runs, of a die in service, none of whose lanes is copied, runs its next word where no retirement and no interrupt is due. -/
theorem hartTurn_running {s : State} (hd : s.admitted (dieOf s.cur) = true) (hr : s.hart.run = .running) (hc : s.copiesLane s.cur = false)
    (hm : s.mustRetire = false) (ha : s.asyncDue = none) (hu : s.userDue = none) : hartTurn s = runWord s := by
  rw [hartTurn, if_pos hd, hr]
  simp [hc, issueTurn, hm, ha, hu]

theorem runWord_of_fetch_error {s : State} {t : Trap} (h : s.fetch s.hart.pc 4 = .error t) : runWord s = .next (s.trap t) := by
  rw [runWord, h]

theorem runWord_of_illegal {s : State} {w : Nat} {e : Reject} (h : s.fetch s.hart.pc 4 = .ok w) (hd : decode (BitVec.ofNat 32 w) = .error e) :
    runWord s = .next (s.trap ⟨2, word w⟩) := by
  rw [runWord, h]
  simp only [hd, raise_eq]

theorem runWord_of_decoded {s : State} {w : Nat} {i : Instr} (h : s.fetch s.hart.pc 4 = .ok w) (hd : decode (BitVec.ofNat 32 w) = .ok i) :
    runWord s = exec i s := by
  rw [runWord, h]
  simp only [hd]

/-- Settles O58: the step hands its turn to the head of the agenda; a hart's turn runs the fetched word, an event's is `exec` of it. -/
theorem stepRunsDecoded : Obligations.StepRunsDecoded := by
  intro s rest hf t
  have hpass (x : Turn) (ha : s.agenda = x :: rest) (hx : ∀ hs, x ≠ .same true hs) : ({ s.passTurn with agenda := rest } : State) = t := by
    simp only [State.passTurn_of_head ha hx, State.pass, hf, Bool.not_false, Bool.and_true, t]
  refine ⟨?hart, fun i ha hi => ?event⟩
  case hart =>
    intro h alone ha hh u hd hr hc hm has hus
    have hstep : step s = mapNext State.disarm (runWord u) := by
      rw [step_of_head hf ha, hpass _ ha (fun _ h => nomatch h), agendaTurn_hart alone _ hh, hartTurn_running hd hr hc hm has hus]
    refine ⟨fun w i hw hi => ?_, fun w e hw he => ?_, fun x hx => ?_⟩
    · rw [hstep, runWord_of_decoded hw hi]
    · rw [hstep, runWord_of_illegal hw he]
      rfl
    · rw [hstep, runWord_of_fetch_error hx]
      rfl
  case event =>
    rw [step_of_head hf ha, hpass _ ha (fun _ h => nomatch h), agendaTurn, if_pos hi, armedEvent, eventTurn, State.beginTurn_cur]

end Sys2Proof.Machine
end

section
/-! Nothing is refused (01 R31; 19 R372): every meaning has a next state, and so has every turn but that of a number that is no hart. -/

namespace Sys2Proof.Machine

/-! ### Every meaning goes on (01 R31; 04 R72) -/

theorem goesOn_ite {c : Prop} [Decidable c] {a b : Result} (ha : goesOn a) (hb : goesOn b) : goesOn (if c then a else b) := by
  split
  · exact ha
  · exact hb

theorem goesOn_orTrap {α : Type} {s : State} {r : Except Trap α} {k : α → Result} (hk : ∀ a, goesOn (k a)) : goesOn (orTrap s r k) := by
  cases r with
  | error t => exact ⟨_, rfl⟩
  | ok a => exact hk a

/-! The shared operations. -/

theorem crInstr_goesOn (i : Instr) (s : State) (d : Reg) (crn : BitVec 12) (new : Option (Word → Word)) : goesOn (crInstr i s d crn new) := by
  unfold crInstr
  split
  · exact ⟨_, rfl⟩
  · cases new <;> exact ⟨_, rfl⟩

theorem divide_goesOn (s : State) (d : Reg) (sg : Bool) (n : Nat) (a b : Int) (v : Word) : goesOn (divide s d sg n a b v) := by
  unfold divide
  split <;> exact ⟨_, rfl⟩

theorem fpRound_goesOn (i : Instr) (s : State) (f : SFmt) (rm : RMode) (d : Reg) (op : Bool → FVal × Nat) : goesOn (fpRound i s f rm d op) := by
  unfold fpRound
  split <;> exact ⟨_, rfl⟩

theorem fma_goesOn (i : Instr) (s : State) (f : SFmt) (np na : Bool) (rm : RMode) (d a b c : Reg) : goesOn (fma i s f np na rm d a b c) :=
  fpRound_goesOn ..

theorem amo_goesOn (s : State) (dbl : Bool) (d a : Reg) (sc : Scope) (ord : Ord) (host sg : Bool) (f : Nat → Option Nat) :
    goesOn (amo s dbl d a sc ord host sg f) := goesOn_orTrap fun _ => goesOn_ite ⟨_, rfl⟩ ⟨_, rfl⟩

theorem wloadLoad_goesOn (i : Instr) (a : Reg) (n : Nat) (s : State) : goesOn (wloadLoad i a n s) :=
  goesOn_ite ⟨_, rfl⟩ (goesOn_orTrap fun _ => goesOn_ite ⟨_, rfl⟩ (goesOn_ite ⟨_, rfl⟩ (goesOn_ite ⟨_, rfl⟩ ⟨_, rfl⟩)))

theorem wloadEmpty_goesOn (n : Nat) (s : State) : goesOn (wloadEmpty n s) := goesOn_ite ⟨_, rfl⟩ (goesOn_ite ⟨_, rfl⟩ ⟨_, rfl⟩)

theorem wloadEmptyAll_goesOn (i : Instr) (asid : Word) (s : State) : goesOn (wloadEmptyAll i asid s) := goesOn_ite ⟨_, rfl⟩ ⟨_, rfl⟩

theorem recvTake_goesOn (d a : Reg) (s : State) : goesOn (recvTake d a s) := by
  unfold recvTake
  split
  · exact ⟨_, rfl⟩
  · split <;> exact ⟨_, rfl⟩

theorem rputGo_goesOn (d : Reg) (sc : Scope) (k : RingSlot) (s : State) : goesOn (rputGo d sc k s) := by
  unfold rputGo
  split
  · exact goesOn_ite ⟨_, rfl⟩ ⟨_, rfl⟩
  · exact ⟨_, rfl⟩

theorem rtakeGo_goesOn (d : Reg) (sc : Scope) (k : RingSlot) (s : State) : goesOn (rtakeGo d sc k s) := by
  unfold rtakeGo
  split
  · exact goesOn_ite ⟨_, rfl⟩ ⟨_, rfl⟩
  · exact ⟨_, rfl⟩

theorem unbindStream_goesOn (i : Instr) (d : Reg) (q : Nat) (s : State) : goesOn (unbindStream i d q s) := goesOn_ite ⟨_, rfl⟩ ⟨_, rfl⟩

theorem bindStream_goesOn (i : Instr) (d a : Reg) (q : Nat) (s : State) : goesOn (bindStream i d a q s) :=
  goesOn_orTrap fun _ => goesOn_ite ⟨_, rfl⟩ (goesOn_ite ⟨_, rfl⟩ ⟨_, rfl⟩)

theorem vldqEnd_goesOn (v : BitVec 6) (q : BitVec 4) (start : Nat) (r : State × Nat × QEnd) : goesOn (vldqEnd v q start r) := by
  obtain ⟨s, e, k⟩ := r
  cases k <;> exact ⟨_, rfl⟩

theorem offerEdge_goesOn (d : Reg) (t : Transfer) (hints : Nat) (s : State) : goesOn (offerEdge d t hints s) := by
  unfold offerEdge
  dsimp only
  split
  · exact ⟨_, rfl⟩
  · exact goesOn_ite ⟨_, rfl⟩ ⟨_, rfl⟩

theorem swaitMail_goesOn (d a b : Reg) (s : State) : goesOn (swaitMail d a b s) :=
  goesOn_ite ⟨_, rfl⟩ (goesOn_orTrap fun _ => goesOn_ite ⟨_, rfl⟩ (goesOn_ite ⟨_, rfl⟩ ⟨_, rfl⟩))

theorem swaitQ_goesOn (d a b : Reg) (s : State) : goesOn (swaitQ d a b s) :=
  goesOn_ite ⟨_, rfl⟩ (goesOn_ite (goesOn_ite ⟨_, rfl⟩ ⟨_, rfl⟩) ⟨_, rfl⟩)

theorem saveNow_goesOn (d a b : Reg) (t : Word) (s : State) : goesOn (saveNow d a b t s) := by
  unfold saveNow
  split <;> exact ⟨_, rfl⟩

theorem loadNow_goesOn (i : Instr) (a : Reg) (ws : List Nat) (cr : Option Crew) (s : State) : goesOn (loadNow i a ws cr s) := by
  unfold loadNow
  dsimp only
  refine goesOn_ite ?_ ⟨_, rfl⟩
  split <;> exact ⟨_, rfl⟩

theorem runBlock_goesOn (k : HeldBlock) (s : State) : goesOn (runBlock k s) := by
  unfold runBlock
  dsimp only
  split <;> exact ⟨_, rfl⟩

theorem runWords_goesOn (b : Word) (ws : List (BitVec 64)) (stg n : Nat) (s : State) : goesOn (runWords b ws stg n s) := by
  unfold runWords
  split
  · exact ⟨_, rfl⟩
  · exact runBlock_goesOn ..

theorem runLone_goesOn (i : Instr) (s : State) : goesOn (runLone i s) := by
  unfold runLone
  dsimp only
  refine goesOn_ite ⟨_, rfl⟩ ?_
  split
  · exact runWords_goesOn ..
  · exact ⟨_, rfl⟩

/-! The meanings that decide by a case of their own. -/

theorem execFcvt_goesOn (dst src : CvtType) (rm : RMode) (d a : Reg) (s : State) : goesOn (execFcvt dst src rm d a s) := by
  unfold execFcvt
  split <;> exact ⟨_, rfl⟩

theorem execWload_goesOn (a b : Reg) (s : State) : goesOn (execWload a b s) := by
  unfold execWload
  split
  · exact wloadLoad_goesOn ..
  · exact wloadEmpty_goesOn ..
  · exact wloadEmptyAll_goesOn ..
  · exact ⟨_, rfl⟩

theorem execWloadFetchComplete_goesOn (cluster : Nat) (s : State) : goesOn (execWloadFetchComplete cluster s) := by
  unfold execWloadFetchComplete
  split
  · exact ⟨_, rfl⟩
  · dsimp only
    split <;> exact ⟨_, rfl⟩

theorem execZsave_goesOn (a : Reg) (s : State) : goesOn (execZsave a s) := by
  unfold execZsave
  refine goesOn_ite ⟨_, rfl⟩ (goesOn_ite ⟨_, rfl⟩ (goesOn_ite ⟨_, rfl⟩ ?_))
  split <;> exact ⟨_, rfl⟩

theorem execZload_goesOn (a : Reg) (s : State) : goesOn (execZload a s) := by
  unfold execZload
  refine goesOn_ite ⟨_, rfl⟩ (goesOn_ite ⟨_, rfl⟩ ?_)
  dsimp only
  split <;> exact ⟨_, rfl⟩

theorem execAdinvComplete_goesOn (s : State) : goesOn (execAdinvComplete s) := by
  unfold execAdinvComplete
  split <;> exact ⟨_, rfl⟩

theorem execSpawn_goesOn (d a b : Reg) (s : State) : goesOn (execSpawn d a b s) := by
  unfold execSpawn
  split
  · exact ⟨_, rfl⟩
  · refine goesOn_orTrap fun ws => ?_
    dsimp only
    split
    · exact ⟨_, rfl⟩
    · split <;> exact ⟨_, rfl⟩

theorem execSpawnChildStart_goesOn (core : Nat) (s : State) : goesOn (execSpawnChildStart core s) := by
  unfold execSpawnChildStart
  split
  · exact ⟨_, rfl⟩
  · split
    · exact ⟨_, rfl⟩
    · split <;> exact ⟨_, rfl⟩

theorem execSend_goesOn (d a b : Reg) (s : State) : goesOn (execSend d a b s) := by
  refine goesOn_orTrap fun ws => ?_
  dsimp only
  split
  · exact ⟨_, rfl⟩
  · exact goesOn_ite ⟨_, rfl⟩ ⟨_, rfl⟩

theorem execRecv_goesOn (d a : Reg) (s : State) : goesOn (execRecv d a s) := by
  unfold execRecv
  split
  · exact ⟨_, rfl⟩
  · exact goesOn_ite ⟨_, rfl⟩ (recvTake_goesOn ..)

theorem execRecvWake_goesOn (s : State) : goesOn (execRecvWake s) := by
  unfold execRecvWake
  split
  · exact goesOn_ite (recvTake_goesOn ..) ⟨_, rfl⟩
  · exact ⟨_, rfl⟩

theorem execRecvTimeout_goesOn (s : State) : goesOn (execRecvTimeout s) := by
  unfold execRecvTimeout
  split
  · exact goesOn_ite ⟨_, rfl⟩ ⟨_, rfl⟩
  · exact ⟨_, rfl⟩

theorem execPgrab_goesOn (d d2 : Reg) (s : State) : goesOn (execPgrab d d2 s) := by
  unfold execPgrab
  refine goesOn_ite ⟨_, rfl⟩ ?_
  split
  · exact ⟨_, rfl⟩
  · exact goesOn_ite ⟨_, rfl⟩ (goesOn_orTrap fun _ => goesOn_ite ⟨_, rfl⟩ ⟨_, rfl⟩)

theorem execPdone_goesOn (d a : Reg) (s : State) : goesOn (execPdone d a s) := by
  unfold execPdone
  split
  · exact ⟨_, rfl⟩
  · split
    · split <;> exact ⟨_, rfl⟩
    · exact ⟨_, rfl⟩

theorem execPnarrive_goesOn (d a b : Reg) (s : State) : goesOn (execPnarrive d a b s) := by
  unfold execPnarrive
  split
  · exact ⟨_, rfl⟩
  · exact goesOn_ite ⟨_, rfl⟩ ⟨_, rfl⟩

theorem execPnwait_goesOn (d a b : Reg) (s : State) : goesOn (execPnwait d a b s) := by
  unfold execPnwait pnwaitTry
  split
  · exact ⟨_, rfl⟩
  · exact goesOn_ite ⟨_, rfl⟩ (goesOn_ite ⟨_, rfl⟩ ⟨_, rfl⟩)

theorem execPnwaitWake_goesOn (s : State) : goesOn (execPnwaitWake s) := by
  unfold execPnwaitWake
  split
  · split
    · exact goesOn_ite ⟨_, rfl⟩ ⟨_, rfl⟩
    · exact ⟨_, rfl⟩
  · exact ⟨_, rfl⟩

theorem execRput_goesOn (d a b : Reg) (sc : Scope) (s : State) : goesOn (execRput d a b sc s) := by
  refine goesOn_orTrap fun r => ?_
  split
  · exact ⟨_, rfl⟩
  · exact goesOn_ite ⟨_, rfl⟩ (rputGo_goesOn ..)

theorem execRputSlotFree_goesOn (s : State) : goesOn (execRputSlotFree s) := by
  unfold execRputSlotFree
  split
  · exact rputGo_goesOn ..
  · exact ⟨_, rfl⟩

theorem execRtake_goesOn (d a b : Reg) (sc : Scope) (s : State) : goesOn (execRtake d a b sc s) := by
  refine goesOn_orTrap fun r => ?_
  split
  · exact ⟨_, rfl⟩
  · exact goesOn_ite ⟨_, rfl⟩ (rtakeGo_goesOn ..)

theorem execRtakeSlotFull_goesOn (s : State) : goesOn (execRtakeSlotFull s) := by
  unfold execRtakeSlotFull
  split
  · exact rtakeGo_goesOn ..
  · exact ⟨_, rfl⟩

theorem execEndHart_goesOn (s : State) : goesOn (execEndHart s) := by
  unfold execEndHart
  dsimp only
  split
  · exact ⟨_, rfl⟩
  · exact goesOn_ite ⟨_, rfl⟩ ⟨_, rfl⟩

theorem execCflush_goesOn (d a b : Reg) (sc : Scope) (s : State) : goesOn (execCflush d a b sc s) := by
  unfold execCflush
  dsimp only
  split <;> exact ⟨_, rfl⟩

theorem execTlbinvComplete_goesOn (s : State) : goesOn (execTlbinvComplete s) := by
  unfold execTlbinvComplete
  split
  · exact goesOn_ite ⟨_, rfl⟩ ⟨_, rfl⟩
  · exact ⟨_, rfl⟩

theorem execVfetch_goesOn (xc : Reg) (stg : BitVec 3) (off : BitVec 17) (s : State) : goesOn (execVfetch xc stg off s) :=
  goesOn_ite ⟨_, rfl⟩ (goesOn_ite ⟨_, rfl⟩ (goesOn_ite ⟨_, rfl⟩ (goesOn_orTrap fun _ => runWords_goesOn ..)))

theorem execVldq_goesOn (v : BitVec 6) (q : BitVec 4) (s : State) : goesOn (execVldq v q s) := by
  unfold execVldq
  split
  · exact ⟨_, rfl⟩
  · exact vldqEnd_goesOn ..

theorem execVstq_goesOn (v : BitVec 6) (q : BitVec 4) (s : State) : goesOn (execVstq v q s) := by
  unfold execVstq
  split
  · exact ⟨_, rfl⟩
  · dsimp only
    split <;> exact ⟨_, rfl⟩

theorem execStreamElementWrite_goesOn (hart : Nat) (q : BitVec 4) (s : State) : goesOn (execStreamElementWrite hart q s) := by
  unfold execStreamElementWrite
  dsimp only
  refine goesOn_ite ?_ ⟨_, rfl⟩
  split <;> exact ⟨_, rfl⟩

theorem execSkickOfferRetry_goesOn (s : State) : goesOn (execSkickOfferRetry s) := by
  unfold execSkickOfferRetry
  split
  · exact goesOn_ite (offerEdge_goesOn ..) ⟨_, rfl⟩
  · exact ⟨_, rfl⟩

theorem execCopyTransfer_goesOn (engine : EngineId) (s : State) : goesOn (execCopyTransfer engine s) := by
  unfold execCopyTransfer
  split
  · exact goesOn_ite ⟨_, rfl⟩ ⟨_, rfl⟩
  · exact ⟨_, rfl⟩

theorem execPageMigration_goesOn (engine : EngineId) (s : State) : goesOn (execPageMigration engine s) := by
  unfold execPageMigration
  split
  · refine goesOn_ite ?_ ⟨_, rfl⟩
    dsimp only
    split
    · split <;> exact ⟨_, rfl⟩
    · exact goesOn_ite ⟨_, rfl⟩ (goesOn_ite ⟨_, rfl⟩ (goesOn_ite ⟨_, rfl⟩ (goesOn_ite ⟨_, rfl⟩ ⟨_, rfl⟩)))
  · exact ⟨_, rfl⟩

theorem execTransferComplete_goesOn (engine : EngineId) (s : State) : goesOn (execTransferComplete engine s) := by
  unfold execTransferComplete
  split
  · split <;> exact ⟨_, rfl⟩
  · exact ⟨_, rfl⟩

theorem execSwaitWake_goesOn (s : State) : goesOn (execSwaitWake s) := by
  unfold execSwaitWake
  split
  · exact goesOn_ite (swaitQ_goesOn ..) (swaitMail_goesOn ..)
  · exact ⟨_, rfl⟩

theorem execSsave_goesOn (a : Reg) (s : State) : goesOn (execSsave a s) := by
  unfold execSsave
  refine goesOn_ite ⟨_, rfl⟩ (goesOn_ite ?_ ⟨_, rfl⟩)
  dsimp only
  split <;> exact ⟨_, rfl⟩

theorem execSload_goesOn (a : Reg) (s : State) : goesOn (execSload a s) := by
  refine goesOn_ite ⟨_, rfl⟩ (goesOn_ite (goesOn_orTrap fun ws => ?_) ⟨_, rfl⟩)
  dsimp only
  split <;> exact ⟨_, rfl⟩

theorem execCtxload_goesOn (a : Reg) (s : State) : goesOn (execCtxload a s) := by
  refine goesOn_ite ⟨_, rfl⟩ (goesOn_ite ⟨_, rfl⟩ (goesOn_orTrap fun ws => goesOn_ite ?_ ⟨_, rfl⟩))
  split
  · exact loadNow_goesOn ..
  · exact ⟨_, rfl⟩

theorem execAsyncInterruptEntry_goesOn (s : State) : goesOn (execAsyncInterruptEntry s) := by
  unfold execAsyncInterruptEntry
  split
  · exact goesOn_ite ⟨_, rfl⟩ ⟨_, rfl⟩
  · exact ⟨_, rfl⟩

theorem execUserInterruptEntry_goesOn (s : State) : goesOn (execUserInterruptEntry s) := by
  unfold execUserInterruptEntry
  split <;> exact ⟨_, rfl⟩

theorem execMatrixSlotReady_goesOn (s : State) : goesOn (execMatrixSlotReady s) := by
  unfold execMatrixSlotReady
  refine goesOn_ite ?_ ⟨_, rfl⟩
  split
  · exact runBlock_goesOn ..
  · exact ⟨_, rfl⟩

theorem execBuntingFillArrive_goesOn (cluster : Nat) (s : State) : goesOn (execBuntingFillArrive cluster s) := by
  unfold execBuntingFillArrive
  dsimp only
  split
  · exact ⟨_, rfl⟩
  · refine goesOn_ite ⟨_, rfl⟩ ?_
    split
    · exact ⟨_, rfl⟩
    · exact goesOn_ite ⟨_, rfl⟩ ⟨_, rfl⟩
    · exact ⟨_, rfl⟩

theorem execSlotReloadComplete_goesOn (cluster slot : Nat) (s : State) : goesOn (execSlotReloadComplete cluster slot s) := by
  unfold execSlotReloadComplete
  refine goesOn_ite ?_ ⟨_, rfl⟩
  dsimp only
  split <;> exact ⟨_, rfl⟩

theorem execLaneSpareComplete_goesOn (core : Nat) (s : State) : goesOn (execLaneSpareComplete core s) := by
  unfold execLaneSpareComplete
  split
  · exact ⟨_, rfl⟩
  · split <;> exact ⟨_, rfl⟩

theorem execWqSlotTake_goesOn (queue : Nat) (s : State) : goesOn (execWqSlotTake queue s) := by
  unfold execWqSlotTake
  dsimp only
  split <;> exact ⟨_, rfl⟩

theorem execWaitCycleDetect_goesOn (die : Nat) (s : State) : goesOn (execWaitCycleDetect die s) := by
  unfold execWaitCycleDetect
  refine goesOn_ite ⟨_, rfl⟩ (goesOn_ite ⟨_, rfl⟩ ?_)
  split <;> exact ⟨_, rfl⟩

/-- No meaning ends in a fault or a refusal (01 R31): every one completes, traps, waits or leaves the machine as it is. -/
theorem exec_goesOn (i : Instr) (s : State) : goesOn (exec i s) := by
  unfold exec
  cases i with
  | crrw | crrs | crrc => exact crInstr_goesOn ..
  | div | divu | rem | remu => exact divide_goesOn ..
  | fadd | fsub | fmul | fdiv | fsqrt => exact fpRound_goesOn ..
  | fmaF16 | fmaF32 | fmaF64 => exact fma_goesOn ..
  | fcvt => exact execFcvt_goesOn ..
  | lb | lbu | lh | lhu | lw | lwu | ld | sb | sh | sw | sd | lds | sts => exact goesOn_orTrap fun _ => ⟨_, rfl⟩
  | amoadd | amoand | amoor | amoxor | amomin | amomax | amominu | amomaxu | amoswap | amocas | amofmax | amofmin | amofadd => exact amo_goesOn ..
  | cflush => exact execCflush_goesOn ..
  | tlbinvComplete => exact execTlbinvComplete_goesOn ..
  | vfetch => exact execVfetch_goesOn ..
  | stop | vadd | vsub | vmul | vmulh | vdiv | vrem | vmin | vmax | vabs | vneg | vfma | vand | vor | vxor | vsll | vsrl | vsra | vsadd | vssub | vclz
  | vpopc | vsqrt | vrcp | vrsq | vexp2 | vlog2 | vcmp | vsel | vcvt | vsat | vrng | vid | vmv | vbcast | vslideup | vslidedn | vgatherr | vcompress
  | vexpand | vins | vext | vrowb | vredsum | vredtsum | vredmax | vredmin | vredand | vredor | mand | mor | mxor | mandn | mpopc | mfirst | mfromp
  | vld | vlds | vldx | vst | vsts | vstx | vamo | vamocas | mrank | mopk | mopkAdapter | adfold | zrd | zwr | vdot8 | xmuls => exact runLone_goesOn ..
  | matrixSlotReady => exact execMatrixSlotReady_goesOn ..
  | wload => exact execWload_goesOn ..
  | wloadEmptySlot => exact wloadEmpty_goesOn ..
  | wloadEmptyAsid => exact wloadEmptyAll_goesOn ..
  | wloadFetchComplete => exact execWloadFetchComplete_goesOn ..
  | zsave => exact execZsave_goesOn ..
  | zload => exact execZload_goesOn ..
  | adinvComplete => exact execAdinvComplete_goesOn ..
  | spawn => exact execSpawn_goesOn ..
  | spawnChildStart => exact execSpawnChildStart_goesOn ..
  | send => exact execSend_goesOn ..
  | recv => exact execRecv_goesOn ..
  | recvWake => exact execRecvWake_goesOn ..
  | recvTimeout => exact execRecvTimeout_goesOn ..
  | pgrab => exact execPgrab_goesOn ..
  | pdone => exact execPdone_goesOn ..
  | pnarrive => exact execPnarrive_goesOn ..
  | pnwait => exact execPnwait_goesOn ..
  | pnwaitWake => exact execPnwaitWake_goesOn ..
  | rput => exact execRput_goesOn ..
  | rputSlotFree => exact execRputSlotFree_goesOn ..
  | rtake => exact execRtake_goesOn ..
  | rtakeSlotFull => exact execRtakeSlotFull_goesOn ..
  | endHart => exact execEndHart_goesOn ..
  | scfg => exact goesOn_ite ⟨_, rfl⟩ (goesOn_ite (unbindStream_goesOn ..) (bindStream_goesOn ..))
  | scfgUnbind => exact goesOn_ite ⟨_, rfl⟩ (unbindStream_goesOn ..)
  | vldq => exact execVldq_goesOn ..
  | vstq => exact execVstq_goesOn ..
  | streamElementWrite => exact execStreamElementWrite_goesOn ..
  | skick =>
    exact goesOn_ite ⟨_, rfl⟩ (goesOn_orTrap fun _ =>
      goesOn_ite ⟨_, rfl⟩ (goesOn_ite ⟨_, rfl⟩ (goesOn_ite (goesOn_ite ⟨_, rfl⟩ ⟨_, rfl⟩) (offerEdge_goesOn ..))))
  | skickOfferRetry => exact execSkickOfferRetry_goesOn ..
  | copyTransfer => exact execCopyTransfer_goesOn ..
  | pageMigration => exact execPageMigration_goesOn ..
  | transferComplete => exact execTransferComplete_goesOn ..
  | swaitMailbox => exact goesOn_ite (swaitQ_goesOn ..) (swaitMail_goesOn ..)
  | swaitStream => exact swaitQ_goesOn ..
  | swaitWake => exact execSwaitWake_goesOn ..
  | ssave => exact execSsave_goesOn ..
  | sload => exact execSload_goesOn ..
  | ctxsave => exact goesOn_ite ⟨_, rfl⟩ (goesOn_ite ⟨_, rfl⟩ (goesOn_ite (saveNow_goesOn ..) ⟨_, rfl⟩))
  | ctxload => exact execCtxload_goesOn ..
  | undefinedWord => exact goesOn_ite (goesOn_ite ⟨_, rfl⟩ ⟨_, rfl⟩) ⟨_, rfl⟩
  | asyncInterruptEntry => exact execAsyncInterruptEntry_goesOn ..
  | userInterruptEntry => exact execUserInterruptEntry_goesOn ..
  | buntingFillArrive => exact execBuntingFillArrive_goesOn ..
  | slotReloadComplete => exact execSlotReloadComplete_goesOn ..
  | laneSpareComplete => exact execLaneSpareComplete_goesOn ..
  | wqSlotTake => exact execWqSlotTake_goesOn ..
  | waitCycleDetect => exact execWaitCycleDetect_goesOn ..
  | jalr | tret | waiti | halt | waitiWake | emret | zzero | adinv | tlbinv | streamFetch | streamElementArrive | outputStreamDrained | launchPlace
  | doorbellWrite | msigenWrite | hirqWrite | elogctlWrite | cycleRecordFree | hbmctlWrite | lendWatch | lendDrainStart | lendDrainDone
  | lendRetrainDone | lendReclaimStart | lendReclaimDone | grantThrottleOnset | linkKeyRollover | linkOldKeyRetire | ideKmRequest | hartReset
  | portFlitRetried | spdmSecureSession | ualinksecKeyEstablish => exact goesOn_ite ⟨_, rfl⟩ ⟨_, rfl⟩
  | vsetvl | vsetrows | spdmRequest | dieAdmissionCheck | dieTrainingComplete => exact goesOn_ite ⟨_, rfl⟩ (goesOn_ite ⟨_, rfl⟩ ⟨_, rfl⟩)
  | uiret | macroRepair | linkKeyEstablish | flitReceive | podRemoteAccess => exact goesOn_ite (goesOn_ite ⟨_, rfl⟩ ⟨_, rfl⟩) ⟨_, rfl⟩
  | powerSample | powerGood => exact goesOn_ite ⟨_, rfl⟩ (goesOn_ite ⟨_, rfl⟩ (goesOn_ite ⟨_, rfl⟩ ⟨_, rfl⟩))
  | hostBarRead =>
    exact goesOn_ite ⟨_, rfl⟩ (goesOn_ite ⟨_, rfl⟩ (goesOn_ite ⟨_, rfl⟩ (goesOn_ite ⟨_, rfl⟩ (goesOn_ite ⟨_, rfl⟩ ⟨_, rfl⟩))))
  | hostBarWrite =>
    exact goesOn_ite ⟨_, rfl⟩ (goesOn_ite ⟨_, rfl⟩ (goesOn_ite ⟨_, rfl⟩ (goesOn_ite ⟨_, rfl⟩
      (goesOn_ite ⟨_, rfl⟩ (goesOn_ite ⟨_, rfl⟩ ⟨_, rfl⟩)))))
  | _ => exact ⟨_, rfl⟩

/-! ### What the device does by itself goes on -/

/-- The act goes on in every state. -/
def Act.total (f : Act) : Prop := ∀ s, goesOn (f s)

theorem State.bringUpAct_total {s : State} {d : Nat} {f : Act} (h : s.bringUpAct d = some f) : f.total := by
  unfold State.bringUpAct at h
  split at h
  · cases h
    exact exec_goesOn (.spdmRequest d .negotiateAlgorithms)
  · cases h
    exact exec_goesOn (.dieAdmissionCheck d true true true)
  · obtain ⟨k, -, rfl⟩ := Option.map_eq_some_iff.mp h
    exact exec_goesOn (.linkKeyEstablish d k (Config.freeWord s.tick).toNat true)
  · cases h
    exact exec_goesOn (.dieTrainingComplete d ⟨true, 0, 0⟩)
  · cases h
    exact exec_goesOn (.powerGood true)
  · cases h

theorem State.bringUpNext_total {s : State} {f : Act} (h : s.bringUpNext = some f) : f.total := by
  unfold State.bringUpNext at h
  split at h
  · obtain ⟨d, -, hd⟩ := List.exists_of_findSome?_eq_some h
    exact State.bringUpAct_total hd
  · split at h
    · cases h
    · cases h
      exact exec_goesOn (.powerGood true)

theorem State.engineNext_total {s : State} {e : EngineId} {f : Act} (h : s.engineNext e = some f) : f.total := by
  unfold State.engineNext at h
  split at h
  · cases h
  · cases h
    split
    · exact exec_goesOn (.transferComplete e)
    · split
      · exact exec_goesOn (.pageMigration e)
      · exact exec_goesOn (.copyTransfer e)

theorem State.streamNext_total {s : State} {h q : Nat} {f : Act} (hf : s.streamNext h q = some f) : f.total := by
  unfold State.streamNext at hf
  dsimp only at hf
  split at hf
  · cases hf
  · split at hf
    · split at hf
      · cases hf
      · cases hf
        exact exec_goesOn (.streamElementWrite h (BitVec.ofNat 4 q))
    · split at hf
      · cases hf
        exact exec_goesOn (.streamFetch h (BitVec.ofNat 4 q))
      · split at hf
        · cases hf
          exact exec_goesOn (.streamElementArrive h (BitVec.ofNat 4 q))
        · cases hf

theorem State.slotActs_total {s : State} {c : Nat} {f : Act} (h : f ∈ s.slotActs c) : f.total := by
  unfold State.slotActs at h
  dsimp only at h
  simp only [List.mem_append, List.mem_map, List.mem_ite_nil_right, List.mem_ite_nil_left, List.mem_singleton] at h
  obtain ⟨-, rfl⟩ | ⟨-, rfl⟩ | ⟨-, rfl⟩ | ⟨p, -, rfl⟩ := h
  · exact exec_goesOn (.wloadFetchComplete c)
  · exact exec_goesOn (.wloadApply c)
  · exact exec_goesOn (.buntingFillArrive c)
  · exact exec_goesOn (.slotReloadComplete c p.1)

theorem State.launcherNext_total {s : State} {f : Act} (h : s.launcherNext = some f) : f.total := by
  unfold State.launcherNext at h
  split at h
  · next p _ =>
    cases h
    exact exec_goesOn (.wqSlotTake p.1)
  · split at h
    · cases h
    · cases h
      exact exec_goesOn .launchPlace

theorem State.appearNext_total {s : State} {f : Act} (h : s.appearNext = some f) : f.total := by
  obtain ⟨n, -, rfl⟩ := Option.map_eq_some_iff.mp h
  exact exec_goesOn (.writeMove n _)

theorem State.deviceActs_total {s : State} {f : Act} (h : f ∈ s.deviceActs) : f.total := by
  unfold State.deviceActs at h
  dsimp only at h
  simp only [List.mem_append, List.mem_filterMap, Option.mem_toList, List.mem_ite_nil_right, List.mem_ite_nil_left, List.mem_singleton] at h
  obtain ⟨q, -, hq⟩ | hs | he | ⟨e, -, he⟩ | ⟨-, rfl⟩ | ⟨-, rfl⟩ | hl | ha | hb := h
  · exact State.streamNext_total hq
  · exact State.slotActs_total hs
  · exact State.engineNext_total he
  · exact State.engineNext_total he
  · exact exec_goesOn (.spawnChildStart _)
  · exact exec_goesOn (.laneSpareComplete _)
  · exact State.launcherNext_total hl
  · exact State.appearNext_total ha
  · exact State.bringUpNext_total hb

/-! ### Every turn goes on (log entry 1) -/

theorem bringUp_goesOn (s : State) : goesOn (bringUp s) := by
  unfold bringUp
  split
  · next act h => exact State.bringUpNext_total h s
  · exact ⟨_, rfl⟩

theorem idleTurn_goesOn (s : State) : goesOn (idleTurn s) := by
  unfold idleTurn
  split
  · next act h => exact State.deviceActs_total (List.mem_of_getElem? h) s
  · exact ⟨_, rfl⟩

theorem tryTurn_goesOn (w : Wait) (s : State) : goesOn (tryTurn w s) := by
  obtain ⟨t, ht⟩ := exec_goesOn (wakeOf w) s
  rw [tryTurn, ht]
  exact goesOn_ite (idleTurn_goesOn t) ⟨_, rfl⟩

theorem waitTurn_goesOn (w : Wait) (s : State) : goesOn (waitTurn w s) :=
  goesOn_ite (exec_goesOn ..) (goesOn_ite (exec_goesOn ..) (goesOn_ite (exec_goesOn ..) (tryTurn_goesOn w s)))

theorem heldTurn_goesOn (w : Wait) (s : State) : goesOn (heldTurn w s) := goesOn_ite (idleTurn_goesOn s) (waitTurn_goesOn w s)

theorem runWord_goesOn (s : State) : goesOn (runWord s) := by
  unfold runWord
  split
  · exact ⟨_, rfl⟩
  · split
    · exact ⟨_, rfl⟩
    · exact exec_goesOn ..

theorem issueTurn_goesOn (s : State) : goesOn (issueTurn s) :=
  goesOn_ite (exec_goesOn ..) (goesOn_ite (exec_goesOn ..) (goesOn_ite (exec_goesOn ..) (runWord_goesOn s)))

theorem hartTurn_goesOn (s : State) : goesOn (hartTurn s) := by
  unfold hartTurn
  refine goesOn_ite ?_ (bringUp_goesOn s)
  split
  · exact goesOn_ite (idleTurn_goesOn s) (issueTurn_goesOn s)
  · exact heldTurn_goesOn _ s
  · exact idleTurn_goesOn s

theorem serviceTurn_goesOn (s : State) : goesOn (serviceTurn s) := by
  unfold serviceTurn
  refine goesOn_ite ?_ (bringUp_goesOn _)
  split
  · exact heldTurn_goesOn ..
  · exact idleTurn_goesOn _

theorem mapNext_goesOn {r : Result} (f : State → State) (h : goesOn r) : goesOn (mapNext f r) := by
  obtain ⟨t, rfl⟩ := h
  exact ⟨f t, rfl⟩

theorem struckTurn_goesOn (own : Bool) (s : State) (e : Option HwError) {go : Option HwError → Result} (h : ∀ e, goesOn (go e)) :
    goesOn (struckTurn own s e go) := by
  unfold struckTurn
  split
  · split <;> exact ⟨_, rfl⟩
  · exact mapNext_goesOn _ (h _)

theorem armedTurn_goesOn (h : Nat) (alone : Bool) (until_ : Option Nat) (e : Option HwError) (s : State) : goesOn (armedTurn h alone until_ e s) :=
  struckTurn_goesOn _ _ e fun e => hartTurn_goesOn (s.arm h alone until_ e)

theorem sameTurn_goesOn (hs : List Nat) (s : State) : goesOn (sameTurn hs s) := by
  unfold sameTurn
  split
  · exact ⟨_, rfl⟩
  · exact armedTurn_goesOn ..

theorem eventTurn_goesOn (i : Instr) (s : State) : goesOn (eventTurn i s) :=
  goesOn_ite (goesOn_ite ⟨_, rfl⟩ (exec_goesOn ..)) (exec_goesOn ..)

theorem armedEvent_goesOn (i : Instr) (e : Option HwError) (s : State) : goesOn (armedEvent i e s) := by
  unfold armedEvent
  split
  · exact eventTurn_goesOn i s
  · exact struckTurn_goesOn _ _ _ fun e => eventTurn_goesOn i _

theorem freeTurn_goesOn (s : State) : goesOn (freeTurn s) := goesOn_ite (serviceTurn_goesOn s) (hartTurn_goesOn _)

theorem frozenTurn_goesOn (t : Option Turn) (s : State) : goesOn (frozenTurn t s) := by
  unfold frozenTurn
  split
  · exact exec_goesOn ..
  · exact ⟨_, rfl⟩

/-- The head of the agenda goes on unless it names a number that is no hart position. -/
theorem agendaTurn_goesOn_or (t : Turn) (s : State) :
    goesOn (agendaTurn t s) ∨ (agendaTurn t s = .fault .noSuchHart ∧ ∃ h alone pre e, t = .hart h alone pre e ∧ isHart h = false) := by
  cases t with
  | hart h alone pre e =>
    cases hh : isHart h with
    | true => exact .inl (by rw [agendaTurn, if_pos hh]; exact armedTurn_goesOn ..)
    | false => exact .inr ⟨by rw [agendaTurn, hh]; rfl, h, alone, pre, e, rfl, hh⟩
  | same begun hs => exact .inl (sameTurn_goesOn hs s)
  | event i e => exact .inl (goesOn_ite (armedEvent_goesOn i e s) ⟨_, rfl⟩)

theorem step_goesOn_of_frozen (s : State) (hf : s.frozen = true) : goesOn (step s) := by
  unfold step turn
  simp only [s.passTurn_frozen, hf, if_true]
  split <;> exact frozenTurn_goesOn ..

theorem step_goesOn_of_empty (s : State) (ha : s.agenda = []) : goesOn (step s) := by
  unfold step turn
  dsimp only
  rw [s.passTurn_agenda, ha]
  exact goesOn_ite (frozenTurn_goesOn none _) (freeTurn_goesOn _)

/-- Settles O59: every meaning goes on, and with them every turn but that of a number that is no hart. -/
theorem nothingIsRefused : Obligations.NothingIsRefused := by
  refine ⟨exec_goesOn, fun s => ?_⟩
  cases hf : s.frozen with
  | true => exact .inl (step_goesOn_of_frozen s hf)
  | false =>
    cases ha : s.agenda with
    | nil => exact .inl (step_goesOn_of_empty s ha)
    | cons t rest =>
      obtain hgo | ⟨hstop, h, alone, pre, e, rfl, hh⟩ := agendaTurn_goesOn_or t { s.passTurn with agenda := rest }
      · exact .inl (by rw [step_of_head hf ha]; exact hgo)
      · exact .inr ⟨by rw [step_of_head hf ha]; exact hstop, rfl, h, alone, pre, e, rest, rfl, hh⟩

end Sys2Proof.Machine
end

section
/-! Integer division (02 R36, R37; 04 R74): the operands and results of a width as bit vectors, which case a division meets, and what it
does there. -/

namespace Sys2Proof

/-! ### Operands and results of a width (04 R71, R73) -/

theorem Width.bits_pos (w : Width) : 0 < w.bits := by cases w <;> decide

theorem Width.sx_eq_signExtend (w : Width) (v : Int) : w.sx v = (BitVec.ofInt w.bits v).signExtend 64 := by
  rw [Width.sx, BitVec.signExtend, BitVec.toInt_ofInt]

theorem Width.zx_eq_setWidth (w : Width) (v : Int) : w.zx v = (BitVec.ofInt w.bits v).setWidth 64 := by
  have hpos : (0 : Int) ≤ v % (2 ^ w.bits : Nat) := Int.emod_nonneg _ (Int.natCast_ne_zero.mpr (Nat.ne_of_gt (Nat.two_pow_pos w.bits)))
  rw [Width.zx, ← BitVec.ofNat_toNat, BitVec.toNat_ofInt, ← BitVec.ofInt_natCast, Int.toNat_of_nonneg hpos]
  norm_cast

end Sys2Proof

namespace Sys2Proof.Machine

theorem State.toNat_low (s : State) (w : Width) (r : Reg) : (s.low w r).toNat = w.u (s.x r) := BitVec.toNat_setWidth ..

theorem State.toInt_low (s : State) (w : Width) (r : Reg) : (s.low w r).toInt = w.i (s.x r) := by
  rw [BitVec.toInt_eq_toNat_bmod, s.toNat_low]
  rfl

/-! ### Which case a division meets (02 R36) -/

theorem divCase_zero (signed : Bool) (n : Nat) (a : Int) : divCase signed n a 0 = .byZero := if_pos rfl

theorem divCase_unsigned (n : Nat) (a : Int) {b : Int} (hb : b ≠ 0) : divCase false n a b = .normal := by
  simp [divCase, hb]

theorem toInt_neg_one {n : Nat} (hn : 0 < n) : (-1 : BitVec n).toInt = -1 := by
  rw [show (-1 : BitVec n) = BitVec.allOnes n from BitVec.neg_one_eq_allOnes, BitVec.toInt_allOnes, if_pos hn]

theorem divCase_signed {n : Nat} (hn : 0 < n) (x : BitVec n) {y : BitVec n} (hy : y ≠ 0) :
    divCase true n x.toInt y.toInt = if x = BitVec.intMin n ∧ y = -1 then .overflow else .normal := by
  have hzero : y.toInt ≠ 0 := fun h => hy (BitVec.toInt_inj.mp (h.trans BitVec.toInt_zero.symm))
  have hmin : x.toInt = -(2 ^ (n - 1) : Int) ↔ x = BitVec.intMin n := by rw [← BitVec.toInt_intMin_of_pos hn, BitVec.toInt_inj]
  have hone : y.toInt = -1 ↔ y = -1 := by rw [← toInt_neg_one hn, BitVec.toInt_inj]
  simp only [divCase, if_neg hzero, hmin, hone, true_and]

theorem divCase_intMin_neg_one {n : Nat} {x y : BitVec n} (hx : x = BitVec.intMin n) (hy : y = -1) (hn : 0 < n) :
    divCase true n x.toInt y.toInt = .overflow := by
  have hzero : y ≠ 0 := fun h => by
    have hone := toInt_neg_one hn
    rw [← hy, h, BitVec.ofNat_eq_ofNat, BitVec.toInt_zero] at hone
    omega
  rw [divCase_signed hn x hzero, if_pos ⟨hx, hy⟩]

theorem toInt_toNat_of_eq_zero {n : Nat} {y : BitVec n} (hy : y = 0) : y.toInt = 0 ∧ (y.toNat : Int) = 0 := by
  subst hy
  exact ⟨BitVec.toInt_zero, by simp⟩

/-! ### Quotients and remainders as bit vectors (02 R36) -/

theorem ofInt_tdiv_toInt {n : Nat} (x y : BitVec n) : BitVec.ofInt n (x.toInt.tdiv y.toInt) = x.sdiv y :=
  BitVec.eq_of_toInt_eq (by rw [BitVec.toInt_ofInt, BitVec.toInt_sdiv])

theorem ofInt_tmod_toInt {n : Nat} (x y : BitVec n) : BitVec.ofInt n (x.toInt.tmod y.toInt) = x.srem y := by
  rw [← BitVec.toInt_srem, BitVec.ofInt_toInt]

theorem ofInt_tdiv_toNat {n : Nat} (x y : BitVec n) : BitVec.ofInt n ((x.toNat : Int).tdiv y.toNat) = x.udiv y := by
  rw [← Int.ofNat_tdiv, BitVec.ofInt_natCast, BitVec.udiv_eq, ← BitVec.toNat_udiv, BitVec.ofNat_toNat, BitVec.setWidth_eq]

theorem ofInt_tmod_toNat {n : Nat} (x y : BitVec n) : BitVec.ofInt n ((x.toNat : Int).tmod y.toNat) = x.umod y := by
  rw [← Int.ofNat_tmod, BitVec.ofInt_natCast, BitVec.umod_eq, ← BitVec.toNat_umod, BitVec.ofNat_toNat, BitVec.setWidth_eq]

theorem ofInt_neg_one (n : Nat) : BitVec.ofInt n (-1) = -1 := BitVec.ofInt_neg

/-- The largest unsigned number is all ones. -/
theorem ofInt_two_pow_sub_one (n : Nat) : BitVec.ofInt n (2 ^ n - 1) = -1 := by
  have hmod : (2 ^ n - 1 : Int).bmod (2 ^ n) = (-1 : Int).bmod (2 ^ n) := by
    rw [show (2 ^ n - 1 : Int) = -1 + (2 ^ n : Nat) by rw [Int.add_comm, Int.natCast_pow]; rfl, Int.add_bmod_right]
  exact BitVec.eq_of_toInt_eq (by rw [BitVec.toInt_ofInt, hmod, ← BitVec.toInt_ofInt, ofInt_neg_one])

theorem signExtend_neg_one {n : Nat} (m : Nat) (hn : 0 < n) : (-1 : BitVec n).signExtend m = -1 := by
  rw [BitVec.signExtend, toInt_neg_one hn, ofInt_neg_one]

theorem signExtend_ofInt_zero (n m : Nat) : (BitVec.ofInt n 0).signExtend m = 0 := by
  rw [BitVec.signExtend, BitVec.toInt_ofInt, Int.zero_bmod]
  rfl

/-! ### What a division does in each case (02 R37) -/

theorem orWord_zero (w : Word) : orWord w 0 = w := BitVec.or_zero

theorem State.raiseI_zero (s : State) : s.raiseI 0 = s := by
  rw [State.raiseI, orWord_zero]

theorem divide_normal (s : State) (d : Reg) {signed : Bool} {n : Nat} {a b : Int} (v : Word) (h : divCase signed n a b = .normal) :
    divide s d signed n a b v = .next (s.setX d v).retire := by
  rw [divide, h, divFlag, s.raiseI_zero]
  rfl

theorem divide_byZero (s : State) (d : Reg) (signed : Bool) (n : Nat) (a : Int) {b : Int} (v : Word) (hb : b = 0) :
    divide s d signed n a b v = if s.hart.iflags.getLsbD 9 then .next (s.trap ⟨12, 1⟩)
      else .next ({ s with hart := { s.hart with iflags := s.hart.iflags ||| 2 } }.setX d v).retire := by
  rw [divide, hb, divCase_zero, divTrap, bitSet, BitVec.getLsbD]
  cases s.hart.iflags.toNat.testBit 9 <;> rfl

theorem divide_overflow (s : State) (d : Reg) {signed : Bool} {n : Nat} {a b : Int} (v : Word) (h : divCase signed n a b = .overflow) :
    divide s d signed n a b v = if s.hart.iflags.getLsbD 8 then .next (s.trap ⟨12, 2⟩)
      else .next ({ s with hart := { s.hart with iflags := s.hart.iflags ||| 1 } }.setX d v).retire := by
  rw [divide, h, divTrap, bitSet, BitVec.getLsbD]
  cases s.hart.iflags.toNat.testBit 8 <;> rfl

/-! ### The four divisions over bit vectors (04 R74) -/

section
variable (s : State) (w : Width) (d a b : Reg)

theorem exec_div : exec (.div w d a b) s = divide s d true w.bits (s.low w a).toInt (s.low w b).toInt
    ((BitVec.ofInt w.bits (divQuot true w.bits (s.low w a).toInt (s.low w b).toInt)).signExtend 64) := by
  rw [s.toInt_low, s.toInt_low, ← w.sx_eq_signExtend]
  rfl

theorem exec_rem : exec (.rem w d a b) s = divide s d true w.bits (s.low w a).toInt (s.low w b).toInt
    ((BitVec.ofInt w.bits (divRem true w.bits (s.low w a).toInt (s.low w b).toInt)).signExtend 64) := by
  rw [s.toInt_low, s.toInt_low, ← w.sx_eq_signExtend]
  rfl

theorem exec_divu : exec (.divu w d a b) s = divide s d false w.bits (s.low w a).toNat (s.low w b).toNat
    ((BitVec.ofInt w.bits (divQuot false w.bits (s.low w a).toNat (s.low w b).toNat)).setWidth 64) := by
  rw [s.toNat_low, s.toNat_low, ← w.zx_eq_setWidth]
  rfl

theorem exec_remu : exec (.remu w d a b) s = divide s d false w.bits (s.low w a).toNat (s.low w b).toNat
    ((BitVec.ofInt w.bits (divRem false w.bits (s.low w a).toNat (s.low w b).toNat)).setWidth 64) := by
  rw [s.toNat_low, s.toNat_low, ← w.zx_eq_setWidth]
  rfl

end

/-- Settles O3: each division in each case of R36. -/
theorem divisions : Obligations.Divisions := by
  intro s w d a b
  dsimp only
  refine ⟨fun hy ht => ?zeroTraps, fun hy ht => ?zero, fun ⟨hx, hy⟩ ht => ?wrapTraps, fun ⟨hx, hy⟩ ht => ?wrap, fun hy hw => ?signed,
    fun hy => ?unsigned⟩
  case zeroTraps =>
    obtain ⟨hi, hu⟩ := toInt_toNat_of_eq_zero hy
    intro i hmem
    simp only [List.mem_cons, List.not_mem_nil, or_false] at hmem
    rcases hmem with rfl | rfl | rfl | rfl
    · rw [exec_div, divide_byZero _ _ _ _ _ _ hi, if_pos ht]
    · rw [exec_divu, divide_byZero _ _ _ _ _ _ hu, if_pos ht]
    · rw [exec_rem, divide_byZero _ _ _ _ _ _ hi, if_pos ht]
    · rw [exec_remu, divide_byZero _ _ _ _ _ _ hu, if_pos ht]
  case zero =>
    obtain ⟨hi, hu⟩ := toInt_toNat_of_eq_zero hy
    have hn : ¬s.hart.iflags.getLsbD 9 = true := by rw [ht]; decide
    refine ⟨?_, ?_, ?_, ?_⟩
    · rw [exec_div, divide_byZero _ _ _ _ _ _ hi, if_neg hn, divQuot, hi, divCase_zero, ← signExtend_neg_one 64 w.bits_pos, ← ofInt_neg_one]
      rfl
    · rw [exec_divu, divide_byZero _ _ _ _ _ _ hu, if_neg hn, divQuot, hu, divCase_zero, ← ofInt_two_pow_sub_one]
      rfl
    · rw [exec_rem, divide_byZero _ _ _ _ _ _ hi, if_neg hn, divRem, hi, divCase_zero, BitVec.ofInt_toInt]
    · rw [exec_remu, divide_byZero _ _ _ _ _ _ hu, if_neg hn, divRem, hu, divCase_zero, BitVec.ofInt_natCast, BitVec.ofNat_toNat, BitVec.setWidth_eq]
  case wrapTraps =>
    have hc := divCase_intMin_neg_one hx hy w.bits_pos
    intro i hmem
    simp only [List.mem_cons, List.not_mem_nil, or_false] at hmem
    rcases hmem with rfl | rfl
    · rw [exec_div, divide_overflow _ _ _ hc, if_pos ht]
    · rw [exec_rem, divide_overflow _ _ _ hc, if_pos ht]
  case wrap =>
    have hc := divCase_intMin_neg_one hx hy w.bits_pos
    have hn : ¬s.hart.iflags.getLsbD 8 = true := by rw [ht]; decide
    rw [exec_div, exec_rem, divide_overflow _ _ _ hc, divide_overflow _ _ _ hc, if_neg hn, if_neg hn, divQuot, divRem, hc, BitVec.ofInt_toInt,
      signExtend_ofInt_zero]
    exact ⟨rfl, rfl⟩
  case signed =>
    have hc : divCase true w.bits (s.low w a).toInt (s.low w b).toInt = .normal := by rw [divCase_signed w.bits_pos _ hy, if_neg hw]
    rw [exec_div, exec_rem, divide_normal s d _ hc, divide_normal s d _ hc, divQuot, divRem, hc, ofInt_tdiv_toInt, ofInt_tmod_toInt]
    exact ⟨rfl, rfl⟩
  case unsigned =>
    have hc : divCase false w.bits (s.low w a).toNat (s.low w b).toNat = .normal :=
      divCase_unsigned _ _ fun h => hy (BitVec.eq_of_toNat_eq (Int.ofNat_inj.mp h))
    rw [exec_divu, exec_remu, divide_normal s d _ hc, divide_normal s d _ hc, divQuot, divRem, hc, ofInt_tdiv_toNat, ofInt_tmod_toNat]
    exact ⟨rfl, rfl⟩

end Sys2Proof.Machine
end

section
/-! Rounding (02 R39 to R42; 06 R133, R140): the error of a magnitude brought to a multiple of a power of two, the bounds that powers of two put on
the multiple, what encodings stand for, and what rounding to a format delivers in each range. -/

namespace Sys2Proof.Machine

/-! ### A magnitude brought to a multiple of 2^q (02 R40) -/

theorem roundAt_of_le {q e : Int} (h : q ≤ e) (mode : RMode) (neg : Bool) (m : Nat) : roundAt mode neg m e q = (m * 2 ^ (e - q).toNat, false) :=
  if_pos h

theorem roundAt_of_lt {e q : Int} (h : e < q) {d : Nat} (hd : 2 ^ (q - e).toNat = d) (mode : RMode) (neg : Bool) (m : Nat) :
    roundAt mode neg m e q = (m / d + (roundsUp mode neg (m / d) (m % d) d).toNat, decide (m % d ≠ 0)) := by
  rw [roundAt, if_neg (by omega), hd]
  dsimp only
  cases roundsUp mode neg _ _ _ <;> rfl

/-- What rounding adds to a magnitude of remainder `rem` in `d`: the rest of `d` where it rounds up, else it takes the remainder away. -/
def roundError (mode : RMode) (neg : Bool) (r rem d : Nat) : Int := if roundsUp mode neg r rem d then (d : Int) - rem else -(rem : Int)

theorem roundAt_mul_sub {e q : Int} (h : e < q) {d : Nat} (hd : 2 ^ (q - e).toNat = d) (mode : RMode) (neg : Bool) (m : Nat) :
    ((roundAt mode neg m e q).1 : Int) * d - m = roundError mode neg (m / d) (m % d) d := by
  have hm : (m : Int) = d * (m / d : Nat) + (m % d : Nat) := by exact_mod_cast (Nat.div_add_mod m d).symm
  rw [roundAt_of_lt h hd, roundError]
  generalize m / d = r at *
  generalize m % d = rem at *
  rw [hm]
  cases roundsUp mode neg r rem d
  · rw [Bool.toNat_false, if_neg Bool.false_ne_true, Nat.add_zero, Int.mul_comm (r : Int)]
    omega
  · rw [Bool.toNat_true, if_pos rfl, Int.natCast_add, Int.add_mul, Int.mul_comm (r : Int), Int.natCast_one, Int.one_mul]
    omega

/-- Only a magnitude that is no multiple rounds up. -/
theorem rem_pos_of_roundsUp {mode : RMode} {neg : Bool} {r rem d : Nat} (hd : 0 < d) (h : roundsUp mode neg r rem d = true) : 0 < rem := by
  cases mode <;> simp [roundsUp] at h <;> omega

theorem roundError_ne_zero_iff {mode : RMode} {neg : Bool} {r rem d : Nat} (h : rem < d) : roundError mode neg r rem d ≠ 0 ↔ rem ≠ 0 := by
  rw [roundError]
  split
  · next hup =>
    have := rem_pos_of_roundsUp (by omega) hup
    omega
  · omega

theorem roundError_rtz (neg : Bool) (r rem d : Nat) : roundError .rtz neg r rem d = -(rem : Int) := rfl

/-- RDN and RUP: toward zero for one sign, away from it for the other. -/
theorem roundError_rdn (neg : Bool) (r rem d : Nat) : roundError .rdn neg r rem d = if neg && rem ≠ 0 then (d : Int) - rem else -(rem : Int) := rfl

theorem roundError_rup (neg : Bool) (r rem d : Nat) : roundError .rup neg r rem d = if !neg && rem ≠ 0 then (d : Int) - rem else -(rem : Int) := rfl

theorem roundError_rmm (neg : Bool) (r rem d : Nat) :
    roundError .rmm neg r rem d = if d ≤ 2 * rem && rem ≠ 0 then (d : Int) - rem else -(rem : Int) := rfl

theorem roundError_rne (neg : Bool) (r rem d : Nat) :
    roundError .rne neg r rem d = if d < 2 * rem || (2 * rem = d && r % 2 = 1) then (d : Int) - rem else -(rem : Int) := rfl

theorem roundError_directed (neg : Bool) (r : Nat) {rem d : Nat} (h : rem < d) :
    (-(d : Int) < roundError .rtz neg r rem d ∧ roundError .rtz neg r rem d ≤ 0)
      ∧ (neg = false → -(d : Int) < roundError .rdn neg r rem d ∧ roundError .rdn neg r rem d ≤ 0)
      ∧ (neg = true → 0 ≤ roundError .rdn neg r rem d ∧ roundError .rdn neg r rem d < d)
      ∧ (neg = true → -(d : Int) < roundError .rup neg r rem d ∧ roundError .rup neg r rem d ≤ 0)
      ∧ (neg = false → 0 ≤ roundError .rup neg r rem d ∧ roundError .rup neg r rem d < d) := by
  have hdown : -(d : Int) < -(rem : Int) ∧ -(rem : Int) ≤ 0 := by omega
  have hup : 0 ≤ (if decide (rem ≠ 0) then (d : Int) - rem else -(rem : Int))
      ∧ (if decide (rem ≠ 0) then (d : Int) - rem else -(rem : Int)) < d := by
    simp only [decide_eq_true_eq]
    split <;> omega
  rw [roundError_rtz, roundError_rdn, roundError_rup]
  cases neg with
  | false => exact ⟨hdown, fun _ => hdown, nofun, nofun, fun _ => hup⟩
  | true => exact ⟨hdown, nofun, fun _ => hup, fun _ => hdown, nofun⟩

theorem roundError_rmm_bounds (neg : Bool) (r : Nat) {rem d : Nat} (h : rem < d) :
    -(d : Int) < 2 * roundError .rmm neg r rem d ∧ 2 * roundError .rmm neg r rem d ≤ d := by
  simp only [roundError_rmm, Bool.and_eq_true, decide_eq_true_eq]
  split <;> omega

theorem roundError_rne_bounds (neg : Bool) (r : Nat) {rem d : Nat} (h : rem < d) :
    -(d : Int) ≤ 2 * roundError .rne neg r rem d ∧ 2 * roundError .rne neg r rem d ≤ d := by
  simp only [roundError_rne, Bool.or_eq_true, Bool.and_eq_true, decide_eq_true_eq]
  split <;> omega

theorem two_mul_rem_of_tie {neg : Bool} {r rem d : Nat} (h : rem < d)
    (ht : 2 * roundError .rne neg r rem d = d ∨ 2 * roundError .rne neg r rem d = -(d : Int)) : 2 * rem = d := by
  rw [roundError] at ht
  split at ht <;> omega

/-- A tie goes to the even multiple. -/
theorem roundAt_rne_even_of_tie {e q : Int} (h : e < q) {d : Nat} (hd : 2 ^ (q - e).toNat = d) (neg : Bool) {m : Nat} (ht : 2 * (m % d) = d) :
    (roundAt .rne neg m e q).1 % 2 = 0 := by
  have hup : roundsUp .rne neg (m / d) (m % d) d = decide (m / d % 2 = 1) := by simp [roundsUp, ht]
  rw [roundAt_of_lt h hd, hup]
  obtain hr | hr := Nat.mod_two_eq_zero_or_one (m / d)
  · simp [hr]
  · simp [hr, Nat.add_mod]

/-! ### Bounds on the multiple (02 R41) -/

section
variable {mode : RMode} {neg : Bool} {m : Nat} {e q : Int}

theorem toNat_sub_eq_zero {a b : Int} (h : a ≤ b) : (a - b).toNat = 0 := Int.toNat_of_nonpos (by omega)

theorem le_roundAt {a : Nat} (h : a * 2 ^ (q - e).toNat ≤ m * 2 ^ (e - q).toNat) : a ≤ (roundAt mode neg m e q).1 := by
  obtain hq | hq : q ≤ e ∨ e < q := by omega
  · rw [roundAt_of_le hq]
    rwa [toNat_sub_eq_zero hq, Nat.pow_zero, Nat.mul_one] at h
  · rw [roundAt_of_lt hq rfl]
    rw [toNat_sub_eq_zero (Int.le_of_lt hq), Nat.pow_zero, Nat.mul_one] at h
    exact Nat.le_add_right_of_le ((Nat.le_div_iff_mul_le (Nat.two_pow_pos _)).mpr h)

theorem roundAt_le {b : Nat} (h : m * 2 ^ (e - q).toNat ≤ b * 2 ^ (q - e).toNat) : (roundAt mode neg m e q).1 ≤ b := by
  obtain hq | hq : q ≤ e ∨ e < q := by omega
  · rw [roundAt_of_le hq]
    rwa [toNat_sub_eq_zero hq, Nat.pow_zero, Nat.mul_one] at h
  · obtain ⟨d, hd⟩ : ∃ d, 2 ^ (q - e).toNat = d := ⟨_, rfl⟩
    have hpos : 0 < d := hd ▸ Nat.two_pow_pos _
    rw [toNat_sub_eq_zero (Int.le_of_lt hq), Nat.pow_zero, Nat.mul_one, hd] at h
    rw [roundAt_of_lt hq hd]
    cases hup : roundsUp mode neg (m / d) (m % d) d with
    | false => exact Nat.div_le_of_le_mul (by rwa [Nat.mul_comm])
    | true =>
      have hrem := rem_pos_of_roundsUp hpos hup
      have hdm := Nat.div_add_mod m d
      exact Nat.lt_of_mul_lt_mul_left (a := d) (by rw [Nat.mul_comm _ b]; omega)

theorem two_pow_le_roundAt {k : Nat} (hm : m ≠ 0) (h : k + q ≤ m.log2 + e) : 2 ^ k ≤ (roundAt mode neg m e q).1 := by
  refine le_roundAt ?_
  calc 2 ^ k * 2 ^ (q - e).toNat = 2 ^ (k + (q - e).toNat) := (Nat.pow_add ..).symm
    _ ≤ 2 ^ (m.log2 + (e - q).toNat) := Nat.pow_le_pow_right (by decide) (by omega)
    _ = 2 ^ m.log2 * 2 ^ (e - q).toNat := Nat.pow_add ..
    _ ≤ m * 2 ^ (e - q).toNat := Nat.mul_le_mul_right _ (Nat.log2_self_le hm)

theorem mul_two_pow_lt {k : Nat} (h : m.log2 + e < k + q) : m * 2 ^ (e - q).toNat < 2 ^ k * 2 ^ (q - e).toNat :=
  calc m * 2 ^ (e - q).toNat < 2 ^ (m.log2 + 1) * 2 ^ (e - q).toNat := Nat.mul_lt_mul_of_pos_right Nat.lt_log2_self (Nat.two_pow_pos _)
    _ = 2 ^ (m.log2 + 1 + (e - q).toNat) := (Nat.pow_add ..).symm
    _ ≤ 2 ^ (k + (q - e).toNat) := Nat.pow_le_pow_right (by decide) (by omega)
    _ = 2 ^ k * 2 ^ (q - e).toNat := Nat.pow_add ..

theorem roundAt_le_two_pow {k : Nat} (h : m.log2 + e < k + q) : (roundAt mode neg m e q).1 ≤ 2 ^ k := roundAt_le (Nat.le_of_lt (mul_two_pow_lt h))

/-- What rounds up past an odd multiple of 2^q lies in the upper half of a step of 2^(q + 1). -/
theorem roundsUp_double {r rem d : Nat} (r' : Nat) (hrem : 0 < rem) (h : roundsUp mode neg r rem d = true) :
    roundsUp mode neg r' (rem + d) (d * 2) = true := by
  have hne : rem + d ≠ 0 := by omega
  cases mode with
  | rtz => exact h
  | rdn => simpa [roundsUp, hne, Nat.ne_of_gt hrem] using h
  | rup => simpa [roundsUp, hne, Nat.ne_of_gt hrem] using h
  | rmm => simp [roundsUp] at h ⊢; omega
  | rne => simp [roundsUp] at h ⊢; omega
  | dyn => simp [roundsUp] at h ⊢; omega

/-- A magnitude that rounding carries up to an even multiple 2a of 2^q rounds to the same number at 2^(q + 1). -/
theorem roundAt_succ_of_carry {a : Nat} (hr : (roundAt mode neg m e q).1 = 2 * a) (hlt : m * 2 ^ (e - q).toNat < 2 * a * 2 ^ (q - e).toNat) :
    roundAt mode neg m e (q + 1) = (a, true) ∧ (roundAt mode neg m e q).2 = true := by
  obtain hq | hq : q ≤ e ∨ e < q := by omega
  · rw [roundAt_of_le hq] at hr
    rw [toNat_sub_eq_zero hq] at hlt
    omega
  · obtain ⟨d, hd⟩ : ∃ d, 2 ^ (q - e).toNat = d := ⟨_, rfl⟩
    have hpos : 0 < d := hd ▸ Nat.two_pow_pos _
    have hdouble : 2 ^ (q + 1 - e).toNat = d * 2 := by rw [← hd, ← Nat.pow_succ]; congr 1; omega
    rw [roundAt_of_lt hq hd] at hr ⊢
    rw [toNat_sub_eq_zero (Int.le_of_lt hq), Nat.pow_zero, Nat.mul_one, hd] at hlt
    have hdiv : m / d < 2 * a := (Nat.div_lt_iff_lt_mul hpos).mpr hlt
    have hup : roundsUp mode neg (m / d) (m % d) d = true := eq_true_of_ne_false fun hn => by
      simp only [hn, Bool.toNat_false] at hr
      omega
    have hrem := rem_pos_of_roundsUp hpos hup
    simp only [hup, Bool.toNat_true] at hr
    have hval : m / d = 2 * a - 1 := Nat.eq_sub_of_add_eq hr
    have hhalf : m / (d * 2) = a - 1 := by rw [← Nat.div_div_eq_div_mul, hval]; omega
    have hmod : m % (d * 2) = m % d + d := by rw [Nat.mod_mul, hval, show (2 * a - 1) % 2 = 1 by omega, Nat.mul_one]
    have hne : m % d + d ≠ 0 := by omega
    rw [roundAt_of_lt (by omega) hdouble, hhalf, hmod, roundsUp_double _ hrem hup]
    exact ⟨Prod.ext (Nat.sub_add_cancel (by omega)) (decide_eq_true hne), decide_eq_true (Nat.ne_of_gt hrem)⟩

end

/-! ### Formats with the special encodings of IEEE 754 (02 R38, R39; 06 R133, R140) -/

/-- The bias is the half below the all-ones exponent, and the all-ones exponent holds infinities and NaNs. -/
structure FFmt.IsIeee (g : FFmt) : Prop where
  specials : g.specials = .ieee
  two_pow_ebits : 2 ^ g.ebits = 2 * g.bias + 2
  bias_pos : 0 < g.bias

theorem FFmt.isIeee_of_mem {g : FFmt} (h : g ∈ [fmtF16, fmtBf16, fmtF32, fmtF64, fmtAcc80]) : g.IsIeee := by
  simp only [List.mem_cons, List.not_mem_nil, or_false] at h
  rcases h with rfl | rfl | rfl | rfl | rfl <;> exact ⟨rfl, rfl, by decide⟩

theorem FFmt.sign_eq (g : FFmt) (neg : Bool) : g.sign neg = if neg then 2 ^ (g.width - 1) else 0 := by
  rw [FFmt.sign, FFmt.width, Nat.add_assoc, Nat.add_sub_cancel_left]

theorem FFmt.lastPlace_prec (g : FFmt) (m : Nat) (e : Int) : lastPlace g.prec m e = (m.log2 : Int) + e - g.fbits := by
  rw [lastPlace, FFmt.prec]
  omega

section
variable {g : FFmt} (hg : g.IsIeee)
include hg

theorem FFmt.IsIeee.emax_eq : g.emax = 2 * g.bias + 1 := by
  rw [FFmt.emax, hg.two_pow_ebits]
  rfl

theorem FFmt.IsIeee.maxMag_eq : g.maxMag = g.emax * 2 ^ g.fbits - 1 := by
  rw [FFmt.maxMag, hg.specials]

/-- A magnitude is finite where it is below the infinity's. -/
theorem FFmt.IsIeee.maxMag_lt_iff (k : Nat) : g.maxMag < k ↔ g.emax * 2 ^ g.fbits ≤ k := by
  have : 0 < g.emax * 2 ^ g.fbits := Nat.mul_pos (by rw [hg.emax_eq]; omega) (Nat.two_pow_pos _)
  rw [hg.maxMag_eq]
  omega

/-- The value of an encoding by its fields (02 R39). -/
theorem FFmt.IsIeee.value_fields (neg : Bool) {E F : Nat} (hE : E < 2 ^ g.ebits) (hF : F < 2 ^ g.fbits) :
    g.value (g.sign neg + (E * 2 ^ g.fbits + F)) =
      if E = g.emax then (if F = 0 then .inf neg else .nan (!F.testBit (g.fbits - 1)))
      else if E = 0 then .fin neg F g.qmin
      else .fin neg (2 ^ g.fbits + F) (g.qmin + E - 1) := by
  have hlow : E * 2 ^ g.fbits + F < 2 ^ (g.ebits + g.fbits) := by
    rw [Nat.pow_add]
    calc E * 2 ^ g.fbits + F < (E + 1) * 2 ^ g.fbits := by rw [Nat.succ_mul]; omega
      _ ≤ 2 ^ g.ebits * 2 ^ g.fbits := Nat.mul_le_mul_right _ hE
  have hsign : g.sign neg = 2 ^ (g.ebits + g.fbits) * neg.toNat := by cases neg <;> simp [FFmt.sign]
  have hb : g.sign neg + (E * 2 ^ g.fbits + F) = 2 ^ g.fbits * (2 ^ g.ebits * neg.toNat + E) + F := by
    rw [hsign, Nat.pow_add, Nat.mul_add, ← Nat.mul_assoc, Nat.mul_comm (2 ^ g.fbits) (2 ^ g.ebits), Nat.mul_comm (2 ^ g.fbits) E, Nat.add_assoc]
  have hneg : (g.sign neg + (E * 2 ^ g.fbits + F)).testBit (g.ebits + g.fbits) = neg := by
    rw [hsign, Nat.testBit_two_pow_mul_add _ hlow, if_neg (Nat.lt_irrefl _), Nat.sub_self]
    cases neg <;> rfl
  have hexp : (g.sign neg + (E * 2 ^ g.fbits + F)) / 2 ^ g.fbits % 2 ^ g.ebits = E := by
    rw [hb, Nat.mul_add_div (Nat.two_pow_pos _), Nat.div_eq_of_lt hF, Nat.add_zero, Nat.mul_add_mod, Nat.mod_eq_of_lt hE]
  have hfrac : (g.sign neg + (E * 2 ^ g.fbits + F)) % 2 ^ g.fbits = F := by rw [hb, Nat.mul_add_mod, Nat.mod_eq_of_lt hF]
  simp only [FFmt.value, hneg, hexp, hfrac, hg.specials, true_and, reduceCtorEq, false_and, if_false]

end

/-- Every encoding is its sign, exponent and fraction fields (02 R38). -/
theorem FFmt.exists_fields (g : FFmt) {b : Nat} (hb : b < 2 ^ g.width) :
    ∃ neg E F, E < 2 ^ g.ebits ∧ F < 2 ^ g.fbits ∧ b = g.sign neg + (E * 2 ^ g.fbits + F) := by
  have hw : b < 2 ^ (g.ebits + g.fbits) * 2 := by rwa [FFmt.width, Nat.add_assoc, Nat.add_comm, Nat.pow_succ] at hb
  have hlow : b % 2 ^ (g.ebits + g.fbits) < 2 ^ g.fbits * 2 ^ g.ebits := by
    rw [← Nat.pow_add, Nat.add_comm g.fbits]
    exact Nat.mod_lt _ (Nat.two_pow_pos _)
  refine ⟨decide (2 ^ (g.ebits + g.fbits) ≤ b), b % 2 ^ (g.ebits + g.fbits) / 2 ^ g.fbits, b % 2 ^ (g.ebits + g.fbits) % 2 ^ g.fbits,
    Nat.div_lt_of_lt_mul hlow, Nat.mod_lt _ (Nat.two_pow_pos _), ?_⟩
  rw [Nat.mul_comm (_ / _), Nat.div_add_mod, FFmt.sign]
  by_cases h : 2 ^ (g.ebits + g.fbits) ≤ b
  · rw [if_pos (decide_eq_true h), Nat.mod_eq_sub_mod h, Nat.mod_eq_of_lt (by omega)]
    omega
  · rw [if_neg (by simpa using h), Nat.mod_eq_of_lt (by omega), Nat.zero_add]

/-! ### The magnitude bits of a multiple of 2^q -/

section
variable {g : FFmt} {r : Nat} {q : Int}

theorem FFmt.encodeMag_normal (hlo : 2 ^ g.fbits ≤ r) (hhi : r < 2 ^ (g.fbits + 1)) :
    g.encodeMag r q = ((q - g.qmin).toNat + 1) * 2 ^ g.fbits + (r - 2 ^ g.fbits) := by
  rw [FFmt.encodeMag, FFmt.prec, if_neg (by omega), if_pos hhi]

/-- Rounding has carried to the next power of two. -/
theorem FFmt.encodeMag_carry : g.encodeMag (2 ^ (g.fbits + 1)) q = ((q - g.qmin).toNat + 2) * 2 ^ g.fbits := by
  have := Nat.two_pow_pos g.fbits
  rw [FFmt.encodeMag, FFmt.prec, if_neg (by rw [Nat.pow_succ]; omega), if_neg (Nat.lt_irrefl _)]

/-- A subnormal, or the smallest normal. -/
theorem FFmt.encodeMag_qmin (h : r ≤ 2 ^ g.fbits) : g.encodeMag r g.qmin = r := by
  obtain hlt | rfl := Nat.lt_or_eq_of_le h
  · rw [FFmt.encodeMag, if_pos hlt]
  · rw [FFmt.encodeMag_normal (Nat.le_refl _) (Nat.pow_lt_pow_succ (by decide)), Int.sub_self, Nat.sub_self]
    exact Nat.one_mul _

/-- A subnormal, and the smallest normal, are finite. -/
theorem FFmt.IsIeee.encodeMag_qmin_finite (hg : g.IsIeee) (h : r ≤ 2 ^ g.fbits) : ¬g.maxMag < g.encodeMag r g.qmin := by
  have hbias := hg.bias_pos
  rw [FFmt.encodeMag_qmin h, hg.maxMag_lt_iff, hg.emax_eq, Nat.not_le]
  calc r ≤ 1 * 2 ^ g.fbits := by rwa [Nat.one_mul]
    _ < (2 * g.bias + 1) * 2 ^ g.fbits := Nat.mul_lt_mul_of_pos_right (by omega) (Nat.two_pow_pos _)

theorem log2_of_normal (hlo : 2 ^ g.fbits ≤ r) (hhi : r < 2 ^ (g.fbits + 1)) : r.log2 = g.fbits :=
  (Nat.log2_eq_iff (by have := Nat.two_pow_pos g.fbits; omega)).mpr ⟨hlo, hhi⟩

variable (hg : g.IsIeee) (hq : g.qmin ≤ q) (hlo : 2 ^ g.fbits ≤ r) (hhi : r ≤ 2 ^ (g.fbits + 1))
include hg hq hlo hhi

/-- Above the largest finite value: the exponent is above the bias (02 R41). -/
theorem FFmt.IsIeee.maxMag_lt_encodeMag_iff : g.maxMag < g.encodeMag r q ↔ (g.bias : Int) < r.log2 + q := by
  have hqm : g.qmin = 1 - (g.bias : Int) - g.fbits := rfl
  rw [hg.maxMag_lt_iff, hg.emax_eq]
  obtain hlt | rfl := Nat.lt_or_eq_of_le hhi
  · rw [FFmt.encodeMag_normal hlo hlt, log2_of_normal hlo hlt, ← Nat.le_div_iff_mul_le (Nat.two_pow_pos _), Nat.mul_comm _ (2 ^ g.fbits),
      Nat.mul_add_div (Nat.two_pow_pos _), Nat.div_eq_of_lt (by rw [Nat.pow_succ] at hlt; omega)]
    omega
  · rw [FFmt.encodeMag_carry, Nat.log2_two_pow, Nat.mul_le_mul_right_iff (Nat.two_pow_pos _)]
    omega

/-- Within the range, the bits stand for the multiple itself (02 R39). -/
theorem FFmt.IsIeee.value_encodeMag (neg : Bool) (hfin : ¬g.maxMag < g.encodeMag r q) :
    g.value (g.sign neg + g.encodeMag r q) = if r = 2 ^ (g.fbits + 1) then .fin neg (2 ^ g.fbits) (q + 1) else .fin neg r q := by
  have hqm : g.qmin = 1 - (g.bias : Int) - g.fbits := rfl
  have hpow := hg.two_pow_ebits
  have hemax := hg.emax_eq
  rw [hg.maxMag_lt_encodeMag_iff hq hlo hhi] at hfin
  obtain hlt | rfl := Nat.lt_or_eq_of_le hhi
  · rw [log2_of_normal hlo hlt] at hfin
    rw [FFmt.encodeMag_normal hlo hlt, hg.value_fields neg (by omega) (by rw [Nat.pow_succ] at hlt; omega), if_neg (by omega),
      if_neg (Nat.succ_ne_zero _), if_neg (Nat.ne_of_lt hlt), Nat.add_sub_cancel' hlo]
    congr 1
    omega
  · rw [Nat.log2_two_pow] at hfin
    rw [FFmt.encodeMag_carry, ← Nat.add_zero (_ * _), hg.value_fields neg (by omega) (Nat.two_pow_pos _), if_neg (by omega),
      if_neg (Nat.succ_ne_zero _), if_pos rfl]
    congr 1
    omega

end

/-! ### Rounding to a format (02 R41, R42; 06 R133, R140) -/

section
variable {g : FFmt} {mode : RMode} {neg : Bool} {m : Nat} {e q : Int}

theorem FFmt.round_of_overflow (hm : m ≠ 0) (hq : max (lastPlace g.prec m e) g.qmin = q)
    (h : g.maxMag < g.encodeMag (roundAt mode neg m e q).1 q) :
    g.round mode (.fin neg m e) = (g.sign neg + (if overflowInf mode neg then g.emax * 2 ^ g.fbits else g.maxMag), 5) := by
  simp only [FFmt.round, if_neg hm, hq, if_pos h]
  rfl

theorem FFmt.round_of_fits (hm : m ≠ 0) (hq : max (lastPlace g.prec m e) g.qmin = q)
    (h : ¬g.maxMag < g.encodeMag (roundAt mode neg m e q).1 q) :
    g.round mode (.fin neg m e) = (g.sign neg + g.encodeMag (roundAt mode neg m e q).1 q,
      if (roundAt mode neg m e q).2 then (if g.tiny mode neg m e then 3 else 1) else 0) := by
  simp only [FFmt.round, if_neg hm, hq, if_neg h]
  rfl

/-- A magnitude of the format's own precision and range is delivered as it is. -/
theorem FFmt.round_exact (hm : m ≠ 0) (hq : max (lastPlace g.prec m e) g.qmin = e) (h : ¬g.maxMag < g.encodeMag m e) :
    g.round mode (.fin neg m e) = (g.sign neg + g.encodeMag m e, 0) := by
  have hr : roundAt mode neg m e e = (m, false) := by rw [roundAt_of_le (Int.le_refl e), Int.sub_self, Int.toNat_zero, Nat.pow_zero, Nat.mul_one]
  rw [FFmt.round_of_fits hm hq (by rwa [hr]), hr]
  rfl

/-- The modes and signs for which overflow delivers the largest finite value (02 R41). -/
theorem overflowInf_eq_false_iff :
    overflowInf mode neg = false ↔ mode = .rtz ∨ (mode = .rdn ∧ neg = false) ∨ (mode = .rup ∧ neg = true) := by
  cases mode <;> cases neg <;> decide

end

/-! A nonzero magnitude rounded at the last place `q` of the format's precision, its exponent unbounded. -/

section
variable {g : FFmt} {mode : RMode} {neg : Bool} {m : Nat} {e q : Int} (hm : m ≠ 0) (hq : q = (m.log2 : Int) + e - g.fbits)
include hq

theorem FFmt.tiny_eq : g.tiny mode neg m e = decide (((roundAt mode neg m e q).1.log2 : Int) + q < 1 - (g.bias : Int)) := by
  rw [FFmt.tiny, g.lastPlace_prec, hq]

include hm

/-- It keeps the format's precision, or is the next power of two. -/
theorem roundAt_lastPlace_bounds (mode : RMode) (neg : Bool) :
    2 ^ g.fbits ≤ (roundAt mode neg m e q).1 ∧ (roundAt mode neg m e q).1 ≤ 2 ^ (g.fbits + 1) :=
  ⟨two_pow_le_roundAt hm (by omega), roundAt_le_two_pow (by push_cast; omega)⟩

theorem log2_roundAt_lastPlace (mode : RMode) (neg : Bool) :
    (roundAt mode neg m e q).1.log2 = g.fbits
      ∨ ((roundAt mode neg m e q).1.log2 = g.fbits + 1 ∧ (roundAt mode neg m e q).1 = 2 ^ (g.fbits + 1)) := by
  obtain ⟨hlo, hhi⟩ := roundAt_lastPlace_bounds hm hq mode neg
  obtain hlt | heq := Nat.lt_or_eq_of_le hhi
  · exact .inl (log2_of_normal hlo hlt)
  · exact .inr ⟨by rw [heq, Nat.log2_two_pow], heq⟩

variable (hg : g.IsIeee)
include hg

/-- Above the largest finite value (02 R41). -/
theorem FFmt.IsIeee.round_above (h : (g.bias : Int) < (roundAt mode neg m e q).1.log2 + q) :
    g.round mode (.fin neg m e) = (g.sign neg + (if overflowInf mode neg then g.emax * 2 ^ g.fbits else g.maxMag), 5) := by
  obtain ⟨hlo, hhi⟩ := roundAt_lastPlace_bounds hm hq mode neg
  have hbias := hg.bias_pos
  have hmin : g.qmin ≤ q := by
    rw [FFmt.qmin]
    obtain htop | ⟨htop, -⟩ := log2_roundAt_lastPlace hm hq mode neg <;> omega
  exact FFmt.round_of_overflow hm (by rw [g.lastPlace_prec, ← hq, Int.max_eq_left hmin]) ((hg.maxMag_lt_encodeMag_iff hmin hlo hhi).mpr h)

/-- Below the smallest normal (02 R42). -/
theorem FFmt.IsIeee.round_tiny (h : (roundAt mode neg m e q).1.log2 + q < 1 - (g.bias : Int)) :
    g.round mode (.fin neg m e) = (g.sign neg + (roundAt mode neg m e g.qmin).1, if (roundAt mode neg m e g.qmin).2 then 3 else 0) := by
  have hqm : g.qmin = 1 - (g.bias : Int) - g.fbits := rfl
  have hlog : g.fbits ≤ (roundAt mode neg m e q).1.log2 := by
    obtain htop | ⟨htop, -⟩ := log2_roundAt_lastPlace hm hq mode neg <;> omega
  have hmin : q ≤ g.qmin := by omega
  have hsub : (roundAt mode neg m e g.qmin).1 ≤ 2 ^ g.fbits := roundAt_le_two_pow (by omega)
  rw [FFmt.round_of_fits hm (by rw [g.lastPlace_prec, ← hq, Int.max_eq_right hmin]) (hg.encodeMag_qmin_finite hsub), FFmt.encodeMag_qmin hsub,
    FFmt.tiny_eq hq, if_pos (decide_eq_true h)]

/-- A magnitude whose last place is below that of the subnormals and that rounds to the smallest normal does so at the subnormals' last place too. -/
theorem FFmt.IsIeee.round_carry_to_normal (hmin : q < g.qmin) (hlow : 1 - (g.bias : Int) ≤ (roundAt mode neg m e q).1.log2 + q) :
    (roundAt mode neg m e q).1 = 2 ^ (g.fbits + 1) ∧ (roundAt mode neg m e q).2 = true ∧ g.qmin = q + 1
      ∧ g.round mode (.fin neg m e) = (g.sign neg + g.encodeMag (2 ^ g.fbits) g.qmin, 1) := by
  have hqm : g.qmin = 1 - (g.bias : Int) - g.fbits := rfl
  obtain htop | ⟨htop, hcarry⟩ := log2_roundAt_lastPlace hm hq mode neg
  · omega
  · have hnext : g.qmin = q + 1 := by omega
    obtain ⟨hsucc, hnx⟩ := roundAt_succ_of_carry (hcarry.trans Nat.pow_succ')
      (by rw [← Nat.pow_succ']; exact mul_two_pow_lt (by push_cast; omega))
    have htiny : ¬g.tiny mode neg m e = true := by rw [FFmt.tiny_eq hq, decide_eq_true_eq]; omega
    rw [← hnext] at hsucc
    refine ⟨hcarry, hnx, hnext, ?_⟩
    have hfin : ¬g.maxMag < g.encodeMag (roundAt mode neg m e g.qmin).1 g.qmin := hsucc ▸ hg.encodeMag_qmin_finite (Nat.le_refl _)
    rw [FFmt.round_of_fits hm (by rw [g.lastPlace_prec, ← hq, Int.max_eq_right (Int.le_of_lt hmin)]) hfin, if_neg htiny, hsucc,
      if_pos rfl]

/-- Between the smallest normal and the largest finite value (02 R41). -/
theorem FFmt.IsIeee.round_normal (hlow : 1 - (g.bias : Int) ≤ (roundAt mode neg m e q).1.log2 + q)
    (hhigh : (roundAt mode neg m e q).1.log2 + q ≤ (g.bias : Int)) :
    g.value (g.round mode (.fin neg m e)).1
        = (if (roundAt mode neg m e q).1 = 2 ^ (g.fbits + 1) then .fin neg (2 ^ g.fbits) (q + 1) else .fin neg (roundAt mode neg m e q).1 q)
      ∧ (g.round mode (.fin neg m e)).2 = if (roundAt mode neg m e q).2 then 1 else 0 := by
  obtain hmin | hmin : g.qmin ≤ q ∨ q < g.qmin := by omega
  · obtain ⟨hlo, hhi⟩ := roundAt_lastPlace_bounds hm hq mode neg
    have htiny : ¬g.tiny mode neg m e = true := by rw [FFmt.tiny_eq hq, decide_eq_true_eq]; omega
    have hfin := mt (hg.maxMag_lt_encodeMag_iff hmin hlo hhi).mp (by omega)
    rw [FFmt.round_of_fits hm (by rw [g.lastPlace_prec, ← hq, Int.max_eq_left hmin]) hfin, if_neg htiny]
    exact ⟨hg.value_encodeMag hmin hlo hhi neg hfin, rfl⟩
  · obtain ⟨hcarry, hnx, hnext, hround⟩ := hg.round_carry_to_normal hm hq hmin hlow
    have hnormal : 2 ^ g.fbits < 2 ^ (g.fbits + 1) := Nat.pow_lt_pow_succ (by decide)
    rw [hround, hg.value_encodeMag (Int.le_refl _) (Nat.le_refl _) (Nat.le_of_lt hnormal) neg (hg.encodeMag_qmin_finite (Nat.le_refl _)),
      if_neg (Nat.ne_of_lt hnormal), if_pos hcarry, hnx, hnext]
    exact ⟨rfl, rfl⟩

end

/-! ### Values that need no rounding (02 R39, R41) -/

section
variable {g : FFmt} (hg : g.IsIeee) (mode : RMode) (neg : Bool) {E F : Nat}
include hg

/-- Zeros and subnormals. -/
theorem FFmt.IsIeee.round_subnormal (hF : F < 2 ^ g.fbits) : g.round mode (.fin neg F g.qmin) = (g.sign neg + F, 0) := by
  by_cases hm : F = 0
  · rw [hm]
    rfl
  · have hlog : F.log2 < g.fbits := (Nat.log2_lt hm).mpr hF
    rw [FFmt.round_exact hm (by rw [g.lastPlace_prec, Int.max_eq_right (by omega)]) (hg.encodeMag_qmin_finite (Nat.le_of_lt hF)),
      FFmt.encodeMag_qmin (Nat.le_of_lt hF)]

theorem FFmt.IsIeee.round_normal_fields (hE : E ≠ 0) (hmax : E < g.emax) (hF : F < 2 ^ g.fbits) :
    g.round mode (.fin neg (2 ^ g.fbits + F) (g.qmin + E - 1)) = (g.sign neg + (E * 2 ^ g.fbits + F), 0) := by
  have hlo : 2 ^ g.fbits ≤ 2 ^ g.fbits + F := Nat.le_add_right ..
  have hhi : 2 ^ g.fbits + F < 2 ^ (g.fbits + 1) := by rw [Nat.pow_succ]; omega
  have hlog := log2_of_normal hlo hhi
  have hbits : g.encodeMag (2 ^ g.fbits + F) (g.qmin + E - 1) = E * 2 ^ g.fbits + F := by
    rw [FFmt.encodeMag_normal hlo hhi, Nat.add_sub_cancel_left, show (g.qmin + E - 1 - g.qmin).toNat + 1 = E by omega]
  have hfin : ¬g.maxMag < g.encodeMag (2 ^ g.fbits + F) (g.qmin + E - 1) := by
    rw [hbits, hg.maxMag_lt_iff, Nat.not_le]
    calc E * 2 ^ g.fbits + F < (E + 1) * 2 ^ g.fbits := by rw [Nat.succ_mul]; omega
      _ ≤ g.emax * 2 ^ g.fbits := Nat.mul_le_mul_right _ hmax
  rw [FFmt.round_exact (by have := Nat.two_pow_pos g.fbits; omega) (by rw [g.lastPlace_prec, hlog]; omega) hfin, hbits]

/-- What an encoding stands for is delivered as that encoding, and a NaN as the canonical one. -/
theorem FFmt.IsIeee.round_value {b : Nat} (hb : b < 2 ^ g.width) :
    ((g.value b).isNan = false → g.round mode (g.value b) = (b, 0))
      ∧ ((g.value b).isNan = true → (g.round mode (g.value b)).1 = g.canonNan) := by
  obtain ⟨neg, E, F, hE, hF, rfl⟩ := g.exists_fields hb
  rw [hg.value_fields neg hE hF]
  by_cases hmax : E = g.emax
  · rw [if_pos hmax]
    by_cases hzero : F = 0
    · rw [if_pos hzero, hmax, hzero]
      exact ⟨fun _ => rfl, nofun⟩
    · rw [if_neg hzero]
      exact ⟨nofun, fun _ => rfl⟩
  · rw [if_neg hmax]
    by_cases hsub : E = 0
    · rw [if_pos hsub, hg.round_subnormal mode neg hF, hsub, Nat.zero_mul, Nat.zero_add]
      exact ⟨fun _ => rfl, nofun⟩
    · have hlt : E < g.emax := Nat.lt_of_le_of_ne (Nat.le_sub_one_of_lt hE) hmax
      rw [if_neg hsub, hg.round_normal_fields mode neg hsub hlt hF]
      exact ⟨fun _ => rfl, nofun⟩

end

theorem isIeee_canonNan_of_mem {g : FFmt} {nan : Nat}
    (h : (g, nan) ∈ [(fmtF16, 0x7E00), (fmtBf16, 0x7FC0), (fmtF32, 0x7FC00000), (fmtF64, 0x7FF8000000000000), (fmtAcc80, 0x7FF80000000000000000)]) :
    g.IsIeee ∧ g.canonNan = nan := by
  simp only [List.mem_cons, List.not_mem_nil, or_false, Prod.mk.injEq] at h
  rcases h with ⟨rfl, rfl⟩ | ⟨rfl, rfl⟩ | ⟨rfl, rfl⟩ | ⟨rfl, rfl⟩ | ⟨rfl, rfl⟩ <;>
    exact ⟨FFmt.isIeee_of_mem (by decide), by decide⟩

/-- Settles O14: the error of each mode, the three ranges of each format, and the values that need no rounding. -/
theorem rounding : Obligations.Rounding := by
  refine ⟨fun neg m e q hlt => ?modes, fun g mode neg m e hmem hm => ?ranges, fun g nan mode b hmem hb => ?exact⟩
  case modes =>
    obtain ⟨d, hd⟩ : ∃ d, 2 ^ (q - e).toNat = d := ⟨_, rfl⟩
    have hrem : m % d < d := Nat.mod_lt _ (hd ▸ Nat.two_pow_pos _)
    have hcast : (2 ^ (q - e).toNat : Int) = d := by exact_mod_cast hd
    obtain ⟨hrtz, hdown, hdownNeg, hupNeg, hup⟩ := roundError_directed neg (m / d) hrem
    simp only [hcast, roundAt_mul_sub hlt hd]
    refine ⟨fun mode => ?_, hrtz, hdown, hdownNeg, hupNeg, hup, roundError_rne_bounds _ _ hrem, fun ht => ?_, roundError_rmm_bounds _ _ hrem⟩
    · rw [roundError_ne_zero_iff hrem, roundAt_of_lt hlt hd, decide_eq_true_eq]
    · exact roundAt_rne_even_of_tie hlt hd neg (two_mul_rem_of_tie hrem ht)
  case ranges =>
    have hg := FFmt.isIeee_of_mem hmem
    dsimp only
    rw [← g.sign_eq]
    refine ⟨fun h => ?_, hg.round_tiny hm rfl, hg.round_normal hm rfl⟩
    rw [hg.round_above hm rfl h, hg.maxMag_eq]
    simp only [← overflowInf_eq_false_iff, FFmt.emax]
    cases overflowInf mode neg <;> rfl
  case exact =>
    obtain ⟨hg, hnan⟩ := isIeee_canonNan_of_mem hmem
    exact hnan ▸ hg.round_value mode hb

end Sys2Proof.Machine
end

section
/-! What refutes the statements over the mask words, the scalar results and the vector memory words (08 R165, R169, R177, R184, R185; 15 R315, R320).
`State.ready` leaves the run state of the hart open, where `State.matrixReadyFor` asks for a running one: a hart that waits at a boundary while an
interrupt is due stops inside the convoy of its word. And a store word that releases may change memory at addresses it does not store to, for the
hart's earlier writes take their place in the coherence order as they appear. -/

namespace Sys2Proof.Machine

/-! ### Running a word that stands by itself -/

/-- What `g` observes of the machine after instruction `i`, where it goes on. -/
def observeExec {α : Type} (g : State → α) (i : Instr) (s : State) : Option α :=
  match exec i s with
  | .next t => some (g t)
  | _ => none

theorem observeExec_of_next {α : Type} (g : State → α) {i : Instr} {s t : State} (h : exec i s = .next t) : observeExec g i s = some (g t) := by
  rw [observeExec, h]

theorem eq_ok_of_toOption {ε α : Type} {r : Except ε α} {a : α} (h : r.toOption = some a) : r = .ok a := by
  cases r with
  | error e => cases h
  | ok b => cases h; rfl

/-- Where the checks of a word are passed and `c` holds of what they give, there is such a prepared word. -/
theorem exists_prepared {s : State} {i : Instr} (c : Prep → Bool) (h : (prepWord s.hart s.loneBlock 0 i s.hart.tagOf).toOption.any c = true) :
    ∃ p, prepWord s.hart s.loneBlock 0 i s.hart.tagOf = .ok p ∧ c p = true := by
  obtain ⟨p, hp, hc⟩ := (Option.any_eq_true _ _).mp h
  exact ⟨p, eq_ok_of_toOption hp, hc⟩

/-- A word that leaves vstart other than 0 has stopped in its block (05 R123). -/
theorem not_passedBlock_of_start {i : Instr} {s t : State} {e : Nat} (hstart : observeExec (·.hart.start) i s = some e) (he : e ≠ 0)
    (ht : exec i s = .next t) : ¬passedBlock s t := by
  rintro ⟨-, -, hzero, -⟩
  rw [observeExec_of_next _ ht, hzero] at hstart
  exact he (Option.some.inj hstart).symm

/-! ### A word that stops at a boundary of 08 R165 -/

/-- A hart as VCONFIG of 32 registers of 32 bits leaves it on six lanes, with four rows of four elements: an element group has twelve serials. v2
and v3 hold unsigned words. -/
def gridHart : Hart := { Hart.reset 0 with vtype := 160, vgrant := 1649368107110, vl := 4, rows := 4, vtag := [(2, 5), (3, 5)] }

/-- That hart at level U, waiting at the group boundary of serial 12, while interrupt 1 is pending and enabled (19 R367, R368). -/
def atBoundary : State :=
  { State.reset with
    hart := { gridHart with level := .u, run := .waiting (.boundary 12) }
    dies := [(0, { Die.reset with st := 5, hirq := [(0, 0x100000001)] })] }

/-- VCMP of v2 and v3 for equality, into m1. -/
def vcmpFields : Fields := ⟨false, 1, 2, 3, 0, 0, false, 0, 0⟩

/-- VEXT of element 16 of v2, which is above the last one, into X(7). -/
def vextFields : Fields := ⟨false, 0, 2, 0, 7, 0, false, 0, 16⟩

theorem start_vcmp_atBoundary : observeExec (·.hart.start) (.vcmp vcmpFields) atBoundary = some 12 := by decide

theorem start_vext_atBoundary : observeExec (·.hart.start) (.vext vextFields) atBoundary = some 12 := by decide

/-- Refutes O27: a hart that is not running but waits at a boundary, with an interrupt due, stops its VCMP at serial 12 and takes the interrupt. -/
theorem not_maskWords : ¬Obligations.MaskWords := by
  intro h
  obtain ⟨p, hp, -⟩ := exists_prepared (s := atBoundary) (i := .vcmp vcmpFields) (fun _ => true) (by decide)
  have hready : atBoundary.ready (.vcmp vcmpFields) p := ⟨by decide, by decide, ⟨_, rfl, rfl⟩, hp⟩
  obtain ⟨t, ht, hpassed, -⟩ := h atBoundary (.vcmp vcmpFields) vcmpFields p List.mem_cons_self hready
  exact not_passedBlock_of_start start_vcmp_atBoundary (by decide) ht hpassed

/-- Refutes O28: the same hart stops its VEXT at serial 12, although the element it names lies above all, so that X(7) is not written 0. -/
theorem not_scalarResults : ¬Obligations.ScalarResults := by
  intro h
  obtain ⟨p, hp, habove⟩ := exists_prepared (s := atBoundary) (i := .vext vextFields) (fun p => decide (p.total ≤ p.f.fn)) (by decide)
  have hready : atBoundary.ready (.vext vextFields) p := ⟨by decide, by decide, ⟨_, rfl, rfl⟩, hp⟩
  obtain ⟨hbeyond, -⟩ := h atBoundary (.vext vextFields) vextFields p hready
  obtain ⟨t, ht, hpassed, -⟩ := hbeyond rfl (of_decide_eq_true habove)
  exact not_passedBlock_of_start start_vext_atBoundary (by decide) ht hpassed

/-! ### A store word that releases (08 R185; 15 R320) -/

/-- A store of hart `h` to byte 0x40 that has not appeared. -/
def byteUnderWay (h : Nat) (old new : Byte) : PendWrite := ⟨0x40, [old], [new], .hart h, .device, [], false, [], 0, 0, false, none⟩

/-- Hart 9 has stored 2 to byte 0x40 and hart 0, after it in coherence order, 3; neither store has appeared. Hart 0 runs, with one element. -/
def crossed : State :=
  { State.reset with
    hart := { gridHart with vl := 1, rows := 1, x := [(5, 0x3FC0)] }
    dies := [(0, { Die.reset with st := 5 })]
    mem := [(0x40, 3)]
    pend := [byteUnderWay 0 2 3, byteUnderWay 9 0 2] }

/-- VST.rel of v2 at X(5), scope .device, tag u32. -/
def vstFields : Fields := ⟨false, 0, 2, 0, 5, 0, false, 0, 0x685000⟩

/-- The release has the store of hart 0 appear, before that of hart 9 in coherence order, so that byte 0x40 is 2 from then on. -/
theorem latest_vst_crossed : observeExec (·.latest 0x40) (.vst vstFields) crossed = some 2 := by decide

/-- Every active element of a store reaches memory at `pa`, off host-shared pages, and neither it nor its index is poisoned. -/
def Prep.storesAt (p : Prep) (s : State) (pa : Nat) : Bool :=
  (p.actives s).all fun e =>
    decide (((p.released s).target (p.released s).ctx .store (p.addr s.hart s.hart e) p.size).toOption = some (.mem pa false))
      && (!s.hart.poisonBit p.f.vs1.toNat e && !p.indexPoison s.hart s.hart e)

theorem Prep.storesAt_iff (p : Prep) (s : State) (pa : Nat) : p.storesAt s pa = true ↔ ∀ e ∈ p.actives s,
    ((p.released s).target (p.released s).ctx .store (p.addr s.hart s.hart e) p.size).toOption = some (.mem pa false)
      ∧ s.hart.poisonBit p.f.vs1.toNat e = false ∧ p.indexPoison s.hart s.hart e = false := by
  simp only [Prep.storesAt, List.all_eq_true, Bool.and_eq_true, Bool.not_eq_true', decide_eq_true_eq]

/-- A byte that no serial covers stays. -/
theorem writesIn_of_uncovered (size : Nat) (pa : Nat → Nat) (new : Nat → Nat → Option Nat) (es : List Nat) (m : Nat → Byte) (a : Nat)
    (h : ∀ e ∈ es, ¬(pa e ≤ a ∧ a < pa e + size)) : writesIn size pa new es m a = m a := by
  induction es generalizing m with
  | nil => rfl
  | cons e es ih =>
    rw [writesIn, ih _ fun k hk => h k (List.mem_cons_of_mem e hk)]
    cases new e (leNat ((List.range size).map fun k => m (pa e + k))) with
    | none => rfl
    | some v => exact if_neg (h e List.mem_cons_self)

/-- Refutes O29: a VST.rel to 0x3FC0 leaves byte 0x40 other than it was, because the release that comes before its first element reorders two stores
under way. -/
theorem not_vectorMemory : ¬Obligations.VectorMemory := by
  intro h
  obtain ⟨p, hp, hc⟩ := exists_prepared (s := crossed) (i := .vst vstFields)
    (fun p => !(p.attached crossed).hpage && p.storesAt crossed 0x3FC0) (by decide)
  obtain ⟨hpage, hstores⟩ := (Bool.and_eq_true _ _).mp hc
  rw [Prep.storesAt_iff] at hstores
  have hready : crossed.ready (.vst vstFields) p := ⟨by decide, by decide, ⟨_, rfl, rfl⟩, hp⟩
  obtain ⟨-, hvst⟩ := h crossed (.vst vstFields) vstFields p (fun _ => 0x3FC0) hready
  obtain ⟨t, ht, -, -, -, -, -, -, hmem⟩ := hvst List.mem_cons_self (fun e he => ⟨false, eq_ok_of_toOption (hstores e he).1⟩)
    (.inl ((Bool.not_eq_true' _).mp hpage)) (fun e he => (hstores e he).2)
  have hkept : t.latest 0x40 = crossed.latest 0x40 :=
    (hmem 0x40).trans (writesIn_of_uncovered _ _ _ _ _ _ fun _ _ hcov => absurd hcov.1 (by decide))
  have hmoved : t.latest 0x40 = 2 := Option.some.inj ((observeExec_of_next _ ht).symm.trans latest_vst_crossed)
  exact absurd (hkept.symm.trans hmoved) (by decide)

end Sys2Proof.Machine
end

section
/-! What refutes the statements over the matrix words and the controller of a cluster (09 R197, R208; 20 R396). `State.matrixReadyFor` asks of the
word's slot that its state is ready, and `State.takeRepairs` that it waits neither for a repair nor for a reload; neither says what lies beneath the
slot. Content that stands in error there, which no run of the machine leaves beneath a ready slot, stops the word at its first pass. -/

namespace Sys2Proof.Machine

/-! ### A ready slot with content in error beneath it (09 R197; 20 R396) -/

/-- MOPK z0 of v2 with slot 8, every column block. -/
def mopkFields : Fields := ⟨false, 0, 2, 0, 0, 0, false, 0, 0x0020FF⟩

/-- Slot 8 is ready and holds 8-bit elements; content in error lies beneath it. -/
def beneathError : Cluster := { Cluster.reset with slots := [(8, { WSlot.empty with state := .ready, tag := 1, under := some ⟨.error, 1, 0, false⟩ })] }

/-- A hart with row channels, 8-bit elements in v2, before that slot. -/
def overError : State := { State.reset with hart := { gridHart with mgrant := 64, vtag := [(2, 1)] }, clusters := [(0, beneathError)] }

/-- What MOPK takes of that slot. -/
def slot8 : SlotTake := ⟨8, 1, 0⟩

/-- That MOPK as it runs there. -/
def mopkPrep : MPrep := ⟨.mopk mopkFields, mopkFields, overError.hart, some slot8, []⟩

/-- The word is encoded, and block decode accepts it before STOP (05 R120; 07 R157). -/
theorem mopk_decoded :
    ∃ w, encodeBlock (.mopk mopkFields) = some w ∧ checkBlock overError.hart.vcount 0 1 0 [] [w, stopWord] = .ok [.mopk mopkFields] := by
  have hw : (encodeBlock (.mopk mopkFields)).any
      (fun w => decide ((checkBlock overError.hart.vcount 0 1 0 [] [w, stopWord]).toOption = some [.mopk mopkFields])) = true := by decide
  obtain ⟨w, hw, hc⟩ := (Option.any_eq_true _ _).mp hw
  exact ⟨w, hw, eq_ok_of_toOption (of_decide_eq_true hc)⟩

/-- The word passes its checks and finds its slot ready. -/
theorem overError_ready : overError.matrixReadyFor (.mopk mopkFields) mopkFields (some slot8) where
  settled := by decide
  calm := by decide
  decoded := ⟨rfl, rfl, mopk_decoded⟩
  legal := by decide
  slot := by decide

theorem overError_takeRepairs : overError.takeRepairs (some slot8) = false := by decide

theorem mopkPrep_idle : mopkPrep.idle = false := by decide

/-- No row of the word misses, faults or meets poison. -/
theorem mopkPrep_rowState : ∀ r ∈ mopkPrep.rows, mopkPrep.rowState overError.cluster r = .go := by decide

/-- A VFETCH that has trapped is not pending: its word has not been passed (05 R122, R123). -/
theorem not_passedBlock_of_ahead {i : Instr} {s t : State} (hahead : observeExec (·.hart.ahead) i s = some none) (ht : exec i s = .next t) :
    ¬passedBlock s t := by
  rintro ⟨-, hpending, -⟩
  rw [observeExec_of_next _ ht, hpending] at hahead
  cases hahead

/-- The content in error beneath its slot stops MOPK before its first pass. -/
theorem ahead_mopk_overError : observeExec (·.hart.ahead) (.mopk mopkFields) overError = some none := by decide

/-- Refutes O32: MOPK raises code 22 although its slot is ready and waits for no repair, for the content beneath the slot is in error. -/
theorem not_matrixWords : ¬Obligations.MatrixWords := by
  intro h
  obtain ⟨hcarried, -⟩ := h.1 overError (.mopk mopkFields) mopkFields (some slot8) (by simp)
  obtain ⟨hdone, -⟩ := hcarried overError_ready (by decide) overError_takeRepairs
  obtain ⟨t, ht, hpassed, -⟩ := hdone mopkPrep_idle rfl fun r hr => mopkPrep_rowState r (List.mem_filter.mp hr).1
  exact not_passedBlock_of_ahead ahead_mopk_overError ht hpassed

/-- That hart as it waits for slot 8, in the block of the word. -/
def waitsOverError : State := (overError.inBlock (.mopk mopkFields)).withHart (fun h => { h with run := .waiting (.slot mopkFields.w) })

theorem ahead_ready_waitsOverError : observeExec (·.hart.ahead) .matrixSlotReady waitsOverError = some none := by decide

/-- The hart of `waitsOverError`, running again and without its block, is that of `overError`. -/
theorem waitsOverError_resumed : waitsOverError.withHart (fun h => { h with run := .running, block := none }) = overError := by decide

/-- Refutes O36: the same MOPK, which waited for its slot, goes on and raises code 22. -/
theorem not_clusterEvents : ¬Obligations.ClusterEvents := by
  intro h
  obtain ⟨-, -, -, hwaits, -⟩ := h waitsOverError 0
  dsimp only at hwaits
  obtain ⟨-, hdone⟩ := hwaits (.mopk mopkFields) mopkFields slot8 (waitsOverError_resumed ▸ overError_ready) mopkPrep_idle rfl (by decide)
  obtain ⟨t, ht, hpassed, -⟩ := hdone (by decide) (by decide) fun r hr => mopkPrep_rowState r (List.mem_filter.mp hr).1
  exact not_passedBlock_of_ahead ahead_ready_waitsOverError ht hpassed

end Sys2Proof.Machine
end

section
/-! Channels and tiles (09 R191, R192, R203, R212, R213; 10 R217, R220 to R223): what MATTACH grants and shows in mgrant, what ZZERO leaves, and the image
that ZSAVE writes and ZLOAD reads. -/

namespace Sys2Proof

variable {α : Type}

/-- What a table reads without the entries whose numbers `q` leaves out. -/
theorem Tab.get_filter (d : α) (t : Tab α) (q : Nat → Bool) (k : Nat) :
    Tab.get d (t.filter (fun p => q p.1)) k = if q k then Tab.get d t k else d := by
  induction t with
  | nil => exact (ite_self d).symm
  | cons p t ih =>
    rw [List.filter_cons]
    by_cases hk : k = p.1
    · subst hk
      by_cases hq : q p.1 = true
      · simp [Tab.get, hq]
      · simp [ih, hq]
    · by_cases hq : q p.1 = true
      · simp [Tab.get, hq, hk, ih]
      · simp [Tab.get, hq, hk, ih]

/-- What a table reads that lists a value for each of the numbers `l`, those left out at which it has the default. -/
theorem Tab.get_listed [DecidableEq α] (d : α) (l : List Nat) (f : Nat → α) (k : Nat) :
    Tab.get d ((l.map (fun i => (i, f i))).filter (fun p => p.2 ≠ d)) k = if k ∈ l then f k else d := by
  induction l with
  | nil => simp
  | cons i l ih =>
    rw [List.map_cons, List.filter_cons]
    by_cases hk : k = i
    · subst hk
      by_cases hf : f k = d
      · simpa [hf] using ih
      · simp [Tab.get, hf]
    · by_cases hf : f i = d
      · simpa [hf, hk] using ih
      · simpa [Tab.get, hf, hk] using ih

end Sys2Proof

namespace Sys2Proof.Machine

/-! ### The current hart, core and cluster -/

/-- A hart that runs stays as it is where it is told to run. -/
theorem State.withHart_resume (s : State) (h : s.hart.run = .running) : s.withHart Hart.resume = s := by
  have hr : Hart.resume s.hart = s.hart := by rw [Hart.resume, ← h]
  rw [State.withHart, hr]

@[simp] theorem State.cluster_withCluster (s : State) (f : Cluster → Cluster) : (s.withCluster f).cluster = f s.cluster := by
  rw [State.cluster, State.withCluster, State.clusterAt_modCluster]
  exact if_pos rfl

/-- A fold of operations that change no more than the writes under way and the dies changes no more. -/
theorem foldl_pend_dies {α : Type} (f : State → α → State) (h : ∀ s a, f s a = { s with pend := (f s a).pend, dies := (f s a).dies }) (l : List α)
    (s : State) : l.foldl f s = { s with pend := (l.foldl f s).pend, dies := (l.foldl f s).dies } := by
  induction l generalizing s with
  | nil => rfl
  | cons a l ih => rw [List.foldl_cons, ih, h s a]

/-- What a load leaves behind is found in the writes under way and in the dies (13 R281; 15 R317). -/
theorem State.observeAt_eq (s : State) (c : Ctx) (sc : Scope) (va : Word) (n : Nat) :
    s.observeAt c sc va n = { s with pend := (s.observeAt c sc va n).pend, dies := (s.observeAt c sc va n).dies } := by
  unfold State.observeAt
  split
  · rw [State.requests_eq]
    rfl
  · rfl

/-! ### Fields of a word (00 R4) -/

theorem withBits_low_seven (w : Word) : withBits w 0 7 0 = w &&& 0xFFFFFFFFFFFFFF80 := by
  have hmask : ∀ i < 64, (0xFFFFFFFFFFFFFF80 : Word).getLsbD i = decide (7 ≤ i) := by decide
  refine BitVec.eq_of_getLsbD_eq fun i hi => ?_
  rw [getLsbD_withBits _ _ _ _ _ (by decide), BitVec.getLsbD_and, hmask i hi]
  by_cases h : i < 7
  · simp [h, Nat.not_le.mpr h]
  · simp [h, Nat.not_lt.mp h]

theorem bits_withBits_same (w : Word) (lo len v : Nat) (h : lo + len ≤ 64) : bits (withBits w lo len v) lo len = v % 2 ^ len := by
  rw [bits_eq_toNat_extractLsb', extractLsb'_withBits_same _ _ _ _ h, BitVec.toNat_ofNat]

/-! ### Channels (09 R191, R192; 10 R217) -/

/-- What MATTACH grants of a request for `req` rows under row limit `q`, once the hart has given back what it holds (09 R191). -/
def State.rowsGranted (s : State) (q req : Nat) : Nat :=
  let u := s.releaseChannels s.cur
  let other := Tab.get 0 u.cluster.chan (chanKey (if slotOf s.cur = 0 then s.cur + 1 else s.cur - 1))
  min (min req (64 - other)) (min q (128 - u.cluster.channelsHeld))

theorem State.rowsGranted_le (s : State) (q req : Nat) : s.rowsGranted q req ≤ req := by
  unfold State.rowsGranted
  dsimp only
  omega

@[simp] theorem State.releaseChannels_cur (s : State) (h : Nat) : (s.releaseChannels h).cur = s.cur := by simp [State.releaseChannels]

/-- The hart after it has given back its channels. -/
theorem State.releaseChannels_hart (s : State) : (s.releaseChannels s.cur).hart
    = { s.hart with mgrant := s.hart.mgrant &&& 0xFFFFFFFFFFFFFF80, loweredGq := none, throttledM := false } := by
  rw [← withBits_low_seven, ← State.hartAt_cur, State.releaseChannels_cur, State.releaseChannels, State.hartAt_modHart, if_pos rfl,
    State.hartAt_modCluster, State.hartAt_cur]

/-- Its cluster after that. -/
theorem State.releaseChannels_cluster (s : State) :
    (s.releaseChannels s.cur).cluster = { s.cluster with chan := Tab.put 0 s.cluster.chan (chanKey s.cur) 0 } := by
  rw [State.cluster, State.releaseChannels_cur]
  have h : (s.releaseChannels s.cur).clusters = (s.withCluster (fun c => { c with chan := Tab.put 0 c.chan (chanKey s.cur) 0 })).clusters := by
    simp [State.releaseChannels, State.withCluster]
  rw [State.clusterAt, h]
  exact s.cluster_withCluster _

/-- mgrant as MATTACH leaves it: the rows granted, the row limit, the request (09 R191). -/
def mgrantOf (g q req : Nat) : Word := word (g + q % 128 * 2 ^ 8 + req * 2 ^ 16)

/-- The state after a grant of `g` rows. -/
def State.granted (s : State) (q req g : Nat) : State :=
  ((s.releaseChannels s.cur).withCluster (fun c => { c with chan := Tab.put 0 c.chan (chanKey s.cur) g, lastServed := chanKey s.cur })).withHart
    (fun h => { h with mgrant := mgrantOf g q req })

theorem State.grantRowsBy_eq (s : State) (q req : Nat) :
    s.grantRowsBy q req = (s.granted q req (s.rowsGranted q req), s.rowsGranted q req) := by
  simp only [State.grantRowsBy, State.releaseChannels_cur]
  rfl

/-- The row limit that MATTACH sees (11 R247; 24 R439). -/
def State.rowLimit (s : State) : Nat := rowLimitOf (s.pwrSeen (coreOf s.cur)) (slotOf s.cur)

theorem State.rowLimit_lt (s : State) : s.rowLimit < 128 := by
  unfold State.rowLimit rowLimitOf bits
  omega

theorem exec_mattach_eq (s : State) (d a : Reg) :
    let req := min (s.x a).toNat 64
    let g := s.rowsGranted s.rowLimit req
    exec (.mattach d a) s = .next ((s.granted s.rowLimit req g).setX d (word g)).retire := by
  show execMattach d a s = _
  rw [execMattach, State.grantRows, State.grantRowsBy_eq]
  rfl

theorem exec_mdetach_eq (s : State) : exec .mdetach s = .next (s.releaseChannels s.cur).retire := rfl

theorem bits_mgrantOf (g q req : Nat) (hg : g < 128) (hq : q < 128) (hr : req < 128) :
    bits (mgrantOf g q req) 0 7 = g ∧ bits (mgrantOf g q req) 8 7 = q ∧ bits (mgrantOf g q req) 16 7 = req := by
  simp only [bits, mgrantOf, word, BitVec.toNat_ofNat]
  omega

/-- The bits of mgrant outside its three fields stay zero. -/
theorem mgrantOf_reserved (g q req : Nat) (hg : g < 128) (hr : req < 128) : mgrantOf g q req &&& 0xFFFFFFFFFF808080 = 0 := by
  have hmask : ∀ i < 64, (0xFFFFFFFFFF808080 : Word).getLsbD i = true → i = 7 ∨ i = 15 ∨ 23 ≤ i := by decide
  refine BitVec.eq_of_getLsbD_eq fun i hi => ?_
  rw [BitVec.getLsbD_and]
  refine Eq.trans (Bool.and_eq_false_iff.mpr ?_) BitVec.getLsbD_zero.symm
  by_cases hm : (0xFFFFFFFFFF808080 : Word).getLsbD i = true
  · refine .inl ?_
    rw [mgrantOf, word, BitVec.getLsbD_ofNat, decide_eq_true hi, Bool.true_and, Nat.testBit_eq_decide_div_mod_eq, decide_eq_false_iff_not]
    obtain rfl | rfl | h := hmask i hi hm
    · omega
    · omega
    · rw [Nat.div_eq_of_lt (Nat.lt_of_lt_of_le (by omega : _ < 2 ^ 23) (Nat.pow_le_pow_right (by decide) h))]
      decide
  · exact .inr (Bool.eq_false_iff.mpr hm)

/-- The channels of the cluster after a grant: the hart's own, and those of the others as they were. -/
theorem State.granted_chan (s : State) (q req g k : Nat) :
    Tab.get 0 (s.granted q req g).cluster.chan k = if k = chanKey s.cur then g else Tab.get 0 s.cluster.chan k := by
  have h : (s.granted q req g).cluster = ((s.releaseChannels s.cur).withCluster
      (fun c => { c with chan := Tab.put 0 c.chan (chanKey s.cur) g, lastServed := chanKey s.cur })).cluster := rfl
  rw [h, State.cluster_withCluster, State.releaseChannels_cluster, Tab.get_put]
  split
  · rfl
  · next hk => exact Tab.get_put_ne 0 s.cluster.chan 0 hk

theorem State.granted_hart (s : State) (q req g : Nat) :
    (s.granted q req g).hart = { s.hart with mgrant := mgrantOf g q req, loweredGq := none, throttledM := false } := by
  have h : (s.granted q req g).hart = { (s.releaseChannels s.cur).hart with mgrant := mgrantOf g q req } := rfl
  rw [h, State.releaseChannels_hart]

@[simp] theorem State.granted_mem (s : State) (q req g : Nat) : (s.granted q req g).mem = s.mem := by simp [State.granted]

/-- MATTACH, MDETACH and ADCFG complete (09 R191, R192, R203; 10 R217, R223). -/
theorem exec_mattach (s : State) (d a : Reg) :
    let req := min (s.x a).toNat 64
    let g := s.rowsGranted s.rowLimit req
    ∃ t, exec (.mattach d a) s = .next t ∧ t.hart.x = (s.setX d (word g)).hart.x ∧ t.hart.pc = s.hart.pc + 4 ∧ bits t.hart.mgrant 0 7 = g
      ∧ bits t.hart.mgrant 8 7 = s.rowLimit ∧ bits t.hart.mgrant 16 7 = req ∧ t.hart.mgrant &&& 0xFFFFFFFFFF808080 = 0
      ∧ t.mem = s.mem ∧ ∀ k, Tab.get 0 t.cluster.chan k = if k = chanKey s.cur then g else Tab.get 0 s.cluster.chan k := by
  intro req g
  have hr : req < 128 := by omega
  have hg : g < 128 := Nat.lt_of_le_of_lt (s.rowsGranted_le _ req) hr
  obtain ⟨hrows, hlimit, hreq⟩ := bits_mgrantOf g s.rowLimit req hg s.rowLimit_lt hr
  have hm : (((s.granted s.rowLimit req g).setX d (word g)).retire).hart.mgrant = mgrantOf g s.rowLimit req := by simp [State.granted_hart]
  refine ⟨_, exec_mattach_eq s d a, ?_, ?_, hm ▸ hrows, hm ▸ hlimit, hm ▸ hreq, hm ▸ mgrantOf_reserved g s.rowLimit req hg hr, ?_, s.granted_chan s.rowLimit req g⟩
  · simp only [State.retire_hart, Hart.retireTo_x, State.setX_hart, State.granted_hart, Hart.setReg]
    split <;> rfl
  · simp [State.granted_hart]
  · exact s.granted_mem s.rowLimit req g

theorem exec_mdetach (s : State) : ∃ t, exec .mdetach s = .next t ∧ t.hart.x = s.hart.x ∧ t.hart.pc = s.hart.pc + 4
    ∧ t.hart.mgrant = s.hart.mgrant &&& 0xFFFFFFFFFFFFFF80 ∧ t.mem = s.mem
    ∧ ∀ k, Tab.get 0 t.cluster.chan k = if k = chanKey s.cur then 0 else Tab.get 0 s.cluster.chan k := by
  refine ⟨_, exec_mdetach_eq s, ?_, ?_, ?_, ?_, fun k => ?_⟩
  · simp [State.releaseChannels_hart]
  · simp [State.releaseChannels_hart]
  · simp [State.releaseChannels_hart]
  · simp
  · have h : (s.releaseChannels s.cur).retire.cluster = (s.releaseChannels s.cur).cluster := rfl
    rw [h, State.releaseChannels_cluster, Tab.get_put]

theorem exec_adcfg_eq (s : State) (a b : Reg) :
    exec (.adcfg a b) s = .next (s.withHart (fun h => { h with adbase := withBits (s.x a) 0 20 (bits (s.x b) 0 20) })).retire := rfl

/-- An instruction that writes `w` to adbase leaves the general registers and memory. -/
theorem State.withAdbase_frame (s : State) (w : Word) :
    let t := (s.withHart (fun h => { h with adbase := w })).retire
    t.hart.adbase = w ∧ t.hart.x = s.hart.x ∧ t.hart.pc = s.hart.pc + 4 ∧ t.mem = s.mem :=
  ⟨Hart.retireTo_adbase .., Hart.retireTo_x .., Hart.retireTo_pc .., rfl⟩

theorem exec_adcfg (s : State) (a b : Reg) : ∃ t, exec (.adcfg a b) s = .next t
    ∧ t.hart.adbase.extractLsb' 20 44 = (s.x a).extractLsb' 20 44 ∧ t.hart.adbase.extractLsb' 0 20 = (s.x b).extractLsb' 0 20
    ∧ t.hart.x = s.hart.x ∧ t.hart.pc = s.hart.pc + 4 ∧ t.mem = s.mem := by
  obtain ⟨hadbase, hx, hpc, hmem⟩ := s.withAdbase_frame (withBits (s.x a) 0 20 (bits (s.x b) 0 20))
  refine ⟨_, exec_adcfg_eq s a b, ?_, ?_, hx, hpc, hmem⟩
  · rw [hadbase, extractLsb'_withBits_other _ _ _ _ _ _ (by decide) (by decide)]
  · rw [hadbase, extractLsb'_withBits_same _ _ _ _ (by decide), bits_eq_toNat_extractLsb', BitVec.ofNat_toNat, BitVec.setWidth_eq]

/-! ### Tiles (09 R200, R212, R213; 10 R220) -/

@[simp] theorem State.core_retire (s : State) : s.retire.core = s.core := rfl

theorem Core.acc_withZstate (c : Core) (w : Word) (k : Nat) : ({ c with zstate := w } : Core).acc k = c.acc k := rfl

/-- zstate.rv as it is written. -/
theorem Core.rv_setRv (c : Core) (b : Bool) : (c.setRv b).rv = b := by
  have h : (c.setRv b).rv = (withBits c.zstate 62 1 (bit b)).getLsbD 62 := rfl
  rw [h, getLsbD_withBits _ _ _ _ _ (by decide), if_pos (by decide)]
  cases b <;> rfl

/-- The dirty bits that a mask of tiles sets (09 R213). -/
theorem getLsbD_dirty (c : Core) (m j : Nat) (hj : j < 64) :
    (c.dirty m).zstate.getLsbD j = (c.zstate.getLsbD j || (decide (48 ≤ j ∧ j < 53) && m.testBit (j - 48))) := by
  have hm : (word (m % 32 * 2 ^ 48)).getLsbD j = (decide (48 ≤ j ∧ j < 53) && m.testBit (j - 48)) := by
    have h32 : m % 32 = m % 2 ^ 5 := rfl
    rw [word, BitVec.getLsbD_ofNat, decide_eq_true hj, Bool.true_and, Nat.testBit_mul_two_pow, h32, Nat.testBit_mod_two_pow]
    by_cases h : 48 ≤ j
    · have he : j - 48 < 5 ↔ j < 53 := by omega
      simp [h, he]
    · simp [h]
  rw [Core.dirty, BitVec.getLsbD_or, hm]

/-- A core whose tiles of mask `m` are cleared (10 R220). -/
def Core.zeroed (c : Core) (m : Nat) : Core :=
  ({ c with tile := c.tile.filter (fun p => !m.testBit (p.1 / 4096)), zrdone := 0 }.setRv false).dirty m

theorem exec_zzero_eq (s : State) (a : Reg) (ht : s.tilesOk = true) :
    exec (.zzero a) s = .next (s.withCore (fun c => c.zeroed (bits (s.x a) 0 5))).retire := if_pos ht

theorem Core.zeroed_zrdone (c : Core) (m : Nat) : (c.zeroed m).zrdone = 0 := rfl

theorem Core.zeroed_acc (c : Core) (m k : Nat) : (c.zeroed m).acc k = if m.testBit (k / 4096) then 0 else c.acc k := by
  have h := Tab.get_filter 0 c.tile (fun n => !m.testBit (n / 4096)) k
  refine Eq.trans h ?_
  cases m.testBit (k / 4096) <;> rfl

/-- Outside rv, clearing tiles adds to zstate their dirty bits alone. -/
theorem Core.zeroed_zstate (c : Core) (m j : Nat) (hj : j < 64) (hrv : j ≠ 62) :
    (c.zeroed m).zstate.getLsbD j = (c.zstate.getLsbD j || (decide (48 ≤ j ∧ j < 53) && m.testBit (j - 48))) := by
  rw [Core.zeroed, getLsbD_dirty _ _ _ hj, Core.setRv, getLsbD_withBits _ _ _ _ _ (by decide), if_neg (by omega)]

theorem Core.zeroed_rv (c : Core) (m : Nat) : (c.zeroed m).rv = false := by
  have h : ∀ d : Core, (d.dirty m).rv = d.rv := fun d => (getLsbD_dirty d m 62 (by decide)).trans (Bool.or_false _)
  rw [Core.zeroed, h, Core.rv_setRv]

theorem exec_zzero (s : State) (a : Reg) (ht : s.tilesOk = true) :
    ∃ t, exec (.zzero a) s = .next t ∧ t.hart = s.retire.hart ∧ t.mem = s.mem ∧ t.core.zrdone = 0 ∧ t.core.rv = false
      ∧ (∀ j, j < 64 → j ≠ 62 → t.core.zstate.getLsbD j
          = (s.core.zstate.getLsbD j || (decide (48 ≤ j ∧ j < 53) && (s.x a).getLsbD (j - 48))))
      ∧ ∀ k, t.core.acc k = if (bits (s.x a) 0 5).testBit (k / 4096) then 0 else s.core.acc k := by
  refine ⟨_, exec_zzero_eq s a ht, rfl, rfl, ?_⟩
  rw [State.core_retire, State.core_withCore]
  refine ⟨rfl, Core.zeroed_rv _ _, fun j hj hrv => ?_, Core.zeroed_acc _ _⟩
  rw [Core.zeroed_zstate _ _ _ hj hrv]
  by_cases h : 48 ≤ j ∧ j < 53
  · have hlt : j - 48 < 5 := by omega
    rw [bits, Nat.pow_zero, Nat.div_one, Nat.testBit_mod_two_pow, decide_eq_true hlt, Bool.true_and]
    rfl
  · rw [decide_eq_false h, Bool.false_and, Bool.false_and]

/-! ### The image (10 R221, R222) -/

theorem exec_zsave_eq (s u : State) (a : Reg) (hrun : s.hart.run = .running) (ht : s.tilesOk = true) (hb : s.coreBusy = false)
    (ha : (s.x a).toNat % 256 = 0) (hu : s.storeLines 2884 (s.x a) s.core.image = (u, none)) :
    exec (.zsave a) s = .next (u.withCore (fun c => c.setDirty 0)).retire := by
  show execZsave a s = _
  have hi : imageBytes / 64 = 2884 := rfl
  simp only [execZsave, ht, hb, s.withHart_resume hrun, ha, hi, hu]
  rfl

/-- The core that the image at `va` gives; what cannot be read of it stays (10 R222). -/
def State.imageCore (s : State) (va : Word) : Core :=
  let c := s.core.fillTiles (fun k => BitVec.ofNat 80 ((s.imageNat (va + word (imageAt k)) 10).getD (s.core.acc k).toNat))
  { c with zrdone := word ((s.imageNat (va + word 8) 8).getD s.core.zrdone.toNat) }.setRv ((s.imageNat (va + word 16) 1).getD (bit s.core.rv) % 2 = 1)

/-- The image's lines as the hart has read them (15 R317). -/
def State.readImage (s : State) (va : Word) : State :=
  (List.range 2884).foldl (fun s i => s.observeAt s.ctx .hart (va + word (64 * i)) 64) s

theorem exec_zload_eq (s : State) (a : Reg) (ht : s.tilesOk = true) (ha : (s.x a).toNat % 256 = 0)
    (hl : s.loadLines s.ctx 2884 (s.x a) = none) :
    exec (.zload a) s = .next ((s.withCore (fun _ => (s.imageCore (s.x a)).setDirty 0)).readImage (s.x a)).retire := by
  show execZload a s = _
  have hi : imageBytes / 64 = 2884 := rfl
  simp only [execZload, ht, ha, hi, hl, Option.isNone_none, Bool.true_or, if_true]
  rw [if_neg (by decide), if_neg (by decide), done_eq]
  simp only [State.readImage, State.imageCore]

/-- Its tiles: the image's elements. -/
theorem State.imageCore_tile (s : State) (va : Word) : (s.imageCore va).tile
    = (s.core.fillTiles (fun k => BitVec.ofNat 80 ((s.imageNat (va + word (imageAt k)) 10).getD (s.core.acc k).toNat))).tile := by
  simp only [State.imageCore, Core.setRv]

theorem Core.fillTiles_acc (c : Core) (f : Nat → Acc) (k : Nat) (hk : k < tileKeys) : (c.fillTiles f).acc k = f k := by
  rw [Core.acc, Core.fillTiles, Tab.get_listed, if_pos (List.mem_range.mpr hk)]

/-- A tile element of the image is what the core holds of it from then on. -/
theorem State.imageCore_acc (s : State) (va : Word) (k v : Nat) (hk : k < tileKeys) (hv : s.imageNat (va + word (imageAt k)) 10 = some v) :
    (s.imageCore va).acc k = BitVec.ofNat 80 v := by
  rw [Core.acc, State.imageCore_tile, ← Core.acc, Core.fillTiles_acc _ _ _ hk, hv, Option.getD_some]

theorem State.imageCore_zrdone (s : State) (va : Word) (v : Nat) (hv : s.imageNat (va + word 8) 8 = some v) : (s.imageCore va).zrdone = word v := by
  simp only [State.imageCore, Core.setRv, hv, Option.getD_some]

/-- A state that differs from `s` in the writes under way and the dies alone. -/
theorem State.frame_of_pend_dies {s t : State} (h : t = { s with pend := t.pend, dies := t.dies }) : t.hart = s.hart ∧ t.mem = s.mem ∧ t.core = s.core :=
  ⟨(congrArg State.hart h).trans rfl, (congrArg State.mem h).trans rfl, (congrArg State.core h).trans rfl⟩

/-- Reading the image leaves the hart, memory and the core. -/
theorem State.readImage_frame (s : State) (va : Word) :
    (s.readImage va).hart = s.hart ∧ (s.readImage va).mem = s.mem ∧ (s.readImage va).core = s.core :=
  State.frame_of_pend_dies (foldl_pend_dies _ (fun _ _ => State.observeAt_eq ..) _ s)

theorem exec_zload (s : State) (a : Reg) (ht : s.tilesOk = true) (ha : (s.x a).toNat % 256 = 0) (hl : s.loadLines s.ctx 2884 (s.x a) = none) :
    ∃ t, exec (.zload a) s = .next t ∧ t.hart = s.retire.hart ∧ t.mem = s.mem ∧ bits t.core.zstate 48 5 = 0
      ∧ (∀ k v, k < 18432 → s.imageNat (s.x a + word (256 + 10 * k)) 10 = some v → t.core.acc k = BitVec.ofNat 80 v)
      ∧ (∀ v, s.imageNat (s.x a + 8) 8 = some v → t.core.zrdone = word v) := by
  obtain ⟨hhart, hmem, hcore⟩ := (s.withCore (fun _ => (s.imageCore (s.x a)).setDirty 0)).readImage_frame (s.x a)
  refine ⟨_, exec_zload_eq s a ht ha hl, ?_⟩
  rw [State.retire_hart, State.retire_mem, State.core_retire, hhart, hmem, hcore, State.core_withCore]
  exact ⟨rfl, rfl, bits_withBits_same _ 48 5 0 (by decide), fun k v hk hv => (Core.acc_withZstate ..).trans (s.imageCore_acc _ k v hk hv),
    s.imageCore_zrdone _⟩

/-- Without the right to the tiles none of the three words acts (09 R213). -/
theorem exec_tileWord_of_denied (s : State) (a : Reg) (ht : s.tilesOk = false) :
    ∀ i ∈ [Instr.zzero a, .zsave a, .zload a], exec i s = .next (s.trap ⟨19, 0⟩) := by
  have hn : ¬s.tilesOk = true := Bool.eq_false_iff.mp ht
  intro i hi
  rcases List.mem_cons.mp hi with rfl | hi
  · exact if_neg hn
  · have hd : (!s.tilesOk) = true := by rw [ht]; rfl
    simp only [List.mem_cons, List.not_mem_nil, or_false] at hi
    obtain rfl | rfl := hi
    · exact if_pos hd
    · exact if_pos hd

/-- ZSAVE and ZLOAD at an address that is not aligned to 256 bytes (10 R222). -/
theorem exec_zsave_misaligned (s : State) (a : Reg) (hrun : s.hart.run = .running) (ht : s.tilesOk = true) (hb : s.coreBusy = false)
    (ha : (s.x a).toNat % 256 ≠ 0) : exec (.zsave a) s = .next (s.trap ⟨6, s.x a⟩) := by
  show execZsave a s = _
  simp only [execZsave, ht, hb, s.withHart_resume hrun, if_pos ha]
  rfl

theorem exec_zload_misaligned (s : State) (a : Reg) (ht : s.tilesOk = true) (ha : (s.x a).toNat % 256 ≠ 0) :
    exec (.zload a) s = .next (s.trap ⟨4, s.x a⟩) := by
  have hd : ¬(!s.tilesOk) = true := by simp [ht]
  exact (if_neg hd).trans (if_pos ha)

/-- Settles O33: the channels by what MATTACH grants, the tiles element by element, the image by the numbers read from it. -/
theorem channelsAndTiles : Obligations.ChannelsAndTiles := by
  refine ⟨fun s d a b => ⟨exec_mattach s d a, exec_mdetach s, exec_adcfg s a b⟩, fun s a hrun => ⟨fun ht => ?_, exec_tileWord_of_denied s a⟩⟩
  exact ⟨exec_zzero s a ht, fun u hb ha hu => exec_zsave_eq s u a hrun ht hb ha hu, exec_zload s a ht,
    fun ha => ⟨exec_zload_misaligned s a ht ha, fun hb => exec_zsave_misaligned s a hrun ht hb ha⟩⟩

end Sys2Proof.Machine
end

section
/-! WLOAD in its three kinds (09 R195 to R197; 10 R218, R219): what an accepted request leaves of the slots and of the queue of its cluster, and how a
WLOAD ends for each descriptor and slot it names. -/

namespace Sys2Proof.Machine

@[simp] theorem State.cluster_retire (s : State) : s.retire.cluster = s.cluster := rfl

/-! ### Slots of a cluster (09 R195) -/

theorem Cluster.slot_setSlot (c : Cluster) (n k : Nat) (v : WSlot) : (c.setSlot n v).slot k = if k = n then v else c.slot k := Tab.get_put ..

/-- Slots emptied in turn: those among `l` that `q` names. -/
theorem Cluster.slot_emptied (q : Nat → Bool) (l : List Nat) (c : Cluster) (k : Nat) :
    (l.foldl (fun c n => if q n then c.setSlot n WSlot.empty else c) c).slot k = if k ∈ l ∧ q k = true then WSlot.empty else c.slot k := by
  induction l generalizing c with
  | nil => simp
  | cons n l ih =>
    rw [List.foldl_cons, ih]
    by_cases hq : q n = true
    · by_cases hk : k = n
      · subst hk; simp [hq, Cluster.slot_setSlot]
      · simp [hq, hk, Cluster.slot_setSlot]
    · by_cases hk : k = n
      · subst hk; simp [hq]
      · simp [hq, hk]

/-! ### An accepted request (09 R197; 10 R219) -/

/-- A request that begins and no load: the slots it covers are empty, but those that `macroRetired` keeps in error. -/
theorem slot_beginReq (c : Cluster) (r : WloadReq) (k : Nat) (hr : r.kind ≠ 0) :
    (beginReq c r []).1.slot k
      = if k < 512 ∧ r.covers c k = true ∧ c.macroRetired.contains (k / 8) = false then WSlot.empty else c.slot k := by
  rw [beginReq, if_neg hr]
  dsimp only
  rw [Cluster.slot_emptied]
  simp [macroOf]

theorem beginReq_load (c : Cluster) (r : WloadReq) (later : List WloadReq) (hr : r.kind = 0) :
    beginReq c r later = (c, some { r with applied := true }) := if_pos hr

@[simp] theorem State.acceptReq_hart (s : State) (r : WloadReq) : (s.acceptReq r).hart = s.hart := by
  unfold State.acceptReq; dsimp only; split <;> rfl
@[simp] theorem State.acceptReq_mem (s : State) (r : WloadReq) : (s.acceptReq r).mem = s.mem := by
  unfold State.acceptReq; dsimp only; split <;> rfl

/-- An accepted request begins at once or waits in the queue. -/
theorem State.acceptReq_eq (s : State) (r : WloadReq) :
    s.acceptReq r =
      if s.mayBegin (clusterOf s.cur) s.cluster.wloads r then
        s.withCluster (fun _ => { (beginReq s.cluster r []).1 with wloads := s.cluster.wloads ++ (beginReq s.cluster r []).2.toList })
      else s.withCluster (fun k => { k with wloads := s.cluster.wloads ++ [r] }) := by
  simp only [State.acceptReq, State.cluster, State.withCluster]
  rfl

/-- The cluster of the current hart, where a request begins at once. -/
theorem State.cluster_acceptReq_of_mayBegin (s : State) (r : WloadReq) (h : s.mayBegin (clusterOf s.cur) s.cluster.wloads r = true) :
    (s.acceptReq r).cluster = { (beginReq s.cluster r []).1 with wloads := s.cluster.wloads ++ (beginReq s.cluster r []).2.toList } := by
  rw [State.acceptReq_eq, if_pos h, State.cluster_withCluster]

/-- The cluster of the current hart, where a request waits. -/
theorem State.cluster_acceptReq_of_waits (s : State) (r : WloadReq) (h : s.mayBegin (clusterOf s.cur) s.cluster.wloads r = false) :
    (s.acceptReq r).cluster = { s.cluster with wloads := s.cluster.wloads ++ [r] } := by
  rw [State.acceptReq_eq, if_neg (Bool.eq_false_iff.mp h), State.cluster_withCluster]

/-- A request that empties slots and begins at once has emptied them. -/
theorem State.slot_acceptReq_of_mayBegin (s : State) (r : WloadReq) (k : Nat) (hr : r.kind ≠ 0)
    (h : s.mayBegin (clusterOf s.cur) s.cluster.wloads r = true) :
    (s.acceptReq r).cluster.slot k
      = if k < 512 ∧ r.covers s.cluster k = true ∧ s.cluster.macroRetired.contains (k / 8) = false then WSlot.empty else s.cluster.slot k := by
  rw [s.cluster_acceptReq_of_mayBegin r h]
  exact slot_beginReq s.cluster r k hr

/-- A load, whether it begins or waits, joins the queue and leaves the slots as they are. -/
theorem State.cluster_acceptReq_load (s : State) (r : WloadReq) (hr : r.kind = 0) :
    (∀ k, (s.acceptReq r).cluster.slot k = s.cluster.slot k) ∧ (s.acceptReq r).cluster.queued = s.cluster.queued + 1 := by
  have hqueued (c : Cluster) (q : WloadReq) (hq : q.kind = 0) : ({ c with wloads := c.wloads ++ [q] } : Cluster).queued = c.queued + 1 := by
    simp only [Cluster.queued, List.filter_append, List.length_append, List.filter_cons, hq, decide_true, if_true, List.filter_nil, List.length_cons,
      List.length_nil]
    omega
  by_cases h : s.mayBegin (clusterOf s.cur) s.cluster.wloads r = true
  · rw [s.cluster_acceptReq_of_mayBegin r h, beginReq_load _ _ _ hr]
    exact ⟨fun _ => rfl, hqueued s.cluster { r with applied := true } hr⟩
  · rw [s.cluster_acceptReq_of_waits r (Bool.eq_false_iff.mpr h)]
    exact ⟨fun _ => rfl, hqueued s.cluster r hr⟩

/-- An accepted load of elements of at most eight bits marks its slot loading and joins the queue (10 R219). -/
theorem State.acceptLoad_of_single (s : State) (r : WloadReq) (hr : r.kind = 0) (h16 : is16 r.tag = false) :
    (s.acceptLoad r).hart = s.hart ∧ (s.acceptLoad r).mem = s.mem ∧ (s.acceptLoad r).cluster.queued = s.cluster.queued + 1
      ∧ ∀ k, (s.acceptLoad r).cluster.slot k
          = if k = r.s then (s.cluster.slot r.s).loading r 0 (s.keptContent (clusterOf s.cur) r.s) else s.cluster.slot k := by
  let v := (s.cluster.slot r.s).loading r 0 (s.keptContent (clusterOf s.cur) r.s)
  have he : s.acceptLoad r = (s.withCluster (fun _ => s.cluster.setSlot r.s v)).acceptReq r := by
    simp only [State.acceptLoad, h16]
    rfl
  obtain ⟨hslot, hqueued⟩ := (s.withCluster (fun _ => s.cluster.setSlot r.s v)).cluster_acceptReq_load r hr
  rw [State.cluster_withCluster] at hslot hqueued
  rw [he]
  exact ⟨State.acceptReq_hart .., State.acceptReq_mem .., hqueued, fun k => (hslot k).trans (Cluster.slot_setSlot ..)⟩

/-! ### WLOAD by kind (10 R218) -/

theorem exec_wload_kind0 (s : State) (a b : Reg) (h : bits (s.x b) 10 2 = 0) :
    exec (.wload a b) s = wloadLoad (.wload a b) a (bits (s.x b) 0 9) s := by
  show execWload a b s = _
  rw [execWload, h]
  rfl

theorem exec_wload_kind1 (s : State) (a b : Reg) (h : bits (s.x b) 10 2 = 1) : exec (.wload a b) s = exec (.wloadEmptySlot a b) s := by
  show execWload a b s = _
  rw [execWload, h]
  rfl

theorem exec_wload_kind2 (s : State) (a b : Reg) (h : bits (s.x b) 10 2 = 2) : exec (.wload a b) s = exec (.wloadEmptyAsid a b) s := by
  show execWload a b s = _
  rw [execWload, h]
  rfl

theorem exec_wload_kind3 (s : State) (a b : Reg) (h : bits (s.x b) 10 2 = 3) :
    exec (.wload a b) s = .next (s.trap ⟨22, word (bits (s.x b) 0 9)⟩) := by
  show execWload a b s = _
  rw [execWload, h]
  rfl

/-! ### WLOAD that loads (10 R218, R219) -/

/-- Reading a descriptor leaves the hart, memory and the clusters (15 R317). -/
theorem State.observeDwords_eq (s : State) (c : Ctx) (sc : Scope) (va : Word) (n : Nat) :
    s.observeDwords c sc va n = { s with pend := (s.observeDwords c sc va n).pend, dies := (s.observeDwords c sc va n).dies } :=
  foldl_pend_dies _ (fun _ _ => State.observeAt_eq ..) _ s

/-- A WLOAD that has read its descriptor `ws`: refused, of another's slot, or accepted. -/
theorem wloadLoad_of_read (i : Instr) (a : Reg) (n : Nat) (s : State) (ws : List Nat) (hrun : s.hart.run = .running) (hq : s.cluster.queued < 8)
    (hws : s.loadDwords s.ctx .hart (s.x a) 4 = .ok ws) :
    let u := s.observeDwords s.ctx .hart (s.x a) 4
    let d := WDesc.of ws
    wloadLoad i a n s =
      if d.bad n || s.cluster.macroRetired.contains (n / 8) then raise u 22 (word n)
      else if s.slotDenied n then raise u 21 (word n)
      else if is16 d.tag && s.slotDenied (n + 1) then raise u 21 (word (n + 1))
      else done (u.acceptLoad (u.wloadReq 0 n s.hart.asid d)) := by
  intro u d
  have hu : u = { s with pend := u.pend, dies := u.dies } := State.observeDwords_eq ..
  have hcluster : u.cluster = s.cluster := (congrArg State.cluster hu).trans rfl
  have hhart : u.hart = s.hart := (congrArg State.hart hu).trans rfl
  have hdenied (k : Nat) : u.slotDenied k = s.slotDenied k := by rw [State.slotDenied, State.slotDenied, hcluster, hhart]
  simp only [wloadLoad, if_neg (Nat.not_le.mpr hq), s.withHart_resume hrun, hws, orTrap_ok]
  simp only [show s.observeDwords s.ctx .hart (s.x a) 4 = u from rfl, hcluster, hhart, hdenied, macroOf]
  rfl

/-- A full queue makes a load wait at issue. -/
theorem wloadLoad_of_full (i : Instr) (a : Reg) (n : Nat) (s : State) (hq : 8 ≤ s.cluster.queued) :
    wloadLoad i a n s = .next { s with hart := { s.hart with run := .waiting (.drained i) } } := if_pos hq

/-- How a WLOAD that has read its descriptor ends, outcome by outcome. -/
theorem exec_wload_of_read (s : State) (a b : Reg) (ws : List Nat) (hrun : s.hart.run = .running) (hkind : bits (s.x b) 10 2 = 0)
    (hq : s.cluster.queued < 8) (hws : s.loadDwords s.ctx .hart (s.x a) 4 = .ok ws) :
    let n := bits (s.x b) 0 9
    let u := s.observeDwords s.ctx .hart (s.x a) 4
    let d := WDesc.of ws
    let retired := s.cluster.macroRetired.contains (n / 8)
    (d.bad n ∨ retired → ∃ v : State, exec (.wload a b) s = .next (v.trap ⟨22, word n⟩) ∧ v.hart = s.hart)
      ∧ (d.bad n = false → retired = false → s.slotDenied n → ∃ v : State, exec (.wload a b) s = .next (v.trap ⟨21, word n⟩) ∧ v.hart = s.hart)
      ∧ (d.bad n = false → retired = false → s.slotDenied n = false → is16 d.tag = false →
          ∃ t, exec (.wload a b) s = .next t ∧ t.hart = s.retire.hart ∧ t.mem = s.mem ∧ (t.cluster.slot n).state = .loading
            ∧ (t.cluster.slot n).asid = s.hart.asid ∧ (t.cluster.slot n).tag = d.tag ∧ (∀ k, k ≠ n → t.cluster.slot k = s.cluster.slot k)
            ∧ t.cluster.queued = s.cluster.queued + 1)
      ∧ (d.bad n = false → retired = false → s.slotDenied n = false → is16 d.tag → s.slotDenied (n + 1) = false →
          exec (.wload a b) s = .next (u.acceptLoad (u.wloadReq 0 n s.hart.asid d)).retire) := by
  intro n u d retired
  have hu : u = { s with pend := u.pend, dies := u.dies } := State.observeDwords_eq ..
  have hcluster : u.cluster = s.cluster := (congrArg State.cluster hu).trans rfl
  obtain ⟨hhart, hmem, -⟩ := State.frame_of_pend_dies hu
  have he := (exec_wload_kind0 s a b hkind).trans (wloadLoad_of_read (.wload a b) a n s ws hrun hq hws)
  have hgood (hb : d.bad n = false) (hr : retired = false) : ¬(d.bad n || retired) = true := by rw [hb, hr]; decide
  have hfree {k : Nat} (hd : s.slotDenied k = false) : ¬s.slotDenied k = true := Bool.eq_false_iff.mp hd
  have hfirst (h16 : is16 d.tag = false) : ¬(is16 d.tag && s.slotDenied (n + 1)) = true := by rw [h16, Bool.false_and]; decide
  have hsecond (hd : s.slotDenied (n + 1) = false) : ¬(is16 d.tag && s.slotDenied (n + 1)) = true := by rw [hd, Bool.and_false]; decide
  refine ⟨fun h => ⟨u, ?refused, hhart⟩, fun hb hr hd => ⟨u, ?denied, hhart⟩, fun hb hr hd h16 => ?single, fun hb hr hd _ hd' => ?pair⟩
  case refused => exact he.trans (if_pos (Bool.or_eq_true_iff.mpr h))
  case denied => exact he.trans ((if_neg (hgood hb hr)).trans (if_pos hd))
  case pair => exact he.trans ((if_neg (hgood hb hr)).trans ((if_neg (hfree hd)).trans (if_neg (hsecond hd'))))
  case single =>
    obtain ⟨hh, hm, hqueued, hslot⟩ := u.acceptLoad_of_single (u.wloadReq 0 n s.hart.asid d) rfl h16
    rw [hcluster] at hqueued hslot
    have hmarked := (hslot n).trans (if_pos rfl)
    refine ⟨_, he.trans ((if_neg (hgood hb hr)).trans ((if_neg (hfree hd)).trans (if_neg (hfirst h16)))), ?_⟩
    rw [State.retire_hart, State.retire_mem, State.cluster_retire, hh, hhart, hm, hmem]
    exact ⟨rfl, rfl, congrArg WSlot.state hmarked, congrArg WSlot.asid hmarked, congrArg WSlot.tag hmarked, fun k hk => (hslot k).trans (if_neg hk),
      hqueued⟩

/-! ### WLOAD that empties slots (09 R196; 10 R219) -/

theorem exec_wloadEmptySlot_retired (s : State) (a b : Reg) (h : s.cluster.macroRetired.contains (bits (s.x b) 0 9 / 8) = true) :
    exec (.wloadEmptySlot a b) s = .next (s.trap ⟨22, word (bits (s.x b) 0 9)⟩) := if_pos h

theorem exec_wloadEmptySlot_denied (s : State) (a b : Reg) (hr : s.cluster.macroRetired.contains (bits (s.x b) 0 9 / 8) = false)
    (hd : s.slotDenied (bits (s.x b) 0 9) = true) : exec (.wloadEmptySlot a b) s = .next (s.trap ⟨21, word (bits (s.x b) 0 9)⟩) :=
  (if_neg (Bool.eq_false_iff.mp hr)).trans (if_pos hd)

/-- A WLOAD that empties one slot completes, and has emptied it where nothing holds it. -/
theorem exec_wloadEmptySlot (s : State) (a b : Reg) (hd : s.slotDenied (bits (s.x b) 0 9) = false)
    (hr : s.cluster.macroRetired.contains (bits (s.x b) 0 9 / 8) = false) :
    let n := bits (s.x b) 0 9
    let r := s.wloadReq 1 n 0 (WDesc.of [])
    ∃ t, exec (.wloadEmptySlot a b) s = .next t ∧ t.hart = s.retire.hart ∧ t.mem = s.mem
      ∧ (s.mayBegin (clusterOf s.cur) s.cluster.wloads r → ∀ k, t.cluster.slot k = if k = n then WSlot.empty else s.cluster.slot k) := by
  intro n r
  have hn : n < 512 := Nat.mod_lt _ (by decide)
  refine ⟨(s.acceptReq r).retire, (if_neg (Bool.eq_false_iff.mp hr)).trans (if_neg (Bool.eq_false_iff.mp hd)), ?_⟩
  rw [State.retire_hart, State.retire_mem, State.cluster_retire, State.acceptReq_hart, State.acceptReq_mem]
  refine ⟨rfl, rfl, fun hb k => ?_⟩
  have hcovers : r.covers s.cluster k = decide (k = n) := rfl
  rw [s.slot_acceptReq_of_mayBegin r k Nat.one_ne_zero hb, hcovers]
  by_cases hk : k = n
  · rw [if_pos hk, if_pos ⟨hk ▸ hn, decide_eq_true hk, hk ▸ hr⟩]
  · rw [if_neg hk, if_neg fun h => hk (of_decide_eq_true h.2.1)]

theorem exec_wloadEmptyAsid_of_u (s : State) (a b : Reg) (hl : s.hart.level = .u) :
    ∃ w, encode (.wload a b) = some w ∧ exec (.wloadEmptyAsid a b) s = .next (s.trap ⟨2, w.setWidth 64⟩) :=
  ⟨_, rfl, (if_pos hl).trans (illegal_of_encode s (.wload a b) _ rfl)⟩

/-- A request of kind 2 covers no slot that `macroRetired` keeps in error. -/
theorem WloadReq.not_retired_of_covers {c : Cluster} {r : WloadReq} {k : Nat} (hr : r.kind = 2) (h : r.covers c k = true) :
    c.macroRetired.contains (k / 8) = false := by
  rw [WloadReq.covers, hr] at h
  simpa [macroOf] using ((Bool.and_eq_true _ _).mp h).2

/-- A WLOAD that empties the slots of an ASID completes, and has emptied them where nothing holds one of them. -/
theorem exec_wloadEmptyAsid (s : State) (a b : Reg) (hl : s.hart.level ≠ .u) :
    let r := s.wloadReq 2 0 (word (bits (s.x a) 0 11)) (WDesc.of [])
    ∃ t, exec (.wloadEmptyAsid a b) s = .next t ∧ t.hart = s.retire.hart ∧ t.mem = s.mem
      ∧ (s.mayBegin (clusterOf s.cur) s.cluster.wloads r →
          ∀ k, k < 512 → t.cluster.slot k = if r.covers s.cluster k then WSlot.empty else s.cluster.slot k) := by
  intro r
  refine ⟨(s.acceptReq r).retire, if_neg hl, ?_⟩
  rw [State.retire_hart, State.retire_mem, State.cluster_retire, State.acceptReq_hart, State.acceptReq_mem]
  refine ⟨rfl, rfl, fun hb k hk => ?_⟩
  rw [s.slot_acceptReq_of_mayBegin r k (Nat.succ_ne_zero 1) hb]
  by_cases hc : r.covers s.cluster k = true
  · rw [if_pos hc, if_pos ⟨hk, hc, WloadReq.not_retired_of_covers rfl hc⟩]
  · rw [if_neg hc, if_neg fun h => hc h.2.1]

/-- Settles O35: a load by what it has read of its descriptor, the other kinds by what their requests cover. -/
theorem weightSlotRequests : Obligations.WeightSlotRequests := by
  intro s a b hrun
  refine ⟨fun hk hq ws hws => exec_wload_of_read s a b ws hrun hk hq hws, fun hd hr => ⟨exec_wloadEmptySlot s a b hd hr, fun hk => ?one⟩,
    exec_wloadEmptySlot_retired s a b, exec_wloadEmptySlot_denied s a b, fun hl => ?user, fun hk hq => ?full,
    fun hl => ⟨exec_wloadEmptyAsid s a b hl, fun hk => ?all⟩, exec_wload_kind3 s a b⟩
  case one =>
    dsimp only
    rw [exec_wload_kind1 s a b hk]
    exact exec_wloadEmptySlot s a b hd hr
  case user =>
    obtain ⟨w, hw, he⟩ := exec_wloadEmptyAsid_of_u s a b hl
    exact ⟨w, hw, he, fun hk => (exec_wload_kind2 s a b hk).trans he⟩
  case full => exact (exec_wload_kind0 s a b hk).trans (wloadLoad_of_full _ a _ s hq)
  case all =>
    dsimp only
    rw [exec_wload_kind2 s a b hk]
    exact exec_wloadEmptyAsid s a b hl

end Sys2Proof.Machine
end

section
/-! ADINV and its completion (10 R224, R225): the clusters of a scope, what an invalidation leaves of each, and how little else it changes. -/

namespace Sys2Proof.Machine

/-! ### What marking and invalidating may change -/

/-- `s` with what its current hart does, its other harts and its clusters taken from `t`: all that an ADINV's passes over the clusters can change. -/
def State.markedAs (s t : State) : State := { s with hart := { s.hart with run := t.hart.run }, others := t.others, clusters := t.clusters }

theorem State.markedAs_trans {s t u : State} (ht : t = s.markedAs t) (hu : u = t.markedAs u) : u = s.markedAs u := by
  rw [ht] at hu
  exact hu

theorem State.frame_of_markedAs {s t : State} (h : t = s.markedAs t) :
    t.cur = s.cur ∧ t.tick = s.tick ∧ t.mem = s.mem ∧ t.pend = s.pend ∧ t.hart = { s.hart with run := t.hart.run } :=
  ⟨(congrArg State.cur h :), (congrArg State.tick h :), (congrArg State.mem h :), (congrArg State.pend h :), (congrArg State.hart h :)⟩

/-- A fold of operations that change no more than that changes no more. -/
theorem foldl_markedAs {α : Type} (f : State → α → State) (h : ∀ s a, f s a = s.markedAs (f s a)) (l : List α) (s : State) :
    l.foldl f s = s.markedAs (l.foldl f s) := by
  induction l generalizing s with
  | nil => rfl
  | cons a l ih => exact State.markedAs_trans (h s a) (ih (f s a))

/-! ### Marked rows (24 R439) -/

/-- Marked rows are rows that a hart waits for. -/
theorem Hart.markRows_eq (h : Hart) (q : AdSel) (fills : List BFill) : h.markRows q fills = { h with run := (h.markRows q fills).run } := by
  unfold Hart.markRows
  split <;> rfl

theorem State.modHart_markRows_eq (s : State) (h : Nat) (q : AdSel) (fills : List BFill) :
    s.modHart h (fun k => k.markRows q fills) = s.markedAs (s.modHart h (fun k => k.markRows q fills)) := by
  by_cases hc : h = s.cur
  · simp only [State.modHart, State.setHart, State.hartAt, if_pos hc, State.markedAs, ← Hart.markRows_eq]
  · simp only [State.modHart, State.setHart, if_neg hc, State.markedAs]

/-- The harts of a cluster that wait for fills which the selection matches are marked, where there is such a fill. -/
def State.markCluster (s : State) (q : AdSel) (c : Nat) : State :=
  if (s.clusterAt c).fills.any (fun f => q.hits f.item) then
    (List.range 16).foldl (fun u i => u.modHart (firstHart c + i) (fun h => h.markRows q (s.clusterAt c).fills)) s
  else s

theorem State.markCluster_eq (s : State) (q : AdSel) (c : Nat) : s.markCluster q c = s.markedAs (s.markCluster q c) := by
  unfold State.markCluster
  split
  · exact foldl_markedAs _ (fun u i => u.modHart_markRows_eq (firstHart c + i) q _) _ s
  · rfl

theorem foldl_modHart_clusters (f : Nat → Hart → Hart) (n : Nat → Nat) (l : List Nat) (s : State) :
    (l.foldl (fun u i => u.modHart (n i) (f i)) s).clusters = s.clusters := by
  induction l generalizing s with
  | nil => rfl
  | cons i l ih => exact (ih _).trans (s.modHart_clusters ..)

@[simp] theorem State.clusterAt_markCluster (s : State) (q : AdSel) (c k : Nat) : (s.markCluster q c).clusterAt k = s.clusterAt k := by
  have h : (s.markCluster q c).clusters = s.clusters := by
    unfold State.markCluster
    split
    · exact foldl_modHart_clusters (fun _ h => h.markRows q (s.clusterAt c).fills) (firstHart c + ·) _ s
    · rfl
  rw [State.clusterAt, State.clusterAt, h]

/-! ### One cluster (10 R225) -/

/-- A cluster after an ADINV by hart `h` at step `t` has reached it. -/
def Cluster.invalidated (k : Cluster) (q : AdSel) (sc : Scope) (t h : Nat) : Cluster :=
  { k with
    bunting := k.bunting.filter (fun x => !q.hits x)
    adinvs := ⟨q, sc, t, h⟩ :: k.adinvs
    fills := k.fills.map (fun f => if q.hits f.item then { f with dropped := true } else f) }

theorem State.invalidate_eq_modCluster (s : State) (q : AdSel) (sc : Scope) (h c : Nat) :
    s.invalidate q sc h c = (s.markCluster q c).modCluster c (fun k => k.invalidated q sc (s.markCluster q c).tick h) := rfl

theorem State.invalidate_eq (s : State) (q : AdSel) (sc : Scope) (h c : Nat) : s.invalidate q sc h c = s.markedAs (s.invalidate q sc h c) :=
  State.markedAs_trans (s.markCluster_eq q c) rfl

theorem State.clusterAt_invalidate (s : State) (q : AdSel) (sc : Scope) (h c k : Nat) :
    (s.invalidate q sc h c).clusterAt k = if k = c then (s.clusterAt c).invalidated q sc s.tick h else s.clusterAt k := by
  obtain ⟨-, htick, -⟩ := State.frame_of_markedAs (s.markCluster_eq q c)
  rw [State.invalidate_eq_modCluster, State.clusterAt_modCluster, State.clusterAt_markCluster, State.clusterAt_markCluster, htick]

/-! ### The clusters of a scope (10 R224) -/

/-- Each cluster of a list is invalidated in turn by the current hart. -/
def State.invalidateAll (s : State) (q : AdSel) (sc : Scope) (l : List Nat) : State := l.foldl (fun s c => s.invalidate q sc s.cur c) s

theorem State.invalidateAll_eq (s : State) (q : AdSel) (sc : Scope) (l : List Nat) : s.invalidateAll q sc l = s.markedAs (s.invalidateAll q sc l) :=
  foldl_markedAs _ (fun s c => s.invalidate_eq q sc s.cur c) l s

/-- No cluster is reached twice where the list holds none twice. -/
theorem State.clusterAt_invalidateAll (s : State) (q : AdSel) (sc : Scope) {l : List Nat} (hl : l.Nodup) (k : Nat) :
    (s.invalidateAll q sc l).clusterAt k = if k ∈ l then (s.clusterAt k).invalidated q sc s.tick s.cur else s.clusterAt k := by
  induction l generalizing s with
  | nil => rfl
  | cons c l ih =>
    obtain ⟨hc, hl⟩ := List.nodup_cons.mp hl
    have hcons : s.invalidateAll q sc (c :: l) = (s.invalidate q sc s.cur c).invalidateAll q sc l := rfl
    obtain ⟨hcur, htick, -⟩ := State.frame_of_markedAs (s.invalidate_eq q sc s.cur c)
    rw [hcons, ih _ hl, State.clusterAt_invalidate, htick, hcur]
    by_cases hk : k = c
    · subst hk
      simp [hc]
    · simp [hk]

theorem clustersIn_nodup (sc : Scope) (h : Nat) : (clustersIn sc h).Nodup := by
  have hblock (b n : Nat) : ((List.range n).map (b + ·)).Nodup :=
    List.Pairwise.map (b + ·) (fun _ _ hne heq => hne (Nat.add_left_cancel heq)) List.nodup_range
  cases sc with
  | hart | core | cluster => exact List.pairwise_singleton _ _
  | quad => exact hblock _ 4
  | die => exact hblock _ 24
  | pair => exact hblock _ 48
  | device | system | pod | durable => exact List.nodup_range

/-! ### The words (10 R224, R225) -/

/-- What ADINV selects, by the entry that X(a) names and the block and ASID in `w`, the hart's own ASID where `w` gives none. -/
def State.adSel (s : State) (a : Reg) (w : Word) : AdSel :=
  ⟨if bits (s.x a) 0 20 = 0xFFFFF then none else some (bits (s.x a) 0 20), if bitSet w 10 then none else some (bits w 0 10),
    if bitSet w 11 then word (bits w 16 11) else s.hart.asid⟩

theorem exec_adinv_eq (s : State) (a b : Reg) (sc : Scope) (h : ¬(bitSet (s.x b) 11 ∧ s.hart.level = .u)) :
    exec (.adinv a b sc) s = .next (((s.release (.hart s.cur) sc).invalidateAll (s.adSel a (s.x b)) sc (clustersIn sc s.cur)).withHart
      (fun k => { k with run := .waiting (.adinv a b sc) })) :=
  if_neg (by simpa using h)

/-- An ADINV that is allowed waits, with the hart's stores performed and the clusters of its scope, and no others, invalidated. -/
theorem exec_adinv (s : State) (a b : Reg) (sc : Scope) (h : ¬(bitSet (s.x b) 11 ∧ s.hart.level = .u)) :
    ∃ t, exec (.adinv a b sc) s = .next t ∧ t.hart = { s.hart with run := .waiting (.adinv a b sc) } ∧ t.mem = (s.appear (.hart s.cur)).mem
      ∧ t.pend = (s.release (.hart s.cur) sc).pend
      ∧ ∀ c, t.clusterAt c = if c ∈ clustersIn sc s.cur then (s.clusterAt c).invalidated (s.adSel a (s.x b)) sc s.tick s.cur else s.clusterAt c := by
  let u := s.release (.hart s.cur) sc
  obtain ⟨-, -, hmem, hpend, hhart⟩ := State.frame_of_markedAs (u.invalidateAll_eq (s.adSel a (s.x b)) sc (clustersIn sc s.cur))
  refine ⟨_, exec_adinv_eq s a b sc h, ?_, hmem, hpend, u.clusterAt_invalidateAll (s.adSel a (s.x b)) sc (clustersIn_nodup sc s.cur)⟩
  rw [State.withHart_hart, hhart]
  rfl

theorem exec_adinv_of_u (s : State) (a b : Reg) (sc : Scope) (hb : bitSet (s.x b) 11 = true) (hl : s.hart.level = .u) :
    ∃ w, encode (.adinv a b sc) = some w ∧ exec (.adinv a b sc) s = .next (s.trap ⟨2, w.setWidth 64⟩) :=
  ⟨_, rfl, (if_pos (by simp [hb, hl])).trans (illegal_of_encode s (.adinv a b sc) _ rfl)⟩

theorem exec_adinvComplete (s : State) {a b : Reg} {sc : Scope} (h : s.hart.run = .waiting (.adinv a b sc)) :
    exec .adinvComplete s = .next (s.withHart Hart.resume).retire := by
  show execAdinvComplete s = _
  rw [execAdinvComplete, h]
  rfl

/-- Settles O34: what the word leaves of hart, stores and each cluster, its refusal, and its completion. -/
theorem adapterInvalidation : Obligations.AdapterInvalidation := by
  intro s a b sc
  refine ⟨fun h => ?_, exec_adinv_of_u s a b sc, fun _ _ _ h => exec_adinvComplete s h⟩
  obtain ⟨t, ht, hhart, hmem, hpend, hclusters⟩ := exec_adinv s a b sc h
  refine ⟨t, ht, by rw [hhart], by rw [hhart], by rw [hhart], hmem, hpend, fun c hc => ?_, fun c hc => ?_⟩
  · rw [hclusters, if_pos hc]
    exact ⟨rfl, rfl⟩
  · rw [hclusters, if_neg hc]

end Sys2Proof.Machine
end
